-- ==== Sys2Proof/Word.lean ====
section
/-! DEFINITION. The bit strings of the Bentur B7 and their plainest arithmetic (R3 to R5, R132). -/

namespace Sys2Proof

/-- A 32-bit register value. -/
abbrev Word := BitVec 32
/-- One byte of memory. -/
abbrev Byte := BitVec 8
/-- A 64-bit pair value, low word first in the registers (R42). -/
abbrev DWord := BitVec 64
/-- A bit per lane of a group: bit n is lane n (R42). -/
abbrev LaneMask := BitVec 96

/-- The number of lanes of a group (R172). -/
def lanes : Nat := 96

end Sys2Proof
end

