-- ==== Sys2Proof/Machine/Num.lean ====
section
/-! DEFINITION. The number formats and the helper functions of the spec's pseudocode: SInt, ZInt, Wrap, SatS, SatZ (R132),
Dec, Enc, Overflow, RoundI, FToI (R134 to R146), BlockVal (R137 to R139), and the exact values of the special functions
(R162). Exact values are integers scaled by powers of two. -/

namespace Sys2Proof.Machine

/-! ### Integers (R132) -/

/-- SInt of the `w` low bits of a number. -/
def sInt (w n : Nat) : Int := if n % 2 ^ w < 2 ^ (w - 1) then (n % 2 ^ w : Nat) else (n % 2 ^ w : Nat) - (2 ^ w : Nat)
/-- Wrap(x, w), as a number. -/
def wrapN (x : Int) (w : Nat) : Nat := (x % (2 ^ w : Nat)).toNat
/-- SatS(x, w), as a number. -/
def satS (x : Int) (w : Nat) : Nat := wrapN (min (max x (-(2 ^ (w - 1) : Nat))) ((2 ^ (w - 1) : Nat) - 1)) w
/-- SatZ(x, w), as a number. -/
def satZ (x : Int) (w : Nat) : Nat := wrapN (min (max x 0) ((2 ^ w : Nat) - 1)) w
/-- The number of 1 bits among the `w` low bits. -/
def popCount (w n : Nat) : Nat := ((List.range w).filter fun i => n.testBit i).length
/-- The number of leading 0 bits of a 32-bit value. -/
def leadZeros (n : Nat) : Nat := if n % 2 ^ 32 = 0 then 32 else 31 - (n % 2 ^ 32).log2
/-- Bit i of the result is bit 31 − i. -/
def reverse32 (n : Nat) : Nat := (List.range 32).foldl (fun r i => 2 * r + (if n.testBit i then 1 else 0)) 0

/-! ### Flags and modes -/

/-- The five sticky flags of a lane (R53). -/
abbrev Flags := BitVec 5
def flNV : Flags := 16
def flDZ : Flags := 8
def flOF : Flags := 4
def flUF : Flags := 2
def flNX : Flags := 1

/-- The rounding modes (R140). -/
inductive Rnd where
  | rne
  | rtz
  | rup
  | rdn
  deriving DecidableEq, Repr

/-- The code of RND (R51). -/
def rndOf (n : Nat) : Rnd :=
  match n % 4 with
  | 0 => .rne
  | 1 => .rtz
  | 2 => .rup
  | _ => .rdn

/-- An exact value: NaN, an infinity, or ±(n + d) · 2^e with 0 < d < 1 when `sticky` and d = 0 otherwise. -/
inductive XVal where
  | nan
  | inf (neg : Bool)
  | fin (neg : Bool) (n : Nat) (e : Int) (sticky : Bool)
  deriving DecidableEq, Repr

/-! ### Formats (R134, R135) -/

/-- A floating-point format. -/
structure Fmt where
  eb : Nat
  fb : Nat
  bias : Nat
  /-- Infinities and NaNs as IEEE 754 codes them. -/
  ieee : Bool
  /-- It has signalling NaNs. -/
  signalling : Bool
  qnan : Nat
  /-- The code of the largest finite magnitude. -/
  maxCode : Nat
  deriving DecidableEq, Repr

def fmtF32 : Fmt := ⟨8, 23, 127, true, true, 0x7FC00000, 0x7F7FFFFF⟩
def fmtF16 : Fmt := ⟨5, 10, 15, true, true, 0x7E00, 0x7BFF⟩
def fmtBf16 : Fmt := ⟨8, 7, 127, true, true, 0x7FC0, 0x7F7F⟩
def fmtE4m3 : Fmt := ⟨4, 3, 7, false, false, 0x7F, 0x7E⟩
def fmtE5m2 : Fmt := ⟨5, 2, 15, true, false, 0x7E, 0x7B⟩

/-- The format of a type code (R69). -/
def fmtOf (t : Nat) : Fmt :=
  match t with
  | 0x42 => fmtF16
  | 0x52 => fmtBf16
  | 0x61 => fmtE4m3
  | 0x71 => fmtE5m2
  | _ => fmtF32

/-- The width of a format. -/
def Fmt.width (F : Fmt) : Nat := 1 + F.eb + F.fb
/-- The exponent of the smallest normal value. -/
def Fmt.emin (F : Fmt) : Int := 1 - (F.bias : Int)
/-- The sign bit of a code. -/
def Fmt.neg (F : Fmt) (b : Nat) : Bool := b.testBit (F.eb + F.fb)
/-- The magnitude bits of a code. -/
def Fmt.mag (F : Fmt) (b : Nat) : Nat := b % 2 ^ (F.eb + F.fb)
/-- Is the code a NaN. -/
def Fmt.isNan (F : Fmt) (b : Nat) : Bool :=
  if F.ieee then (2 ^ F.eb - 1) * 2 ^ F.fb < F.mag b else F.mag b = 2 ^ (F.eb + F.fb) - 1
/-- Is the code a signalling NaN. -/
def Fmt.isSnan (F : Fmt) (b : Nat) : Bool := F.signalling && F.isNan b && !b.testBit (F.fb - 1)
/-- The code with a sign put before a magnitude. -/
def Fmt.sign (F : Fmt) (neg : Bool) (m : Nat) : Nat := if neg then 2 ^ (F.eb + F.fb) + m else m
/-- The code of infinity's magnitude. -/
def Fmt.infMag (F : Fmt) : Nat := (2 ^ F.eb - 1) * 2 ^ F.fb

/-- Dec (R141). -/
def dec (F : Fmt) (b : Nat) (ftzi : Bool) : XVal :=
  let m := F.mag b
  if F.isNan b then .nan
  else if F.ieee && m == F.infMag then .inf (F.neg b)
  else if m / 2 ^ F.fb = 0 then
    .fin (F.neg b) (if ftzi then 0 else m) (F.emin - F.fb) false
  else .fin (F.neg b) (2 ^ F.fb + m % 2 ^ F.fb) ((m / 2 ^ F.fb : Nat) - (F.bias : Int) - F.fb) false

/-- The magnitude code (not limited by M) and inexactness of (n + d) · 2^e rounded to the grid of the format (R142). -/
def roundMag (F : Fmt) (neg : Bool) (n : Nat) (e : Int) (sticky : Bool) (m : Rnd) : Nat × Bool :=
  if n = 0 ∧ !sticky then (0, false)
  else
    let q : Int := max ((n.log2 : Int) + e - F.fb) (F.emin - F.fb)
    let d : Nat := (q - e).toNat
    let k := if e < q then n / 2 ^ d else n * 2 ^ (e - q).toNat
    let rem := if e < q then n % 2 ^ d else 0
    let half := if e < q then 2 ^ (d - 1) else 1
    let inexact := rem ≠ 0 ∨ sticky
    let up : Bool := match m with
      | .rne => half < rem || (rem == half && (sticky || k % 2 == 1))
      | .rtz => false
      | .rup => inexact && !neg
      | .rdn => inexact && neg
    let k' := if up then k + 1 else k
    -- the grid step q and the count k' give the code: consecutive counts have consecutive codes
    (k' + (q - (F.emin - F.fb)).toNat * 2 ^ F.fb, inexact)

/-- Overflow (R144). -/
def overflowOf (F : Fmt) (neg : Bool) (m : Rnd) (sat : Bool) : Nat × Flags :=
  let toMax := sat || m == .rtz || (m == .rup && neg) || (m == .rdn && !neg)
  (if toMax then F.sign neg F.maxCode else if F.ieee then F.sign neg F.infMag else F.qnan, flOF ||| flNX)

/-- Enc (R142). -/
def enc (F : Fmt) (x : XVal) (m : Rnd) (sat ftzo : Bool) : Nat × Flags :=
  match x with
  | .nan => (F.qnan, 0)
  | .inf neg => if sat then (F.sign neg F.maxCode, 0) else if F.ieee then (F.sign neg F.infMag, 0) else (F.qnan, flNV)
  | .fin neg n e st =>
    let (c, inexact) := roundMag F neg n e st m
    let nx : Flags := if inexact then flNX else 0
    if F.maxCode < c then overflowOf F neg m sat
    else
      let tiny := c < 2 ^ F.fb
      let uf : Flags := if inexact ∧ tiny then flUF else 0
      if ftzo ∧ tiny ∧ c ≠ 0 then (F.sign neg 0, nx ||| flUF ||| flNX)
      else (F.sign neg c, nx ||| uf)

/-! ### Exact arithmetic -/

/-- The sign and scaled magnitude as one integer at exponent `e0`. -/
def alignTo (neg : Bool) (n : Nat) (e e0 : Int) : Int :=
  let k : Int := (n * 2 ^ (e - e0).toNat : Nat)
  if neg then -k else k

/-- An exact sum of two finite values; the sign of an exact zero by R143. -/
def addFin (an : Bool) (a : Nat) (ae : Int) (bn : Bool) (b : Nat) (be : Int) (m : Rnd) : XVal :=
  let e0 := min ae be
  let k := alignTo an a ae e0 + alignTo bn b be e0
  if k = 0 then .fin (if an && bn then true else if !an && !bn then false else m == .rdn) 0 e0 false
  else .fin (decide (k < 0)) k.natAbs e0 false

/-- a + b; opposite infinities give NaN (the caller raises NV). -/
def xAdd (a b : XVal) (m : Rnd) : XVal :=
  match a, b with
  | .nan, _ => .nan
  | _, .nan => .nan
  | .inf s, .inf t => if s = t then .inf s else .nan
  | .inf s, _ => .inf s
  | _, .inf t => .inf t
  | .fin an n e _, .fin bn k f _ => addFin an n e bn k f m

/-- a · b; 0 · ∞ gives NaN. -/
def xMul (a b : XVal) : XVal :=
  match a, b with
  | .nan, _ => .nan
  | _, .nan => .nan
  | .inf s, .inf t => .inf (s != t)
  | .inf s, .fin t n _ _ => if n = 0 then .nan else .inf (s != t)
  | .fin s n _ _, .inf t => if n = 0 then .nan else .inf (s != t)
  | .fin s n e _, .fin t k f _ => .fin (s != t) (n * k) (e + f) false

/-- −a. -/
def xNeg : XVal → XVal
  | .nan => .nan
  | .inf s => .inf (!s)
  | .fin s n e st => .fin (!s) n e st

/-- Is the value NaN. -/
def XVal.isNan : XVal → Bool
  | .nan => true
  | _ => false
/-- Is the value infinite. -/
def XVal.isInf : XVal → Bool
  | .inf _ => true
  | _ => false
/-- Is the value zero. -/
def XVal.isZero : XVal → Bool
  | .fin _ n _ st => n = 0 && !st
  | _ => false

/-- An integer as an exact value. -/
def xInt (z : Int) : XVal := .fin (decide (z < 0)) z.natAbs 0 false

/-- −1, 0 or 1 as a < b, a = b, a > b; both not NaN; −0 equals +0. -/
def xCmp (a b : XVal) : Int :=
  match a, b with
  | .inf s, .inf t => if s = t then 0 else if s then -1 else 1
  | .inf s, _ => if s then -1 else 1
  | _, .inf t => if t then 1 else -1
  | .fin s n e _, .fin t k f _ =>
    let e0 := min e f
    (alignTo s n e e0 - alignTo t k f e0).sign
  | _, _ => 0

/-- Multiply by a power of two. -/
def xScale (x : XVal) (k : Int) : XVal :=
  match x with
  | .fin s n e st => .fin s n (e + k) st
  | y => y

/-! ### Integral rounding (R145) -/

/-- RoundI of a finite value, and whether it differs from the value. -/
def roundI (neg : Bool) (n : Nat) (e : Int) (m : Rnd) : Int × Bool :=
  if 0 ≤ e then ((if neg then -((n * 2 ^ e.toNat : Nat) : Int) else (n * 2 ^ e.toNat : Nat)), false)
  else
    let d := (-e).toNat
    let k := n / 2 ^ d
    let rem := n % 2 ^ d
    let half := 2 ^ (d - 1)
    let up : Bool := match m with
      | .rne => half < rem || (rem == half && k % 2 == 1)
      | .rtz => false
      | .rup => rem != 0 && !neg
      | .rdn => rem != 0 && neg
    let k' : Int := ((if up then k + 1 else k : Nat) : Int)
    ((if neg then -k' else k'), rem != 0)

/-- FToI (R145). -/
def fToI (x : XVal) (m : Rnd) (w : Nat) (signed : Bool) : Nat × Flags :=
  let lo : Int := if signed then -((2 ^ (w - 1) : Nat) : Int) else 0
  let hi : Int := if signed then ((2 ^ (w - 1) : Nat) : Int) - 1 else ((2 ^ w : Nat) : Int) - 1
  match x with
  | .nan => (0, flNV)
  | .inf s => (wrapN (if s then lo else hi) w, flNV)
  | .fin s n e _ =>
    let (k, inexact) := roundI s n e m
    if hi < k then (wrapN hi w, flNV)
    else if k < lo then (wrapN lo w, flNV)
    else (wrapN k w, if inexact then flNX else 0)

/-! ### Blocks (R137 to R139) -/

/-- E2M1 codes as twice their value: code 0b1000 is −0. -/
def e2m1Twice (c : Nat) : Nat :=
  match c % 8 with
  | 0 => 0
  | 1 => 1
  | 2 => 2
  | 3 => 3
  | 4 => 4
  | 5 => 6
  | 6 => 8
  | _ => 12

/-- BlockVal (R139). -/
def blockVal (c s x : Nat) (special : Bool) : XVal :=
  if s = 0xFF then .nan
  else if c = 8 ∧ special then xScale (dec fmtE4m3 x false) ((s : Int) - 127)
  else .fin (8 ≤ c) (e2m1Twice c) ((s : Int) - 128) false

/-! ### Special functions (R162) -/

/-- The integer square root, by bits from the `k`-th down. -/
def isqrtFrom (n : Nat) : Nat → Nat → Nat
  | 0, r => r
  | k + 1, r => isqrtFrom n k (if (r + 2 ^ k) * (r + 2 ^ k) ≤ n then r + 2 ^ k else r)

/-- floor(√n). -/
def isqrt (n : Nat) : Nat := isqrtFrom n (n.log2 / 2 + 1) 0

/-- 1 / (n · 2^e), n > 0. -/
def recip (neg : Bool) (n : Nat) (e : Int) : XVal :=
  let k := n.log2 + 40
  .fin neg (2 ^ k / n) (-(k : Int) - e) (2 ^ k % n != 0)

/-- √(n · 2^e), n > 0. -/
def sqrtOf (n : Nat) (e : Int) : XVal :=
  let k : Nat := 80 + (if e % 2 = 0 then 0 else 1)
  let r := isqrt (n * 2 ^ k)
  .fin false r ((e - (k : Int)) / 2) (r * r != n * 2 ^ k)

/-- 1 / √(n · 2^e), n > 0. -/
def rsqrtOf (n : Nat) (e : Int) : XVal :=
  let k0 := n.log2 + 80
  let k := if (e + (k0 : Int)) % 2 = 0 then k0 else k0 + 1
  let r := isqrt (2 ^ k / n)
  .fin false r (-((k : Int) + e) / 2) (r * r * n != 2 ^ k)

/-- The fixed-point fraction bits of the logarithm and exponential. -/
def fxBits : Nat := 256

/-- floor(ln 2 · 2^256). -/
def ln2Fixed : Nat := 0xb17217f7d1cf79abc9e3b39803f2f6af40f343267298b62d8a0d175b8baafa2b

/-- Terms of the exponential series from term `k` on: t is the current term. -/
def expSeries (x : Nat) : Nat → Nat → Nat → Nat
  | 0, _, _ => 0
  | fuel + 1, k, t => t + expSeries x fuel (k + 1) (t * x / 2 ^ fxBits / k)

/-- 2^a for a finite a ≠ 0: the integer part is the exponent, and the exponential series gives the fraction's power. The
margin of the fixed-point error below every rounding boundary is UNVERIFIED (log entry 10). -/
def exp2Of (neg : Bool) (n : Nat) (e : Int) : XVal :=
  if (n.log2 : Int) + e ≥ 10 then .fin false (2 ^ 60) (if neg then -1000 else 1000) true
  else
    let a := alignTo neg n e (min e 0)            -- a · 2^(−min e 0)
    let d : Nat := (-(min e 0)).toNat
    let ip : Int := a / (2 ^ d : Nat)
    let fp : Nat := (a % (2 ^ d : Nat)).toNat
    if fp = 0 then .fin false 1 ip false
    else
      let f := fp * 2 ^ fxBits / 2 ^ d
      let x := f * ln2Fixed / 2 ^ fxBits
      let r := expSeries x 80 1 (2 ^ fxBits)
      .fin false (r / 2 ^ 64) (ip - 192) true

/-- Terms of the series of atanh: t is z^(2j + 1), z2 is z². -/
def atanhSeries (z2 : Nat) : Nat → Nat → Nat → Nat
  | 0, _, _ => 0
  | fuel + 1, k, t => t / k + atanhSeries z2 fuel (k + 2) (t * z2 / 2 ^ fxBits)

/-- log2 of n · 2^e, n > 0; the margin of the error is UNVERIFIED (log entry 10). -/
def log2Of (n : Nat) (e : Int) : XVal :=
  let k := n.log2
  let ip : Int := (k : Int) + e
  if n = 2 ^ k then .fin (decide (ip < 0)) ip.natAbs 0 false
  else
    let z := (n - 2 ^ k) * 2 ^ fxBits / (n + 2 ^ k)
    let l := 2 * atanhSeries (z * z / 2 ^ fxBits) 90 1 z * 2 ^ fxBits / ln2Fixed
    let t : Int := ip * (2 ^ fxBits : Nat) + (l : Nat)
    .fin (decide (t < 0)) (t.natAbs / 2 ^ 64) (-192) true

/-! ### Total order (R130) -/

/-- A .f32 code's place in the totalOrder of IEEE 754. -/
def totalKey (b : Nat) : Nat := if b.testBit 31 then 2 ^ 32 - 1 - b else 2 ^ 31 + b

end Sys2Proof.Machine
end

