-- ==== Sys2Proof/Config.lean ====
section
/-! DEFINITION. What an implementation fixes and what the spec leaves open: constants without a body, so that no proof
can see a value of them. Each is applied to the counter that State holds, or to the operands it depends on. -/

namespace Sys2Proof.Config

/-- A free choice between two outcomes (the n-th one a run meets). DESIGN CHOICE, log entry 5. -/
opaque freeBit : Nat → Bool
/-- A free choice of a number (the n-th one a run meets): an order that the spec leaves open. -/
opaque freeNat : Nat → Nat
/-- A free 32-bit value. -/
opaque freeWord : Nat → Word

/-- The n-th AES-256 key that the security processor draws from its DRBG (R405, R417, R424). DESIGN CHOICE, log entry 15. -/
opaque drawnKey : Nat → BitVec 256
/-- The address of a line of a device's counter tree, by its level (0 the leaves) and number (R409, R410). -/
opaque treeLine : Nat → Nat → Nat
/-- The n-th debug-unlock nonce (R425). -/
opaque drawnNonce : Nat → BitVec 64
/-- The device serial number (R425). -/
opaque serial : BitVec 64
/-- Switen Computing's PCIe vendor ID, of which the DVSEC header is made (R452). -/
opaque vendorId : BitVec 16

/-- The bytes of firmware image n, 0 to 3, that the boot ROM measures at a cold reset (R420). -/
opaque firmware : Nat → Nat → List Byte
/-- The device attestation key, fixed at manufacture (R421). -/
opaque attestKey : Nat
/-- The n-th nonce of a signature. -/
opaque signNonce : Nat → Nat
/-- The bytes that SPDM 1.3 has signed for an answer and its nonce; the standard gives them, the spec does not (R421). -/
opaque spdmSigned : List Byte → List Byte
/-- The public key of the Switen debug authority, which the boot ROM holds (R425). -/
opaque debugAuthority : Nat × Nat
/-- The private key-agreement key drawn at the n-th cold reset (R424). -/
opaque agreementKey : Nat → Nat
/-- The answer of the SPDM responder to a standard request that the spec only lists (R435): request code, function, data. -/
opaque spdmAnswer : Nat → Nat → Nat → List Byte

/-- The FRAME of a page that the reconciler places for the device's rings and energy block, by its number (R374). -/
opaque sysFrame : Nat → Nat

/-- The base of the ring that a peer's depot control words at an address belong to, as the courier knows it (R329). -/
opaque depotBase : Nat → Nat
/-- The size of that ring, 2^(6 + n mod 11) records (R329). -/
opaque depotLog : Nat → Nat

/-- The number of frames of 64 KiB in a channel set (R412). -/
def framesPerSet : Nat := 359168

end Sys2Proof.Config
end

