-- ==== Sys2Proof/Syntax.lean ====
section
/-! DEFINITION. The instruction set and the steps of the device: one constructor per row of spec/opcode_table.json.
A scalar instruction carries the fields of its word (R59); a lane instruction carries the record of its 96-bit word
(R62); a step of the device carries what names it and what the outside world supplies to it. -/

namespace Sys2Proof

/-- The fields of a lane word below its opcode (R62). -/
structure LaneF where
  stall : BitVec 4
  guard : BitVec 5
  inv   : BitVec 1
  dst   : BitVec 10
  a     : BitVec 10
  b     : BitVec 10
  c     : BitVec 10
  imm   : BitVec 8
  ty    : BitVec 8
  mode  : BitVec 4
  ext   : BitVec 16
  deriving DecidableEq, Repr

/-- How a memory line or a peer access comes back (R480, R484): good, a failed MAC at a tree level, a weight line that
fails at a level of the window's tree, an uncorrectable ECC error on a channel, or a refusal by the peer. -/
inductive LineOut where
  | ok
  | mac (level : Nat)
  | weight (level : Nat)
  | ecc (channel kind : Nat)
  | refused
  deriving DecidableEq, Repr

/-- The host's answer to a PRI Page Request (R372). -/
inductive PriResp where
  | success
  | invalid
  | failure
  deriving DecidableEq, Repr

/-- Who stores to a notify VALUE (R432, R433): an oasis hart or the host through a function. -/
inductive NotifySrc where
  | hart (n : Nat)
  | function
  deriving DecidableEq, Repr

/-- The kind of an access that arrives from a peer device (R365). -/
inductive PeerKind where
  | load (len : Nat)
  | store
  | atomic (op : Nat) (len : Nat)
  deriving DecidableEq, Repr

/-- The kind of an oasis hart's access (R430). -/
inductive OasisKind where
  | load (len : Nat)
  | store
  | fetch
  | mtime (write : Bool)
  deriving DecidableEq, Repr

/-- The place of an SRAM element that the scrubber reads (R483). -/
inductive SramAt where
  | reg (gid row lane : Nat)
  | opd (gid row lane : Nat)
  | spad (row elem : Nat)
  | febits (row : Nat)
  | acc (row elem : Nat)
  | slot (n row : Nat)
  | control (vd : Nat)
  | root (vd : Nat)
  deriving DecidableEq, Repr

/-- What a scrub or a patrol read finds (R483). -/
inductive ScrubOut where
  | clean
  | corrected
  | uncorrectable
  | remap
  deriving DecidableEq, Repr

/-- A register of a group, as a debug access of the physical function names it: s or k of a split, one lane of a lane
register by its specifier (R64), or a word of the predicates and flags as SAVEG.p lays them out (R395, R419). -/
inductive DebugReg where
  | scalar (split n : Nat)
  | lane (spec lane : Nat)
  | pred (word : Nat)
  deriving DecidableEq, Repr

/-- What a debug access of the physical function names (R419). -/
inductive DebugLoc where
  | mem (addr : Nat) (len : Nat)
  | reg (core slot : Nat) (r : DebugReg)
  deriving DecidableEq, Repr

/-- One constructor per row of the opcode table. -/
inductive Instr where
  /-- SADD (R82). -/
  | sadd (d : BitVec 6) (a : BitVec 7) (b : BitVec 7) (t : BitVec 2)
  /-- SADD_I64 (R82). -/
  | saddI64 (d : BitVec 6) (a : BitVec 7) (b : BitVec 7) (t : BitVec 2)
  /-- SADD_SAT (R82). -/
  | saddSat (d : BitVec 6) (a : BitVec 7) (b : BitVec 7) (t : BitVec 2)
  /-- SADD_USAT (R82). -/
  | saddUsat (d : BitVec 6) (a : BitVec 7) (b : BitVec 7) (t : BitVec 2)
  /-- SSUB (R82). -/
  | ssub (d : BitVec 6) (a : BitVec 7) (b : BitVec 7) (t : BitVec 2)
  /-- SSUB_I64 (R82). -/
  | ssubI64 (d : BitVec 6) (a : BitVec 7) (b : BitVec 7) (t : BitVec 2)
  /-- SSUB_SAT (R82). -/
  | ssubSat (d : BitVec 6) (a : BitVec 7) (b : BitVec 7) (t : BitVec 2)
  /-- SSUB_USAT (R82). -/
  | ssubUsat (d : BitVec 6) (a : BitVec 7) (b : BitVec 7) (t : BitVec 2)
  /-- SMUL (R82). -/
  | smul (d : BitVec 6) (a : BitVec 7) (b : BitVec 7) (t : BitVec 2)
  /-- SMULH (R82). -/
  | smulh (d : BitVec 6) (a : BitVec 7) (b : BitVec 7) (t : BitVec 2)
  /-- SMULH_Z32 (R82). -/
  | smulhZ32 (d : BitVec 6) (a : BitVec 7) (b : BitVec 7) (t : BitVec 2)
  /-- SDIV (R83). -/
  | sdiv (d : BitVec 6) (a : BitVec 7) (b : BitVec 7) (t : BitVec 2)
  /-- SDIV_Z32 (R83). -/
  | sdivZ32 (d : BitVec 6) (a : BitVec 7) (b : BitVec 7) (t : BitVec 2)
  /-- SDIV_REM (R83). -/
  | sdivRem (d : BitVec 6) (a : BitVec 7) (b : BitVec 7) (t : BitVec 2)
  /-- SDIV_REM_Z32 (R83). -/
  | sdivRemZ32 (d : BitVec 6) (a : BitVec 7) (b : BitVec 7) (t : BitVec 2)
  /-- SDIV_RESULT (R83). -/
  | sdivResult (core unit : Nat)
  /-- SAND (R82). -/
  | sand (d : BitVec 6) (a : BitVec 7) (b : BitVec 7) (t : BitVec 2)
  /-- SAND_NOT (R82). -/
  | sandNot (d : BitVec 6) (a : BitVec 7) (b : BitVec 7) (t : BitVec 2)
  /-- SOR (R82). -/
  | sor (d : BitVec 6) (a : BitVec 7) (b : BitVec 7) (t : BitVec 2)
  /-- SOR_NOT (R82). -/
  | sorNot (d : BitVec 6) (a : BitVec 7) (b : BitVec 7) (t : BitVec 2)
  /-- SXOR (R82). -/
  | sxor (d : BitVec 6) (a : BitVec 7) (b : BitVec 7) (t : BitVec 2)
  /-- SXOR_NOT (R82). -/
  | sxorNot (d : BitVec 6) (a : BitVec 7) (b : BitVec 7) (t : BitVec 2)
  /-- SSHL (R82). -/
  | sshl (d : BitVec 6) (a : BitVec 7) (b : BitVec 7) (t : BitVec 2)
  /-- SSHL_I64 (R82). -/
  | sshlI64 (d : BitVec 6) (a : BitVec 7) (b : BitVec 7) (t : BitVec 2)
  /-- SSHR (R82). -/
  | sshr (d : BitVec 6) (a : BitVec 7) (b : BitVec 7) (t : BitVec 2)
  /-- SSHR_I64 (R82). -/
  | sshrI64 (d : BitVec 6) (a : BitVec 7) (b : BitVec 7) (t : BitVec 2)
  /-- SSAR (R82). -/
  | ssar (d : BitVec 6) (a : BitVec 7) (b : BitVec 7) (t : BitVec 2)
  /-- SSAR_I64 (R82). -/
  | ssarI64 (d : BitVec 6) (a : BitVec 7) (b : BitVec 7) (t : BitVec 2)
  /-- SMIN (R82). -/
  | smin (d : BitVec 6) (a : BitVec 7) (b : BitVec 7) (t : BitVec 2)
  /-- SMIN_Z32 (R82). -/
  | sminZ32 (d : BitVec 6) (a : BitVec 7) (b : BitVec 7) (t : BitVec 2)
  /-- SMAX (R82). -/
  | smax (d : BitVec 6) (a : BitVec 7) (b : BitVec 7) (t : BitVec 2)
  /-- SMAX_Z32 (R82). -/
  | smaxZ32 (d : BitVec 6) (a : BitVec 7) (b : BitVec 7) (t : BitVec 2)
  /-- SSEL (R86). -/
  | ssel (d : BitVec 6) (a : BitVec 7) (b : BitVec 7) (t : BitVec 2)
  /-- SCMP_EQ (R85). -/
  | scmpEq (d : BitVec 6) (a : BitVec 7) (b : BitVec 7) (t : BitVec 2)
  /-- SCMP_NE (R85). -/
  | scmpNe (d : BitVec 6) (a : BitVec 7) (b : BitVec 7) (t : BitVec 2)
  /-- SCMP_LT (R85). -/
  | scmpLt (d : BitVec 6) (a : BitVec 7) (b : BitVec 7) (t : BitVec 2)
  /-- SCMP_LE (R85). -/
  | scmpLe (d : BitVec 6) (a : BitVec 7) (b : BitVec 7) (t : BitVec 2)
  /-- SCMP_ULT (R85). -/
  | scmpUlt (d : BitVec 6) (a : BitVec 7) (b : BitVec 7) (t : BitVec 2)
  /-- SCMP_ULE (R85). -/
  | scmpUle (d : BitVec 6) (a : BitVec 7) (b : BitVec 7) (t : BitVec 2)
  /-- SMOV (R82). -/
  | smov (d : BitVec 6) (a : BitVec 7) (t : BitVec 2)
  /-- SMOV_I64 (R82). -/
  | smovI64 (d : BitVec 6) (a : BitVec 7) (t : BitVec 2)
  /-- SPOPC (R82). -/
  | spopc (d : BitVec 6) (a : BitVec 7) (t : BitVec 2)
  /-- SCLZ (R82). -/
  | sclz (d : BitVec 6) (a : BitVec 7) (t : BitVec 2)
  /-- SMOVI (R84). -/
  | smovi (d : BitVec 6) (i : BitVec 8) (t : BitVec 2)
  /-- SMOVI_Z (R84). -/
  | smoviZ (d : BitVec 6) (i : BitVec 8) (t : BitVec 2)
  /-- SMOVI_SH8 (R84). -/
  | smoviSh8 (d : BitVec 6) (i : BitVec 8) (t : BitVec 2)
  /-- SADDI (R84). -/
  | saddi (d : BitVec 6) (a : BitVec 7) (i : BitVec 8) (t : BitVec 2)
  /-- SADDI_I64 (R84). -/
  | saddiI64 (d : BitVec 6) (a : BitVec 7) (i : BitVec 8) (t : BitVec 2)
  /-- SSHLI (R84). -/
  | sshli (d : BitVec 6) (a : BitVec 7) (i : BitVec 8) (t : BitVec 2)
  /-- SSHLI_LSR (R84). -/
  | sshliLsr (d : BitVec 6) (a : BitVec 7) (i : BitVec 8) (t : BitVec 2)
  /-- SSHLI_ASR (R84). -/
  | sshliAsr (d : BitVec 6) (a : BitVec 7) (i : BitVec 8) (t : BitVec 2)
  /-- BR_Z (R87). -/
  | brZ (a : BitVec 7) (x : BitVec 14) (t : BitVec 2)
  /-- BR_NZ (R87). -/
  | brNz (a : BitVec 7) (x : BitVec 14) (t : BitVec 2)
  /-- BR_LT (R87). -/
  | brLt (a : BitVec 7) (x : BitVec 14) (t : BitVec 2)
  /-- BR_GE (R87). -/
  | brGe (a : BitVec 7) (x : BitVec 14) (t : BitVec 2)
  /-- BR_GT (R87). -/
  | brGt (a : BitVec 7) (x : BitVec 14) (t : BitVec 2)
  /-- BR_LE (R87). -/
  | brLe (a : BitVec 7) (x : BitVec 14) (t : BitVec 2)
  /-- BR_MZ (R87). -/
  | brMz (x : BitVec 14) (t : BitVec 2)
  /-- BR_MNZ (R87). -/
  | brMnz (x : BitVec 14) (t : BitVec 2)
  /-- JMP (R87). -/
  | jmp (x : BitVec 14) (t : BitVec 2)
  /-- JMP_IND (R87). -/
  | jmpInd (a : BitVec 7) (t : BitVec 2)
  /-- CALL (R88). -/
  | call (x : BitVec 14) (t : BitVec 2)
  /-- CALL_IND (R88). -/
  | callInd (a : BitVec 7) (t : BitVec 2)
  /-- LOOP (R89). -/
  | loop (a : BitVec 7) (x : BitVec 14) (t : BitVec 2)
  /-- SPLIT (R180). -/
  | split (a : BitVec 7) (x : BitVec 14) (t : BitVec 2)
  /-- SPLIT_NOT (R180). -/
  | splitNot (a : BitVec 7) (x : BitVec 14) (t : BitVec 2)
  /-- JOIN (R181). -/
  | join (a : BitVec 7) (t : BitVec 2)
  /-- JOIN_ALL (R181). -/
  | joinAll (t : BitVec 2)
  /-- JOIN_MERGE (R182). -/
  | joinMerge (gid : Nat)
  /-- VRUN (R95). -/
  | vrun (c : BitVec 4) (l : BitVec 20) (t : BitVec 2)
  /-- MASKP_MOV (R100). -/
  | maskpMov (d : BitVec 6) (b : BitVec 7) (t : BitVec 2)
  /-- MASKP_AND (R100). -/
  | maskpAnd (d : BitVec 6) (a : BitVec 7) (b : BitVec 7) (t : BitVec 2)
  /-- MASKP_ANDN (R100). -/
  | maskpAndn (d : BitVec 6) (a : BitVec 7) (b : BitVec 7) (t : BitVec 2)
  /-- MASKP_OR (R100). -/
  | maskpOr (d : BitVec 6) (a : BitVec 7) (b : BitVec 7) (t : BitVec 2)
  /-- WAITC (R101). -/
  | waitc (d : BitVec 6) (i : BitVec 8) (t : BitVec 2)
  /-- SLD (R214). -/
  | sld (d : BitVec 6) (a : BitVec 7) (b : BitVec 7) (f : BitVec 4) (t : BitVec 2)
  /-- SST (R214). -/
  | sst (d : BitVec 6) (a : BitVec 7) (b : BitVec 7) (f : BitVec 4) (t : BitVec 2)
  /-- SATOM (R215). -/
  | satom (d : BitVec 6) (a : BitVec 7) (b : BitVec 7) (f : BitVec 4) (t : BitVec 2)
  /-- FENCE (R273). -/
  | fence (i : BitVec 8) (t : BitVec 2)
  /-- FENCE_LD (R273). -/
  | fenceLd (i : BitVec 8) (t : BitVec 2)
  /-- FENCE_ST (R273). -/
  | fenceSt (i : BitVec 8) (t : BitVec 2)
  /-- FENCE_COMPLETE (R273). -/
  | fenceComplete (gid sp : Nat)
  /-- BAR (R277). -/
  | bar (i : BitVec 8) (t : BitVec 2)
  /-- BAR_RELEASE (R277). -/
  | barRelease (team b : Nat)
  /-- BCOPY (R225). -/
  | bcopy (d : BitVec 6) (a : BitVec 7) (b : BitVec 7) (t : BitVec 2)
  /-- BCOPY_IL4 (R225). -/
  | bcopyIl4 (d : BitVec 6) (a : BitVec 7) (b : BitVec 7) (t : BitVec 2)
  /-- COPY_ADMIT (R227). -/
  | copyAdmit (id : Nat)
  /-- COPY_PORTION_TAKE (R234). -/
  | copyPortionTake (id : Nat)
  /-- PORTER_DELIVERY (R228). -/
  | porterDelivery (id off len : Nat) (out : LineOut)
  /-- PANARM (R222). -/
  | panarm (d : BitVec 6) (a : BitVec 7) (t : BitVec 2)
  /-- PANREL (R223). -/
  | panrel (i : BitVec 8) (t : BitVec 2)
  /-- PANREL_WAIT (R223). -/
  | panrelWait (i : BitVec 8) (t : BitVec 2)
  /-- PANNIER_READ_END (R224). -/
  | pannierReadEnd (id : Nat)
  /-- MLOADB (R242). -/
  | mloadb (n : BitVec 2) (a : BitVec 7) (b : BitVec 7) (f : BitVec 2) (t : BitVec 2)
  /-- SLOT_LOAD (R242). -/
  | slotLoad (id target : Nat) (out : LineOut)
  /-- MMAS (R254). -/
  | mmas (n : BitVec 2) (a : BitVec 7) (f : BitVec 2) (t : BitVec 2)
  /-- ACCZ (R257). -/
  | accz (a : BitVec 7) (b : BitVec 7) (t : BitVec 2)
  /-- ACCST (R260). -/
  | accst (d : BitVec 6) (a : BitVec 7) (b : BitVec 7) (t : BitVec 2)
  /-- ENGINE_ADMIT (R244). -/
  | engineAdmit (id : Nat)
  /-- TOKEN_GRANT (R246). -/
  | tokenGrant (core : Nat)
  /-- PASS_STREAM_START (R247). -/
  | passStreamStart (core : Nat)
  /-- ACC_ROW_UPDATE (R251). -/
  | accRowUpdate (core : Nat)
  /-- ENGINE_COMPLETE (R261). -/
  | engineComplete (id : Nat)
  /-- SOLICIT (R304). -/
  | solicit (d : BitVec 6) (a : BitVec 7) (b : BitVec 7) (f : BitVec 4) (t : BitVec 2)
  /-- CENSUS (R311). -/
  | census (d : BitVec 6) (a : BitVec 7) (t : BitVec 2)
  /-- RESPOND (R309). -/
  | respond (a : BitVec 7) (t : BitVec 2)
  /-- MARKPUT (R300). -/
  | markput (a : BitVec 7) (b : BitVec 7) (t : BitVec 2)
  /-- MARKDROP (R301). -/
  | markdrop (a : BitVec 7) (b : BitVec 7) (t : BitVec 2)
  /-- MARKMOVE (R302). -/
  | markmove (d : BitVec 6) (a : BitVec 7) (b : BitVec 7) (t : BitVec 2)
  /-- MOVE_INSTALL (R303). -/
  | moveInstall (id : Nat)
  /-- MOVE_ACK (R306). -/
  | moveAck (id : Nat)
  /-- MOVE_FORWARD (R306). -/
  | moveForward (id : Nat)
  /-- MOVE_RELEASE (R303). -/
  | moveRelease (id : Nat)
  /-- SOLICIT_RESOLVE (R305). -/
  | solicitResolve (id : Nat)
  /-- CENSUS_REPORT (R310). -/
  | censusReport (id : Nat)
  /-- RESPONDER_START (R308). -/
  | responderStart (core vd : Nat)
  /-- RESPONDER_COMPLETE (R309). -/
  | responderComplete (gid : Nat)
  /-- QPUSH (R328). -/
  | qpush (d : BitVec 6) (a : BitVec 7) (b : BitVec 7) (f : BitVec 4) (t : BitVec 2)
  /-- QPUSH_PUBLISH (R328). -/
  | qpushPublish (id : Nat)
  /-- CANCEL_UNIT (R325). -/
  | cancelUnit (a : BitVec 7) (t : BitVec 2)
  /-- CANCEL_LAUNCH (R325). -/
  | cancelLaunch (a : BitVec 7) (t : BitVec 2)
  /-- CANCEL_GRAPH (R325). -/
  | cancelGraph (a : BitVec 7) (t : BitVec 2)
  /-- CANCEL_PHASE (R325). -/
  | cancelPhase (a : BitVec 7) (t : BitVec 2)
  /-- CANCEL_JOB (R325). -/
  | cancelJob (a : BitVec 7) (t : BitVec 2)
  /-- CTRRD (R326). -/
  | ctrrd (d : BitVec 6) (a : BitVec 7) (t : BitVec 2)
  /-- REGROUP (R189). -/
  | regroup (a : BitVec 7) (b : BitVec 7) (t : BitVec 2)
  /-- SETFMT (R103). -/
  | setfmt (a : BitVec 7) (t : BitVec 2)
  /-- SETFMT_RND (R103). -/
  | setfmtRnd (i : BitVec 8) (t : BitVec 2)
  /-- SETFMT_FTZ (R103). -/
  | setfmtFtz (i : BitVec 8) (t : BitVec 2)
  /-- SETFMT_ATYPE (R103). -/
  | setfmtAtype (i : BitVec 8) (t : BitVec 2)
  /-- SETFMT_BTYPE (R103). -/
  | setfmtBtype (i : BitVec 8) (t : BitVec 2)
  /-- SETFMT_SMODE (R103). -/
  | setfmtSmode (i : BitVec 8) (t : BitVec 2)
  /-- GETFMT (R104). -/
  | getfmt (d : BitVec 6) (t : BitVec 2)
  /-- RDSR (R105). -/
  | rdsr (d : BitVec 6) (i : BitVec 8) (t : BitVec 2)
  /-- WRSR (R105). -/
  | wrsr (a : BitVec 7) (i : BitVec 8) (t : BitVec 2)
  /-- TRAP (R106). -/
  | trap (i : BitVec 8) (t : BitVec 2)
  /-- TRAP_VAL (R106). -/
  | trapVal (a : BitVec 7) (i : BitVec 8) (t : BitVec 2)
  /-- WAITN (R434). -/
  | waitn (d : BitVec 6) (a : BitVec 7) (t : BitVec 2)
  /-- SAVEG_S (R395). -/
  | savegS (d : BitVec 6) (a : BitVec 7) (t : BitVec 2)
  /-- SAVEG_V (R395). -/
  | savegV (d : BitVec 6) (a : BitVec 7) (v : BitVec 2) (t : BitVec 2)
  /-- SAVEG_O (R395). -/
  | savegO (d : BitVec 6) (a : BitVec 7) (t : BitVec 2)
  /-- SAVEG_P (R395). -/
  | savegP (a : BitVec 7) (t : BitVec 2)
  /-- LOADG_S (R395). -/
  | loadgS (d : BitVec 6) (a : BitVec 7) (t : BitVec 2)
  /-- LOADG_V (R395). -/
  | loadgV (d : BitVec 6) (a : BitVec 7) (v : BitVec 2) (t : BitVec 2)
  /-- LOADG_O (R395). -/
  | loadgO (d : BitVec 6) (a : BitVec 7) (t : BitVec 2)
  /-- LOADG_P (R395). -/
  | loadgP (a : BitVec 7) (t : BitVec 2)
  /-- TLBINV (R378). -/
  | tlbinv (a : BitVec 7) (b : BitVec 7) (t : BitVec 2)
  /-- TLBINV_ALL (R378). -/
  | tlbinvAll (t : BitVec 2)
  /-- RET (R88). -/
  | ret (t : BitVec 2)
  /-- EXIT (R93). -/
  | exit (t : BitVec 2)
  /-- YIELD (R94). -/
  | yield (t : BitVec 2)
  /-- YDONE (R396). -/
  | ydone (t : BitVec 2)
  /-- VSYNC (R98). -/
  | vsync (t : BitVec 2)
  /-- NOP (R77). -/
  | nop (h : BitVec 24) (t : BitVec 2)
  /-- VADD (R113). -/
  | vadd (l : LaneF)
  /-- VSUB (R113). -/
  | vsub (l : LaneF)
  /-- VADDC (R114). -/
  | vaddc (l : LaneF)
  /-- VMUL (R113). -/
  | vmul (l : LaneF)
  /-- VMULH (R113). -/
  | vmulh (l : LaneF)
  /-- VMAD (R113). -/
  | vmad (l : LaneF)
  /-- VMIN (R113). -/
  | vmin (l : LaneF)
  /-- VMAX (R113). -/
  | vmax (l : LaneF)
  /-- VABS (R113). -/
  | vabs (l : LaneF)
  /-- VNEG (R113). -/
  | vneg (l : LaneF)
  /-- VAND (R115). -/
  | vand (l : LaneF)
  /-- VOR (R115). -/
  | vor (l : LaneF)
  /-- VXOR (R115). -/
  | vxor (l : LaneF)
  /-- VNOT (R115). -/
  | vnot (l : LaneF)
  /-- VSHL (R115). -/
  | vshl (l : LaneF)
  /-- VSHR (R115). -/
  | vshr (l : LaneF)
  /-- VSAR (R115). -/
  | vsar (l : LaneF)
  /-- VCLZ (R115). -/
  | vclz (l : LaneF)
  /-- VPOPC (R115). -/
  | vpopc (l : LaneF)
  /-- VBREV (R115). -/
  | vbrev (l : LaneF)
  /-- VBFE (R116). -/
  | vbfe (l : LaneF)
  /-- VBFI (R117). -/
  | vbfi (l : LaneF)
  /-- VPERM (R118). -/
  | vperm (l : LaneF)
  /-- VSEL (R119). -/
  | vsel (l : LaneF)
  /-- VMOV (R119). -/
  | vmov (l : LaneF)
  /-- VCMP (R120). -/
  | vcmp (l : LaneF)
  /-- PAND (R121). -/
  | pand (l : LaneF)
  /-- POR (R121). -/
  | por (l : LaneF)
  /-- PXOR (R121). -/
  | pxor (l : LaneF)
  /-- PNOT (R121). -/
  | pnot (l : LaneF)
  /-- PMOV (R121). -/
  | pmov (l : LaneF)
  /-- PSET (R121). -/
  | pset (l : LaneF)
  /-- PSET_MASK (R121). -/
  | psetMask (l : LaneF)
  /-- VSHFL (R124). -/
  | vshfl (l : LaneF)
  /-- VBCAST (R125). -/
  | vbcast (l : LaneF)
  /-- VRED (R127). -/
  | vred (l : LaneF)
  /-- VSCAN (R128). -/
  | vscan (l : LaneF)
  /-- VVOTE (R129). -/
  | vvote (l : LaneF)
  /-- VCMPX (R130). -/
  | vcmpx (l : LaneF)
  /-- VLANEID (R123). -/
  | vlaneid (l : LaneF)
  /-- VFADD (R156). -/
  | vfadd (l : LaneF)
  /-- VFSUB (R156). -/
  | vfsub (l : LaneF)
  /-- VFMUL (R156). -/
  | vfmul (l : LaneF)
  /-- VFMA (R156). -/
  | vfma (l : LaneF)
  /-- VFMIN (R157). -/
  | vfmin (l : LaneF)
  /-- VFMAX (R157). -/
  | vfmax (l : LaneF)
  /-- VFABS (R158). -/
  | vfabs (l : LaneF)
  /-- VFNEG (R158). -/
  | vfneg (l : LaneF)
  /-- VFCMP (R159). -/
  | vfcmp (l : LaneF)
  /-- VFCLASS (R160). -/
  | vfclass (l : LaneF)
  /-- VRCP (R162). -/
  | vrcp (l : LaneF)
  /-- VRSQ (R162). -/
  | vrsq (l : LaneF)
  /-- VSQRT (R162). -/
  | vsqrt (l : LaneF)
  /-- VEXP2 (R162). -/
  | vexp2 (l : LaneF)
  /-- VLOG2 (R162). -/
  | vlog2 (l : LaneF)
  /-- VFRND (R161). -/
  | vfrnd (l : LaneF)
  /-- VCVT (R163). -/
  | vcvt (l : LaneF)
  /-- VPACK (R164). -/
  | vpack (l : LaneF)
  /-- VUNPK (R165). -/
  | vunpk (l : LaneF)
  /-- VBXDEC (R167). -/
  | vbxdec (l : LaneF)
  /-- VBXENC (R168). -/
  | vbxenc (l : LaneF)
  /-- VFLAGS_RD (R169). -/
  | vflagsRd (l : LaneF)
  /-- VFLAGS_CLR (R169). -/
  | vflagsClr (l : LaneF)
  /-- VFLAGS_RDCLR (R169). -/
  | vflagsRdclr (l : LaneF)
  /-- VFLAGS_WR (R169). -/
  | vflagsWr (l : LaneF)
  /-- VLD (R213). -/
  | vld (l : LaneF)
  /-- VST (R213). -/
  | vst (l : LaneF)
  /-- VLDS (R213). -/
  | vlds (l : LaneF)
  /-- VSTS (R213). -/
  | vsts (l : LaneF)
  /-- VATOM (R215). -/
  | vatom (l : LaneF)
  /-- LCOPY (R226). -/
  | lcopy (l : LaneF)
  /-- VSPAWN (R187). -/
  | vspawn (l : LaneF)
  /-- MMA (R250). -/
  | mma (l : LaneF)
  /-- MMAB (R252). -/
  | mmab (l : LaneF)
  /-- ACCRD (R258). -/
  | accrd (l : LaneF)
  /-- ACCWR (R259). -/
  | accwr (l : LaneF)
  /-- LANE_HINT (R77). -/
  | laneHint (op : BitVec 4) (l : LaneF)
  /-- BATCH_START (R194). -/
  | batchStart (core pipe : Nat)
  /-- BATCH_RESUME (R178). -/
  | batchResume (gid bid : Nat)
  /-- FE_ACCESS_SERVE (R210). -/
  | feAccessServe (id : Nat)
  /-- LOAD_COMPLETE (R208). -/
  | loadComplete (id el : Nat)
  /-- STORE_ACCEPT (R208). -/
  | storeAccept (id : Nat)
  /-- SPAD_ARRAY_WRITE (R270). -/
  | spadArrayWrite (core : Nat)
  /-- ATOMIC_PERFORM (R216). -/
  | atomicPerform (id : Nat)
  /-- GROUP_RETIRE (R93). -/
  | groupRetire (gid : Nat)
  /-- SPAWN_BIN_TIMER (R186). -/
  | spawnBinTimer (core bin : Nat)
  /-- BIN_GROUP_RESIDENT (R191). -/
  | binGroupResident (core bin : Nat)
  /-- QUEUE_PARSE (R330). -/
  | queueParse (vd q : Nat)
  /-- UNIT_PLACE (R331). -/
  | unitPlace
  /-- FENCE_RECORD_READ (R321). -/
  | fenceRecordRead (vd q : Nat)
  /-- COURIER_BATCH (R329). -/
  | courierBatch (vd q k : Nat)
  /-- COURIER_TIMEOUT (R329). -/
  | courierTimeout (vd q : Nat)
  /-- DEPOT_PUBLISH (R329). -/
  | depotPublish (id : Nat)
  /-- SLOT_WRITE (R340). -/
  | slotWrite (dom off : Nat) (data : List Byte)
  /-- READ_SLOT (R340). -/
  | readSlot (dom slot : Nat)
  /-- STEP_PARTITION (R385). -/
  | stepPartition (vd : Nat)
  /-- STEP_CONTEXT (R354). -/
  | stepContext (vd : Nat)
  /-- STEP_MAPPING (R355). -/
  | stepMapping (vd : Nat) (readOk : Bool)
  /-- STEP_QUEUE (R356). -/
  | stepQueue (vd : Nat)
  /-- STEP_PROGRAM_CREATE (R358). -/
  | stepProgramCreate (vd : Nat) (readOk : Bool)
  /-- STEP_PROGRAM_RESTART (R359). -/
  | stepProgramRestart (vd : Nat)
  /-- PROGRAM_TEAM_PLACE (R358). -/
  | programTeamPlace (vd id : Nat)
  /-- STEP_ENVELOPE (R401). -/
  | stepEnvelope
  /-- STEP_WINDOW (R413). -/
  | stepWindow (vd : Nat) (readOk : Bool)
  /-- STEP_KEY_RELEASE (R424). -/
  | stepKeyRelease (vd : Nat)
  /-- STEP_DELETE (R352). -/
  | stepDelete (vd : Nat)
  /-- PARK_REPLAY (R371). -/
  | parkReplay (gid who : Nat)
  /-- ATS_COMPLETION (R372). -/
  | atsCompletion (core vd haddr size : Nat) (r w : Bool)
  /-- PRI_RESPONSE (R372). -/
  | priResponse (vd haddr : Nat) (resp : PriResp)
  /-- ATS_INVALIDATE (R372). -/
  | atsInvalidate (haddr size : Nat)
  /-- SLICE_EXPIRY (R390). -/
  | sliceExpiry (core region : Nat)
  /-- HANDLER_START (R391). -/
  | handlerStart (gid : Nat)
  /-- HANDLER_BUDGET_EXPIRY (R396). -/
  | handlerBudgetExpiry (gid : Nat)
  /-- FORCED_SAVE (R396). -/
  | forcedSave (gid : Nat)
  /-- REGION_SWITCH (R397). -/
  | regionSwitch (core region : Nat)
  /-- DEVICE_RESIDENT (R389). -/
  | deviceResident (core vd : Nat)
  /-- THERMAL_POOL_STEP (R438). -/
  | thermalPoolStep (temps : List Nat)
  /-- ENERGY_UPDATE (R402). -/
  | energyUpdate (vd matrix lane memory other : Nat)
  /-- OASIS_GO (R431). -/
  | oasisGo (vd n : Nat)
  /-- NOTIFY_STORE (R433). -/
  | notifyStore (vd n : Nat) (data : Word) (src : NotifySrc)
  /-- DEBUG_TOKEN_SUBMIT (R425). -/
  | debugTokenSubmit
  /-- GET_VERSION (R435). -/
  | getVersion (fn : Nat)
  /-- GET_CAPABILITIES (R435). -/
  | getCapabilities (fn : Nat)
  /-- NEGOTIATE_ALGORITHMS (R435). -/
  | negotiateAlgorithms (fn : Nat)
  /-- GET_DIGESTS (R435). -/
  | getDigests (fn : Nat)
  /-- GET_CERTIFICATE (R435). -/
  | getCertificate (fn : Nat)
  /-- CHALLENGE (R435). -/
  | challenge (fn : Nat) (nonce : Nat)
  /-- GET_MEASUREMENTS (R421). -/
  | getMeasurements (fn index : Nat) (signed : Bool) (nonce : Nat)
  /-- KEY_EXCHANGE (R435). -/
  | keyExchange (fn : Nat) (exchange : Nat)
  /-- TDI_LEAVE_RUN (R436). -/
  | tdiLeaveRun (vd : Nat) (error : Bool)
  /-- FUNCTION_LEVEL_RESET (R488). -/
  | functionLevelReset (vd : Nat)
  /-- VF_ENABLE_SET (R448). -/
  | vfEnableSet
  /-- VF_ENABLE_CLEAR (R494). -/
  | vfEnableClear
  /-- DEVICE_RESET (R487). -/
  | deviceReset (vd : Nat)
  /-- RESET_COMPLETE (R487). -/
  | resetComplete (vd : Nat)
  /-- COLD_RESET (R439). -/
  | coldReset
  /-- BOOTSTATE_ADVANCE (R439). -/
  | bootstateAdvance (ok : Bool)
  /-- PEER_FLIT_RETRY (R437). -/
  | peerFlitRetry (port : Nat)
  /-- PEER_PORT_DOWN (R484). -/
  | peerPortDown (port : Nat)
  /-- PEER_ACCESS_ARRIVE (R365). -/
  | peerAccessArrive (port dev vd addr : Nat) (kind : PeerKind) (data : List Byte)
  /-- LINE_READ_RETURN (R480). -/
  | lineReadReturn (id el : Nat) (out : LineOut)
  /-- SRAM_SCRUB (R483). -/
  | sramScrub (core : Nat) (what : SramAt) (out : ScrubOut)
  /-- HBM_PATROL_SCRUB (R483). -/
  | hbmPatrolScrub (vd line : Nat) (out : ScrubOut)
  /-- GROUP_HALT (R440). -/
  | groupHalt (gid : Nat)
  /-- INSPECT_DISCARD (R451). -/
  | inspectDiscard (fn : Nat)
  /-- REGISTER_WRITE (R6). -/
  | registerWrite (fn off : Nat) (data : List Byte)
  /-- TDI_ENTERS_RUN (R436). -/
  | tdiEntersRun (vd : Nat)
  /-- OASIS_HART_ACCESS (R430). -/
  | oasisHartAccess (hart addr : Nat) (kind : OasisKind) (data : List Byte)
  /-- OASIS_HART_FENCE (R279). -/
  | oasisHartFence (hart : Nat) (predWrites : Bool)
  /-- DEBUG_ACCESS (R419). -/
  | debugAccess (vd : Nat) (loc : DebugLoc) (write : Bool) (data : List Byte)
  deriving DecidableEq, Repr

end Sys2Proof
end

