-- ==== Sys2Proof/Machine/Encoding.lean ====
section
/-! DEFINITION. The encoding rules of scalar and lane words (R59 to R69, R73 to R78, R458 to R460): which fields a word
uses, which values they accept, and the (field, reason) pair that the illegal-instruction fault reports (R460). -/

namespace Sys2Proof

/-- `width` bits of the number `w` from bit `lo` up (R5). -/
def bitsOf (w lo width : Nat) : Nat := w / 2 ^ lo % 2 ^ width

/-- One broken rule: the field identifier and the reason of R460. -/
abbrev Viol := Nat × Nat

/-- A violation if the condition holds. -/
def viol (bad : Bool) (field reason : Nat) : List Viol := if bad then [(field, reason)] else []

/-- R460: the lowest field identifier, and within it the lowest reason. -/
def worstViol : List Viol → Option Viol
  | [] => none
  | v :: vs =>
    match worstViol vs with
    | none => some v
    | some u => if v.1 < u.1 ∨ (v.1 = u.1 ∧ v.2 ≤ u.2) then some v else some u

/-! ### Scalar words -/

/-- The first register of a block of `n` inside one file, s or k (R298). -/
def blockFits (f n : Nat) : Bool := f % 64 + n ≤ 64

/-- The rule of a field that names an even register of a pair (R80). -/
def evenViol (field f : Nat) : List Viol := viol (f % 2 ≠ 0) field 0x08

/-- A field that the form does not use (R61). -/
def zeroViol (field f : Nat) : List Viol := viol (f ≠ 0) field 0x03

/-- A selector above the last assigned value (R60). -/
def selViol (f last : Nat) : List Viol := viol (last < f) 0x05 0x02

/-- The field rules of the scalar word `w` (R61, R74, R75, R80 to R107, R180, R181, R189, R214, R215, R222 to R225, R241,
R253, R257, R260, R272, R277, R298, R325 to R328, R377, R395, R434). Beyond the rule's words: DEDUCED, log entry 7. -/
def scalarViolations (w : Nat) : List Viol :=
  let op := bitsOf w 26 6
  let sd := bitsOf w 20 6
  let sa := bitsOf w 13 7
  let sb := bitsOf w 6 7
  let fn := bitsOf w 2 4
  let imm := bitsOf w 5 8
  let fi := bitsOf w 2 3
  let cond := bitsOf w 23 3
  let ba := bitsOf w 16 7
  let disp := bitsOf w 2 14
  let pairDA := evenViol 0x02 sd ++ evenViol 0x03 sa
  match op with
  | 0x00 => [(0x00, 0x01)]
  | 0x01 | 0x02 => selViol fn 3 ++ if fn = 1 then pairDA ++ evenViol 0x04 sb else []
  | 0x03 => selViol fn 0
  | 0x04 => selViol fn 1
  | 0x05 => selViol fn 3
  | 0x06 | 0x07 | 0x08 => selViol fn 1
  | 0x09 | 0x0A | 0x0B => selViol fn 1 ++ if fn = 1 then pairDA else []
  | 0x0C | 0x0D => selViol fn 1
  | 0x0E => selViol fn 0
  | 0x0F => selViol fn 5
  | 0x10 => zeroViol 0x04 sb ++ selViol fn 1 ++ if fn = 1 then pairDA else []
  | 0x11 | 0x12 => zeroViol 0x04 sb ++ selViol fn 0
  | 0x13 => zeroViol 0x03 sa ++ selViol fi 2
  | 0x14 => selViol fi 1 ++ if fi = 1 then pairDA else []
  | 0x15 => selViol fi 2 ++ viol (31 < imm) 0x06 0x07
  | 0x16 => if 6 ≤ cond then zeroViol 0x03 ba else []
  | 0x17 | 0x18 => selViol cond 1 ++ (if cond = 0 then zeroViol 0x03 ba else []) ++
      if cond = 1 then zeroViol 0x07 disp else []
  | 0x19 => selViol cond 0 ++ viol (64 ≤ ba) 0x03 0x0B
  | 0x1A => selViol cond 1 ++ viol (!blockFits ba 3) 0x03 0x0B
  | 0x1B => zeroViol 0x02 sd ++ zeroViol 0x04 sb ++ selViol fn 1 ++
      (if fn = 1 then zeroViol 0x03 sa else viol (!blockFits sa 3) 0x03 0x0B)
  | 0x1C => []
  | 0x1D => selViol fn 3 ++ viol (61 < sd) 0x02 0x0B ++
      (if fn = 0 then zeroViol 0x03 sa else viol (!blockFits sa 3) 0x03 0x0B) ++ viol (23 < sb) 0x04 0x0A
  | 0x1E => viol (3 < sd) 0x02 0x07 ++ zeroViol 0x03 sa ++ selViol fi 0
  | 0x1F => selViol fn 7 ++ evenViol 0x03 sa ++ if fn % 4 = 1 then evenViol 0x02 sd else []
  | 0x20 => viol (fn % 4 = 3 ∨ (fn / 4 ≠ 0 ∧ fn / 4 ≠ 2)) 0x05 0x02 ++ evenViol 0x03 sa ++
      if fn % 4 = 1 then evenViol 0x02 sd else []
  | 0x21 => viol (fn = 15) 0x05 0x02 ++ evenViol 0x03 sa ++ (if fn % 8 = 7 then evenViol 0x04 sb else []) ++
      if 8 ≤ fn then zeroViol 0x02 sd else []
  | 0x22 => zeroViol 0x02 sd ++ zeroViol 0x03 sa ++ selViol fi 2 ++ viol (6 < imm) 0x06 0x07
  | 0x23 => zeroViol 0x02 sd ++ zeroViol 0x03 sa ++ selViol fi 0 ++ viol (3 < imm) 0x06 0x07
  | 0x24 => selViol fn 1 ++ pairDA ++ evenViol 0x04 sb
  | 0x25 => zeroViol 0x04 sb ++ selViol fn 0
  | 0x26 => zeroViol 0x02 sd ++ zeroViol 0x03 sa ++ selViol fi 1 ++ viol (63 < imm) 0x06 0x07
  | 0x27 => zeroViol 0x02 (sd / 4) ++ selViol fn 3 ++ evenViol 0x03 sa ++
      if fn % 2 = 1 then viol (!blockFits sa 4) 0x03 0x0B else []
  | 0x28 => zeroViol 0x02 (sd / 4) ++ selViol fn 3 ++ zeroViol 0x04 sb ++ viol (!blockFits sa 2) 0x03 0x0B
  | 0x29 => zeroViol 0x02 sd ++ selViol fn 0
  | 0x2A => selViol fn 0
  | 0x2B => selViol fn 14 ++ evenViol 0x03 sa
  | 0x2C => evenViol 0x02 sd ++ viol (60 < sd) 0x02 0x0B ++ viol (63 < sa) 0x03 0x0B ++ zeroViol 0x04 sb ++
      selViol fn 0
  | 0x2D => zeroViol 0x02 sd ++ evenViol 0x03 sa ++ zeroViol 0x04 sb ++ selViol fn 0
  | 0x2E => zeroViol 0x02 sd ++ evenViol 0x03 sa ++ evenViol 0x04 sb ++ viol (!blockFits sb 4) 0x04 0x0B ++
      selViol fn 0
  | 0x2F => zeroViol 0x02 sd ++ evenViol 0x03 sa ++ evenViol 0x04 sb ++ selViol fn 0
  | 0x30 => evenViol 0x03 sa ++ evenViol 0x04 sb ++ viol (!blockFits sb 4) 0x04 0x0B ++ selViol fn 0
  | 0x31 => evenViol 0x04 sb
  | 0x32 => zeroViol 0x02 sd ++ evenViol 0x03 sa ++ zeroViol 0x04 sb ++ selViol fn 4
  | 0x33 => viol (sd % 4 ≠ 0) 0x02 0x08 ++ evenViol 0x03 sa ++ zeroViol 0x04 sb ++ selViol fn 0
  | 0x34 => zeroViol 0x02 sd ++ selViol fn 0
  | 0x35 => zeroViol 0x02 sd ++ selViol fi 5 ++
      (if fi = 0 then zeroViol 0x06 imm else zeroViol 0x03 sa) ++
      viol ((fi = 1 ∨ fi = 2 ∨ fi = 5) ∧ 3 < imm) 0x06 0x07
  | 0x36 => zeroViol 0x03 sa ++ zeroViol 0x04 sb ++ selViol fn 0
  | 0x37 => zeroViol 0x03 sa ++ selViol fi 0 ++ viol (0x0D < imm) 0x06 0x0C
  | 0x38 => zeroViol 0x02 sd ++ selViol fi 0 ++ viol (0x0D < imm) 0x06 0x0C
  | 0x39 => zeroViol 0x02 sd ++ selViol fi 1 ++ if fi = 0 then zeroViol 0x03 sa else []
  | 0x3A => zeroViol 0x04 sb ++ selViol fn 0
  | 0x3B | 0x3C => zeroViol 0x04 sb ++ viol (fn % 4 ≠ 1 ∧ 4 ≤ fn) 0x05 0x02 ++
      (if fn % 4 = 3 then zeroViol 0x02 sd else []) ++ viol (fn % 4 = 2 ∧ 15 < sd) 0x02 0x0B
  | 0x3D => zeroViol 0x02 sd ++ selViol fn 1 ++
      (if fn = 1 then zeroViol 0x03 sa ++ zeroViol 0x04 sb else evenViol 0x03 sa)
  | 0x3E => zeroViol 0x02 sd ++ zeroViol 0x03 sa ++ zeroViol 0x04 sb ++ selViol fn 4
  | _ => []

/-! ### Lane words -/

/-- The element type codes of R69. -/
def tyI8 : Nat := 0x11
def tyI16 : Nat := 0x12
def tyI32 : Nat := 0x13
def tyI64 : Nat := 0x14
def tyZ8 : Nat := 0x21
def tyZ16 : Nat := 0x22
def tyZ32 : Nat := 0x23
def tyZ64 : Nat := 0x24
def tyI4 : Nat := 0x10
def tyZ4 : Nat := 0x20
def tyB32 : Nat := 0x33
def tyF16 : Nat := 0x42
def tyF32 : Nat := 0x43
def tyBf16 : Nat := 0x52
def tyE4m3 : Nat := 0x61
def tyE5m2 : Nat := 0x71
def tyBx4 : Nat := 0x80

/-- The five float types of conversions (R163). -/
def isFloatTy (t : Nat) : Bool := t = tyF32 ∨ t = tyF16 ∨ t = tyBf16 ∨ t = tyE4m3 ∨ t = tyE5m2

/-- The eight integer types of conversions, .i8 to .i64 and .z8 to .z64 (R163). -/
def isIntTy (t : Nat) : Bool := (0x11 ≤ t ∧ t ≤ 0x14) ∨ (0x21 ≤ t ∧ t ≤ 0x24)

/-- A 64-bit type names register pairs (R110). -/
def isWideTy (t : Nat) : Bool := t = tyI64 ∨ t = tyZ64

/-- What an operand field of a lane word holds (R64 to R66 and each description). `n` counts consecutive registers. -/
inductive FieldKind where
  /-- Must hold 0x3FE (R65). -/
  | unused
  /-- A v or o group of `n`, or the discard specifier; `old`: its old value is read too. -/
  | dst (n : Nat) (old : Bool)
  /-- A v or o register, the discard specifier or one s register. -/
  | dstOrScalar
  /-- `n` scalar registers from a number that is a multiple of `al`. -/
  | scalarDst (n al : Nat)
  /-- A predicate field (R66). -/
  | pred (read write : Bool)
  /-- A source of `n` registers; which of imm8, h, zero and the s registers it may name. -/
  | src (n : Nat) (imm h zero scal : Bool)
  /-- The 64-bit base of an address (R201). -/
  | base
  /-- A v or o register that must name one, `n` registers long; `write`: it is written too. -/
  | reg (n : Nat) (write : Bool)
  /-- The three scalar registers of PSET.mask (R121). -/
  | mask3
  /-- The scalar lane number of VBCAST (R125); the zero specifier is lane 0 (DESIGN CHOICE, log entry 8). -/
  | laneNo
  deriving DecidableEq, Repr

/-- The layout of the mode field (R68). -/
inductive ModeKind where
  | none
  | arith (sat rnd : Bool)
  | mem (orders quals : List Nat)
  deriving DecidableEq, Repr

/-- How a lane instruction uses its word. -/
structure LaneShape where
  dst : FieldKind
  a : FieldKind
  b : FieldKind
  c : FieldKind
  types : List Nat
  mode : ModeKind
  /-- imm8 is used outside specifier 0x3FF. -/
  immUsed : Bool := false
  /-- Further broken rules, of ext and of the description's own limits. -/
  more : List Viol := []
  deriving DecidableEq, Repr

/-- Is the specifier one of v0 to v255. -/
def isV (x : Nat) : Bool := x < 0x100
/-- Is the specifier one of o0 to o15. -/
def isO (x : Nat) : Bool := 0x100 ≤ x ∧ x < 0x110
/-- Is the specifier one of h0 to h3. -/
def isH (x : Nat) : Bool := 0x200 ≤ x ∧ x < 0x204
/-- Is the specifier one of k0 to k63. -/
def isK (x : Nat) : Bool := 0x300 ≤ x ∧ x < 0x340
/-- Is the specifier one of s0 to s63. -/
def isS (x : Nat) : Bool := 0x340 ≤ x ∧ x < 0x380
/-- The register number within its file. -/
def specNo (x : Nat) : Nat := if isV x then x else if isO x then x - 0x100 else if isH x then x - 0x200
  else if isK x then x - 0x300 else x - 0x340

/-- The rules of one operand field. -/
def fieldViol (fid : Nat) (k : FieldKind) (x : Nat) : List Viol :=
  match k with
  | .unused => viol (x ≠ 0x3FE) fid 0x03
  | .dst n _ =>
    if x = 0x3FE then []
    else if isV x || isO x then viol (specNo x % n ≠ 0) fid 0x08
    else [(fid, 0x04)]
  | .dstOrScalar => viol (!(isV x || isO x || isS x || x = 0x3FE)) fid 0x04
  | .scalarDst n al =>
    if isS x then viol (specNo x % al ≠ 0) fid 0x08 ++ viol (64 < specNo x + n) fid 0x0B else [(fid, 0x04)]
  | .pred _ _ => viol (23 < x) fid 0x0A
  | .src n imm h zero scal =>
    if isV x || isO x || isK x || (scal && isS x) then viol (specNo x % n ≠ 0) fid 0x08
    else if isH x then viol (!h || n ≠ 1) fid 0x04
    else if x = 0x3FE then viol (!zero) fid 0x04
    else if x = 0x3FF then viol (!imm) fid 0x04
    else [(fid, 0x04)]
  | .base =>
    if isV x || isO x || isK x || isS x then viol (specNo x % 2 ≠ 0) fid 0x08
    else viol (x ≠ 0x3FE) fid 0x04
  | .reg n _ => viol (!(isV x || isO x) || (isO x && decide (16 < specNo x + n))) fid 0x04
  | .mask3 => if isS x || isK x then viol (61 < specNo x) fid 0x0B else [(fid, 0x04)]
  | .laneNo => viol (!(isS x || isK x || x = 0x3FF || x = 0x3FE)) fid 0x04

/-- The rules of the mode field (R68, R111, R153). -/
def modeViol (k : ModeKind) (m : Nat) : List Viol :=
  match k with
  | .none => viol (m ≠ 0) 0x19 0x03
  | .arith sat rnd => viol (4 < m % 8 ∨ (m % 8 ≠ 0 ∧ !rnd) ∨ (8 ≤ m ∧ !sat)) 0x19 0x06
  | .mem orders quals => viol (!(orders.contains (m / 4) && quals.contains (m % 4))) 0x19 0x06

/-- A selector of ext that is unassigned (reason 0x02) and reserved ext bits that are set (reason 0x03). -/
def extViol (badSel badRsv : Bool) : List Viol := viol badSel 0x1A 0x02 ++ viol badRsv 0x1A 0x03

/-- A source whose description allows an s register (R109, R151, R201). -/
def anySrc : FieldKind := .src 1 true true true true
/-- A source that takes no imm8 (R152). -/
def noImmSrc : FieldKind := .src 1 false true true true
/-- A source of the width of type `t`. -/
def tySrc (t : Nat) : FieldKind := .src (if isWideTy t then 2 else 1) true true true true
/-- A source whose description allows no s register (R64, R187, R226, R248, R258, R259). -/
def laneSrc : FieldKind := .src 1 true true true false
/-- A destination of the width of type `t`. -/
def tyDst (t : Nat) : FieldKind := .dst (if isWideTy t then 2 else 1) false

/-- Register count of a memory access (R204, R213). -/
def memRegs (t e : Nat) : Nat :=
  if isWideTy t then 2 else if t = tyB32 then (if e % 4 = 1 then 2 else if e % 4 = 2 then 4 else 1) else 1

/-- The scope field and the reserved bits of a lane access (R213): `cnt` says whether ext 1:0 is a count. -/
def memExt (t m e : Nat) : List Viol :=
  extViol (e % 4 = 3 ∨ (e % 4 ≠ 0 ∧ t ≠ tyB32) ∨ (m / 4 ≠ 0 ∧ e / 16 % 8 = 7))
    ((m / 4 = 0 ∧ e / 16 % 8 ≠ 0) ∨ e / 4 % 4 ≠ 0 ∨ 128 ≤ e)

/-- Types of the integer arithmetic rows (R113). -/
def intTypes : List Nat := [tyI8, tyI16, tyI32, tyZ8, tyZ16, tyZ32]
/-- Types of the three lane float formats (R155). -/
def fpTypes : List Nat := [tyF32, tyF16, tyBf16]

/-- The type pairs of VCVT (R163). -/
def cvtOk (dt st : Nat) : Bool :=
  dt ≠ st && (isFloatTy dt || isIntTy dt) && (isFloatTy st || isIntTy st) &&
  !(isWideTy dt && isFloatTy st && st ≠ tyF32) && !(isWideTy st && isFloatTy dt && dt ≠ tyF32)

/-- The element width in bits that a type code gives (R69). -/
def tyBits (t : Nat) : Nat := 4 * 2 ^ (t % 16)

/-- The shape of the lane instruction with opcode `op` (R76, R113 to R130, R155 to R169, R187, R213 to R226, R248 to R259);
none for an unassigned opcode. Hint opcodes have no rules and are not asked (R77).
Beyond the rule's words: DEDUCED, log entry 8. -/
def laneShape (op : Nat) (l : LaneF) : Option LaneShape :=
  let t := l.ty.toNat
  let e := l.ext.toNat
  let m := l.mode.toNat
  let imm := l.imm.toNat
  let sh := fun d a b c types mode more => some
    { dst := d, a := a, b := b, c := c, types := types, mode := mode, more := more : LaneShape }
  let ext0 := extViol false (e ≠ 0)
  let logic := sh (.dst 1 false) anySrc anySrc .unused [tyB32] (.arith false false) (extViol false (2 ≤ e))
  let int1 := fun types sat => sh (.dst 1 false) anySrc .unused .unused types (.arith sat false) ext0
  let shift := sh (tyDst t) (tySrc t) anySrc .unused [tyB32, tyI32, tyZ32, tyI64, tyZ64] (.arith false false) ext0
  let bfext := if 2 ^ 15 ≤ e then viol (32 < e / 32 % 64) 0x1A 0x07 ++ viol (e / 2048 % 16 ≠ 0) 0x1A 0x03
    else extViol false (e ≠ 0)
  let bfB := if 2 ^ 15 ≤ e then .unused else anySrc
  let fp2 := sh (.dst 1 false) anySrc anySrc .unused fpTypes (.arith true true) ext0
  let plog := sh (.pred false true) (.pred true false) (.pred true false) .unused [0] .none (extViol false (2 ≤ e))
  let pmv := sh (.pred false true) (.pred true false) .unused .unused [0] .none ext0
  let red := fun d => sh d (tySrc t) .unused .unused
    (match e % 16 with
     | 0 | 4 | 5 => [tyI32, tyZ32, tyI64, tyZ64]
     | 1 | 2 | 3 => [tyB32]
     | 6 | 7 | 8 => [tyF32]
     | _ => [tyI32, tyZ32, tyI64, tyZ64, tyB32, tyF32])
    (.arith (e % 16 = 0 ∧ (t = tyI32 ∨ t = tyZ32)) (e % 16 = 6))
  let load := fun quals => sh (.dst (memRegs t e) false) .base anySrc .unused
    [tyI8, tyZ8, tyI16, tyZ16, tyB32, tyI32, tyZ32, tyI64, tyZ64] (.mem [0, 1] quals) (memExt t m e)
  let store := fun quals => sh .unused .base anySrc (.src (memRegs t e) false true true true)
    [tyI8, tyZ8, tyI16, tyZ16, tyB32, tyI32, tyZ32, tyI64, tyZ64] (.mem [0, 2] quals) (memExt t m e)
  let srow := e / 8 % 2 = 1
  let mma := sh .unused (if srow then laneSrc else .reg 12 false) laneSrc
    (if l.c.toNat = 0x3FE then .unused else if srow then laneSrc else .reg 2 false) [0] .none
    (extViol false ((!srow ∧ 16 ≤ e) ∨ 2048 ≤ e ∨ (e / 1024 % 2 = 0 ∧ e / 16 % 64 ≠ 0)))
  match op with
  | 0x001 | 0x002 => sh (.dst 1 false) anySrc anySrc .unused (tyB32 :: intTypes) (.arith (t ≠ tyB32) false) ext0
  | 0x003 => sh (.dst 1 false) anySrc anySrc (.pred (e / 2 % 2 = 0) true) [tyZ32] (.arith false false) (extViol false (4 ≤ e))
  | 0x004 => sh (.dst 1 false) anySrc anySrc .unused intTypes (.arith true false) ext0
  | 0x005 => sh (.dst 1 false) anySrc anySrc .unused [tyI32, tyZ32] (.arith false false) ext0
  | 0x006 => sh (.dst 1 false) anySrc anySrc anySrc [tyI32, tyZ32] (.arith true false) ext0
  | 0x007 | 0x008 => sh (tyDst t) (tySrc t) (tySrc t) .unused (intTypes ++ [tyI64, tyZ64]) (.arith false false) ext0
  | 0x009 => int1 [tyI8, tyI16, tyI32] true
  | 0x00A => int1 [tyI8, tyI16, tyI32, tyB32] (t ≠ tyB32)
  | 0x00B | 0x00C | 0x00D => logic
  | 0x00E => int1 [tyB32] false
  | 0x00F | 0x010 | 0x011 => shift
  | 0x012 | 0x013 | 0x014 => int1 [tyB32] false
  | 0x015 => sh (.dst 1 false) anySrc bfB .unused [tyI32, tyZ32] (.arith false false) bfext
  | 0x016 => sh (.dst 1 true) anySrc bfB .unused [tyB32] (.arith false false) bfext
  | 0x017 => sh (.dst 1 false) anySrc anySrc anySrc [tyB32] (.arith false false)
      (extViol (e % 4 = 3 ∨ (e / 4 % 2 = 1 ∧ e % 4 = 0)) (8 ≤ e))
  | 0x018 => sh (tyDst t) (tySrc t) (tySrc t) (.pred true false) [tyB32, tyI64, tyZ64] (.arith false false) ext0
  | 0x019 => sh (tyDst t) (tySrc t) .unused .unused [tyB32, tyI64, tyZ64] (.arith false false) ext0
  | 0x01A => sh (.pred (e / 8 % 4 ≠ 0) true) (tySrc t) (tySrc t) .unused
      (tyB32 :: (intTypes ++ [tyI64, tyZ64])) (.arith false false)
      (extViol (5 < e % 8 ∨ e / 8 % 4 = 3 ∨ (t = tyB32 ∧ 1 < e % 8)) (32 ≤ e))
  | 0x040 | 0x041 | 0x042 => plog
  | 0x043 | 0x044 => pmv
  | 0x045 =>
    if e % 2 = 0 then
      (sh (.pred false true) .unused .unused .unused [0] .none (viol (1 < imm) 0x17 0x07 ++ ext0)).map
        fun s => { s with immUsed := true }
    else sh (.pred false true) .mask3 .unused .unused [0] .none (extViol false (2 ≤ e))
  | 0x060 => sh (.dst 1 false) anySrc anySrc .unused [tyB32] .none (extViol false (4 ≤ e))
  | 0x061 => sh .dstOrScalar anySrc (if e % 2 = 1 then .unused else .laneNo) .unused [tyB32] .none
      (extViol false (2 ≤ e))
  | 0x062 => red (.scalarDst (if isWideTy t then 2 else 1) (if isWideTy t then 2 else 1)) (extViol (8 < e % 16) (16 ≤ e))
  | 0x063 => red (tyDst t) (extViol (8 < e % 16) (32 ≤ e))
  | 0x064 => sh (if e % 4 = 2 then .scalarDst 3 1 else .dstOrScalar) (.pred true false) .unused .unused [0] .none
      (extViol false (4 ≤ e))
  | 0x065 =>
    let k := e % 256
    (sh (.reg 1 true) (.reg 1 true) .unused .unused [tyI32, tyZ32, tyF32] .none
      (viol (l.dst = l.a) 0x14 0x04 ++ viol (!([1, 2, 4, 8, 16, 32, 64].contains imm)) 0x17 0x07 ++
       viol (!([2, 4, 8, 16, 32, 64, 128].contains k)) 0x1A 0x07 ++ extViol false (256 ≤ e))).map
      fun s => { s with immUsed := true }
  | 0x066 => sh (.dst 1 false) .unused .unused .unused [0] .none ext0
  | 0x080 | 0x081 | 0x082 => fp2
  | 0x083 => sh (.dst 1 false) anySrc anySrc anySrc fpTypes (.arith true true) ext0
  | 0x084 | 0x085 => sh (.dst 1 false) anySrc anySrc .unused fpTypes .none ext0
  | 0x086 | 0x087 => sh (.dst 1 false) anySrc .unused .unused fpTypes .none ext0
  | 0x088 => sh (.pred (e / 8 % 4 ≠ 0) true) anySrc anySrc .unused fpTypes .none
      (extViol (e / 8 % 4 = 3) (32 ≤ e))
  | 0x089 => sh (.dst 1 false) anySrc .unused .unused [tyF32, tyF16, tyBf16, tyE4m3, tyE5m2] .none ext0
  | 0x08A | 0x08B | 0x08C | 0x08D | 0x08E => sh (.dst 1 false) anySrc .unused .unused [tyF32] (.arith false true) ext0
  | 0x08F => sh (.dst 1 false) anySrc .unused .unused fpTypes (.arith false true) (extViol false (2 ≤ e))
  | 0x090 =>
    let st := e % 256
    sh (tyDst t) (tySrc st) .unused .unused
      [tyF32, tyF16, tyBf16, tyE4m3, tyE5m2, tyI8, tyI16, tyI32, tyI64, tyZ8, tyZ16, tyZ32, tyZ64]
      (.arith (isFloatTy t ∨ isIntTy st) (isFloatTy t ∨ isFloatTy st))
      (viol (!cvtOk t st) 0x1A 0x05 ++ extViol false (256 ≤ e))
  | 0x091 =>
    let st := e % 256
    sh (.dst 1 true) anySrc .unused .unused
      [tyF16, tyBf16, tyE4m3, tyE5m2, tyI16, tyZ16, tyI8, tyZ8, tyI4, tyZ4]
      (.arith (isFloatTy t ∨ st = tyI32) true)
      (viol (st ≠ tyF32 ∧ st ≠ tyI32) 0x1A 0x05 ++ viol (32 ≤ tyBits t * (e / 256 % 8)) 0x1A 0x07 ++
       extViol false (2048 ≤ e))
  | 0x092 =>
    let st := e % 256
    sh (.dst 1 false) noImmSrc .unused .unused [tyF32] .none
      (viol (!([tyF16, tyBf16, tyE4m3, tyE5m2, tyI8, tyZ8, tyI16, tyZ16].contains st)) 0x1A 0x05 ++
       viol (32 ≤ tyBits st * (e / 256 % 8)) 0x1A 0x07 ++ extViol false (2048 ≤ e))
  | 0x093 => sh (.dst 1 false) noImmSrc noImmSrc .unused [tyF32] (.arith true true) (extViol false (16 ≤ e))
  | 0x094 => sh (.dst 1 true) noImmSrc noImmSrc .unused [tyF32] (.arith false true) (extViol false (16 ≤ e))
  | 0x095 =>
    let f := e % 4
    (sh (if f = 0 ∨ f = 2 then .dst 1 false else .unused) (if f = 3 then noImmSrc else .unused) .unused .unused
      [0] .none (viol (31 < imm) 0x17 0x07 ++ viol (imm ≠ 0 ∧ (f = 0 ∨ f = 3)) 0x17 0x03 ++
        extViol false (4 ≤ e))).map fun s => { s with immUsed := true }
  | 0x0C0 => load [0]
  | 0x0C1 => store [0]
  | 0x0C2 => load [0, 1, 2]
  | 0x0C3 => store [0, 1]
  | 0x0C4 =>
    let o := e % 16
    sh (.dst (if isWideTy t then 2 else 1) (o = 7)) .base anySrc (.src (if isWideTy t then 2 else 1) true true true false)
      (match o with
       | 0 | 4 | 5 => [tyI32, tyZ32, tyI64, tyZ64]
       | 8 => [tyF32]
       | 1 | 2 | 3 | 6 | 7 => [tyB32, tyI64, tyZ64]
       | _ => [tyB32, tyI32, tyZ32, tyI64, tyZ64, tyF32])
      (.mem [0, 1, 2, 3] [0])
      (viol (o = 7 ∧ l.dst.toNat = 0x3FE) 0x13 0x04 ++
       extViol (8 < o ∨ (m / 4 ≠ 0 ∧ e / 16 % 8 = 7)) ((m / 4 = 0 ∧ e / 16 % 8 ≠ 0) ∨ 128 ≤ e))
  | 0x0C5 => sh .unused .base anySrc laneSrc [tyB32] .none
      (extViol (e % 4 = 3) (e / 4 % 4 ≠ 0 ∨ 2 ^ 14 ≤ e) ++ viol (11 < e / 16 % 16) 0x1A 0x07)
  | 0x0E0 => sh .unused laneSrc laneSrc .unused [0] .none []
  | 0x100 | 0x101 => mma
  | 0x102 => sh (.dst 1 false) laneSrc (if e % 2 = 1 then .unused else laneSrc) .unused [0] .none (extViol false (2 ≤ e))
  | 0x103 => sh .unused laneSrc laneSrc laneSrc [0] .none ext0
  | _ => none

/-- The guard rule (R62, R63). -/
def guardViol (l : LaneF) : List Viol :=
  let g := l.guard.toNat
  viol ((24 ≤ g ∧ g ≤ 30) ∨ (g = 31 ∧ l.inv = 1#1)) 0x12 0x09

/-- Is imm8 named through specifier 0x3FF in a source field. -/
def immNamed (l : LaneF) : Bool := l.a.toNat = 0x3FF ∨ l.b.toNat = 0x3FF ∨ l.c.toNat = 0x3FF

/-- The rule of src c of MMA and MMAB under the format register of the batch (R248). -/
def sideViol (op : Nat) (l : LaneF) (fmt : Word) : List Viol :=
  if op = 0x100 ∨ op = 0x101 then
    if fmt.toNat / 2 ^ 4 % 256 = tyBx4 then viol (l.c.toNat = 0x3FE) 0x16 0x04 else viol (l.c.toNat ≠ 0x3FE) 0x16 0x03
  else []

/-- The field rules of a lane word (R62 to R69, R459). -/
def laneViolations (op : Nat) (l : LaneF) : List Viol :=
  if 0x3F0 ≤ op then []
  else match laneShape op l with
    | none => [(0x00, 0x01)]
    | some s =>
      guardViol l ++ fieldViol 0x13 s.dst l.dst.toNat ++ fieldViol 0x14 s.a l.a.toNat ++
      fieldViol 0x15 s.b l.b.toNat ++ fieldViol 0x16 s.c l.c.toNat ++
      viol (l.imm ≠ 0 ∧ !s.immUsed ∧ !immNamed l) 0x17 0x03 ++
      viol (!s.types.contains l.ty.toNat) 0x18 (if s.types = [0] then 0x03 else 0x05) ++
      modeViol s.mode l.mode.toNat ++ s.more

end Sys2Proof
end

