-- ==== Sys2Proof/Decode.lean ====
section
/-! DEFINITION. Decoding (R59 to R78, R458 to R460) and, after it, the encoder. Decoding is total: a word that is not a
well-formed instruction is rejected with the field and the reason that R460 gives. -/

namespace Sys2Proof

/-- Bits `lo + n - 1` down to `lo` of the word `w`, as a field. -/
def fieldOf (w lo n : Nat) : BitVec n := BitVec.ofNat n (bitsOf w lo n)

/-- The scalar instruction that the opcode and selector fields of `w` name (R74, R75, R81 to R107 and each family's
encoding); the rules of the other fields are `scalarViolations`. -/
def scalarInstr (w : Nat) : Option Instr :=
  let fn := bitsOf w 2 4
  let fi := bitsOf w 2 3
  let cond := bitsOf w 23 3
  match bitsOf w 26 6 with
  | 1 =>
    match fn with
    | 0 => some (.sadd (fieldOf w 20 6) (fieldOf w 13 7) (fieldOf w 6 7) (fieldOf w 0 2))
    | 1 => some (.saddI64 (fieldOf w 20 6) (fieldOf w 13 7) (fieldOf w 6 7) (fieldOf w 0 2))
    | 2 => some (.saddSat (fieldOf w 20 6) (fieldOf w 13 7) (fieldOf w 6 7) (fieldOf w 0 2))
    | 3 => some (.saddUsat (fieldOf w 20 6) (fieldOf w 13 7) (fieldOf w 6 7) (fieldOf w 0 2))
    | _ => none
  | 2 =>
    match fn with
    | 0 => some (.ssub (fieldOf w 20 6) (fieldOf w 13 7) (fieldOf w 6 7) (fieldOf w 0 2))
    | 1 => some (.ssubI64 (fieldOf w 20 6) (fieldOf w 13 7) (fieldOf w 6 7) (fieldOf w 0 2))
    | 2 => some (.ssubSat (fieldOf w 20 6) (fieldOf w 13 7) (fieldOf w 6 7) (fieldOf w 0 2))
    | 3 => some (.ssubUsat (fieldOf w 20 6) (fieldOf w 13 7) (fieldOf w 6 7) (fieldOf w 0 2))
    | _ => none
  | 3 => some (.smul (fieldOf w 20 6) (fieldOf w 13 7) (fieldOf w 6 7) (fieldOf w 0 2))
  | 4 =>
    match fn with
    | 0 => some (.smulh (fieldOf w 20 6) (fieldOf w 13 7) (fieldOf w 6 7) (fieldOf w 0 2))
    | 1 => some (.smulhZ32 (fieldOf w 20 6) (fieldOf w 13 7) (fieldOf w 6 7) (fieldOf w 0 2))
    | _ => none
  | 5 =>
    match fn with
    | 0 => some (.sdiv (fieldOf w 20 6) (fieldOf w 13 7) (fieldOf w 6 7) (fieldOf w 0 2))
    | 1 => some (.sdivZ32 (fieldOf w 20 6) (fieldOf w 13 7) (fieldOf w 6 7) (fieldOf w 0 2))
    | 2 => some (.sdivRem (fieldOf w 20 6) (fieldOf w 13 7) (fieldOf w 6 7) (fieldOf w 0 2))
    | 3 => some (.sdivRemZ32 (fieldOf w 20 6) (fieldOf w 13 7) (fieldOf w 6 7) (fieldOf w 0 2))
    | _ => none
  | 6 =>
    match fn with
    | 0 => some (.sand (fieldOf w 20 6) (fieldOf w 13 7) (fieldOf w 6 7) (fieldOf w 0 2))
    | 1 => some (.sandNot (fieldOf w 20 6) (fieldOf w 13 7) (fieldOf w 6 7) (fieldOf w 0 2))
    | _ => none
  | 7 =>
    match fn with
    | 0 => some (.sor (fieldOf w 20 6) (fieldOf w 13 7) (fieldOf w 6 7) (fieldOf w 0 2))
    | 1 => some (.sorNot (fieldOf w 20 6) (fieldOf w 13 7) (fieldOf w 6 7) (fieldOf w 0 2))
    | _ => none
  | 8 =>
    match fn with
    | 0 => some (.sxor (fieldOf w 20 6) (fieldOf w 13 7) (fieldOf w 6 7) (fieldOf w 0 2))
    | 1 => some (.sxorNot (fieldOf w 20 6) (fieldOf w 13 7) (fieldOf w 6 7) (fieldOf w 0 2))
    | _ => none
  | 9 =>
    match fn with
    | 0 => some (.sshl (fieldOf w 20 6) (fieldOf w 13 7) (fieldOf w 6 7) (fieldOf w 0 2))
    | 1 => some (.sshlI64 (fieldOf w 20 6) (fieldOf w 13 7) (fieldOf w 6 7) (fieldOf w 0 2))
    | _ => none
  | 10 =>
    match fn with
    | 0 => some (.sshr (fieldOf w 20 6) (fieldOf w 13 7) (fieldOf w 6 7) (fieldOf w 0 2))
    | 1 => some (.sshrI64 (fieldOf w 20 6) (fieldOf w 13 7) (fieldOf w 6 7) (fieldOf w 0 2))
    | _ => none
  | 11 =>
    match fn with
    | 0 => some (.ssar (fieldOf w 20 6) (fieldOf w 13 7) (fieldOf w 6 7) (fieldOf w 0 2))
    | 1 => some (.ssarI64 (fieldOf w 20 6) (fieldOf w 13 7) (fieldOf w 6 7) (fieldOf w 0 2))
    | _ => none
  | 12 =>
    match fn with
    | 0 => some (.smin (fieldOf w 20 6) (fieldOf w 13 7) (fieldOf w 6 7) (fieldOf w 0 2))
    | 1 => some (.sminZ32 (fieldOf w 20 6) (fieldOf w 13 7) (fieldOf w 6 7) (fieldOf w 0 2))
    | _ => none
  | 13 =>
    match fn with
    | 0 => some (.smax (fieldOf w 20 6) (fieldOf w 13 7) (fieldOf w 6 7) (fieldOf w 0 2))
    | 1 => some (.smaxZ32 (fieldOf w 20 6) (fieldOf w 13 7) (fieldOf w 6 7) (fieldOf w 0 2))
    | _ => none
  | 14 => some (.ssel (fieldOf w 20 6) (fieldOf w 13 7) (fieldOf w 6 7) (fieldOf w 0 2))
  | 15 =>
    match fn with
    | 0 => some (.scmpEq (fieldOf w 20 6) (fieldOf w 13 7) (fieldOf w 6 7) (fieldOf w 0 2))
    | 1 => some (.scmpNe (fieldOf w 20 6) (fieldOf w 13 7) (fieldOf w 6 7) (fieldOf w 0 2))
    | 2 => some (.scmpLt (fieldOf w 20 6) (fieldOf w 13 7) (fieldOf w 6 7) (fieldOf w 0 2))
    | 3 => some (.scmpLe (fieldOf w 20 6) (fieldOf w 13 7) (fieldOf w 6 7) (fieldOf w 0 2))
    | 4 => some (.scmpUlt (fieldOf w 20 6) (fieldOf w 13 7) (fieldOf w 6 7) (fieldOf w 0 2))
    | 5 => some (.scmpUle (fieldOf w 20 6) (fieldOf w 13 7) (fieldOf w 6 7) (fieldOf w 0 2))
    | _ => none
  | 16 =>
    match fn with
    | 0 => some (.smov (fieldOf w 20 6) (fieldOf w 13 7) (fieldOf w 0 2))
    | 1 => some (.smovI64 (fieldOf w 20 6) (fieldOf w 13 7) (fieldOf w 0 2))
    | _ => none
  | 17 => some (.spopc (fieldOf w 20 6) (fieldOf w 13 7) (fieldOf w 0 2))
  | 18 => some (.sclz (fieldOf w 20 6) (fieldOf w 13 7) (fieldOf w 0 2))
  | 19 =>
    match fi with
    | 0 => some (.smovi (fieldOf w 20 6) (fieldOf w 5 8) (fieldOf w 0 2))
    | 1 => some (.smoviZ (fieldOf w 20 6) (fieldOf w 5 8) (fieldOf w 0 2))
    | 2 => some (.smoviSh8 (fieldOf w 20 6) (fieldOf w 5 8) (fieldOf w 0 2))
    | _ => none
  | 20 =>
    match fi with
    | 0 => some (.saddi (fieldOf w 20 6) (fieldOf w 13 7) (fieldOf w 5 8) (fieldOf w 0 2))
    | 1 => some (.saddiI64 (fieldOf w 20 6) (fieldOf w 13 7) (fieldOf w 5 8) (fieldOf w 0 2))
    | _ => none
  | 21 =>
    match fi with
    | 0 => some (.sshli (fieldOf w 20 6) (fieldOf w 13 7) (fieldOf w 5 8) (fieldOf w 0 2))
    | 1 => some (.sshliLsr (fieldOf w 20 6) (fieldOf w 13 7) (fieldOf w 5 8) (fieldOf w 0 2))
    | 2 => some (.sshliAsr (fieldOf w 20 6) (fieldOf w 13 7) (fieldOf w 5 8) (fieldOf w 0 2))
    | _ => none
  | 22 =>
    match cond with
    | 0 => some (.brZ (fieldOf w 16 7) (fieldOf w 2 14) (fieldOf w 0 2))
    | 1 => some (.brNz (fieldOf w 16 7) (fieldOf w 2 14) (fieldOf w 0 2))
    | 2 => some (.brLt (fieldOf w 16 7) (fieldOf w 2 14) (fieldOf w 0 2))
    | 3 => some (.brGe (fieldOf w 16 7) (fieldOf w 2 14) (fieldOf w 0 2))
    | 4 => some (.brGt (fieldOf w 16 7) (fieldOf w 2 14) (fieldOf w 0 2))
    | 5 => some (.brLe (fieldOf w 16 7) (fieldOf w 2 14) (fieldOf w 0 2))
    | 6 => some (.brMz (fieldOf w 2 14) (fieldOf w 0 2))
    | 7 => some (.brMnz (fieldOf w 2 14) (fieldOf w 0 2))
    | _ => none
  | 23 =>
    match cond with
    | 0 => some (.jmp (fieldOf w 2 14) (fieldOf w 0 2))
    | 1 => some (.jmpInd (fieldOf w 16 7) (fieldOf w 0 2))
    | _ => none
  | 24 =>
    match cond with
    | 0 => some (.call (fieldOf w 2 14) (fieldOf w 0 2))
    | 1 => some (.callInd (fieldOf w 16 7) (fieldOf w 0 2))
    | _ => none
  | 25 => some (.loop (fieldOf w 16 7) (fieldOf w 2 14) (fieldOf w 0 2))
  | 26 =>
    match cond with
    | 0 => some (.split (fieldOf w 16 7) (fieldOf w 2 14) (fieldOf w 0 2))
    | 1 => some (.splitNot (fieldOf w 16 7) (fieldOf w 2 14) (fieldOf w 0 2))
    | _ => none
  | 27 =>
    match fn with
    | 0 => some (.join (fieldOf w 13 7) (fieldOf w 0 2))
    | 1 => some (.joinAll (fieldOf w 0 2))
    | _ => none
  | 28 => some (.vrun (fieldOf w 22 4) (fieldOf w 2 20) (fieldOf w 0 2))
  | 29 =>
    match fn with
    | 0 => some (.maskpMov (fieldOf w 20 6) (fieldOf w 6 7) (fieldOf w 0 2))
    | 1 => some (.maskpAnd (fieldOf w 20 6) (fieldOf w 13 7) (fieldOf w 6 7) (fieldOf w 0 2))
    | 2 => some (.maskpAndn (fieldOf w 20 6) (fieldOf w 13 7) (fieldOf w 6 7) (fieldOf w 0 2))
    | 3 => some (.maskpOr (fieldOf w 20 6) (fieldOf w 13 7) (fieldOf w 6 7) (fieldOf w 0 2))
    | _ => none
  | 30 => some (.waitc (fieldOf w 20 6) (fieldOf w 5 8) (fieldOf w 0 2))
  | 31 => some (.sld (fieldOf w 20 6) (fieldOf w 13 7) (fieldOf w 6 7) (fieldOf w 2 4) (fieldOf w 0 2))
  | 32 => some (.sst (fieldOf w 20 6) (fieldOf w 13 7) (fieldOf w 6 7) (fieldOf w 2 4) (fieldOf w 0 2))
  | 33 => some (.satom (fieldOf w 20 6) (fieldOf w 13 7) (fieldOf w 6 7) (fieldOf w 2 4) (fieldOf w 0 2))
  | 34 =>
    match fi with
    | 0 => some (.fence (fieldOf w 5 8) (fieldOf w 0 2))
    | 1 => some (.fenceLd (fieldOf w 5 8) (fieldOf w 0 2))
    | 2 => some (.fenceSt (fieldOf w 5 8) (fieldOf w 0 2))
    | _ => none
  | 35 => some (.bar (fieldOf w 5 8) (fieldOf w 0 2))
  | 36 =>
    match fn with
    | 0 => some (.bcopy (fieldOf w 20 6) (fieldOf w 13 7) (fieldOf w 6 7) (fieldOf w 0 2))
    | 1 => some (.bcopyIl4 (fieldOf w 20 6) (fieldOf w 13 7) (fieldOf w 6 7) (fieldOf w 0 2))
    | _ => none
  | 37 => some (.panarm (fieldOf w 20 6) (fieldOf w 13 7) (fieldOf w 0 2))
  | 38 =>
    match fi with
    | 0 => some (.panrel (fieldOf w 5 8) (fieldOf w 0 2))
    | 1 => some (.panrelWait (fieldOf w 5 8) (fieldOf w 0 2))
    | _ => none
  | 39 => some (.mloadb (fieldOf w 20 2) (fieldOf w 13 7) (fieldOf w 6 7) (fieldOf w 2 2) (fieldOf w 0 2))
  | 40 => some (.mmas (fieldOf w 20 2) (fieldOf w 13 7) (fieldOf w 2 2) (fieldOf w 0 2))
  | 41 => some (.accz (fieldOf w 13 7) (fieldOf w 6 7) (fieldOf w 0 2))
  | 42 => some (.accst (fieldOf w 20 6) (fieldOf w 13 7) (fieldOf w 6 7) (fieldOf w 0 2))
  | 43 => some (.solicit (fieldOf w 20 6) (fieldOf w 13 7) (fieldOf w 6 7) (fieldOf w 2 4) (fieldOf w 0 2))
  | 44 => some (.census (fieldOf w 20 6) (fieldOf w 13 7) (fieldOf w 0 2))
  | 45 => some (.respond (fieldOf w 13 7) (fieldOf w 0 2))
  | 46 => some (.markput (fieldOf w 13 7) (fieldOf w 6 7) (fieldOf w 0 2))
  | 47 => some (.markdrop (fieldOf w 13 7) (fieldOf w 6 7) (fieldOf w 0 2))
  | 48 => some (.markmove (fieldOf w 20 6) (fieldOf w 13 7) (fieldOf w 6 7) (fieldOf w 0 2))
  | 49 => some (.qpush (fieldOf w 20 6) (fieldOf w 13 7) (fieldOf w 6 7) (fieldOf w 2 4) (fieldOf w 0 2))
  | 50 =>
    match fn with
    | 0 => some (.cancelUnit (fieldOf w 13 7) (fieldOf w 0 2))
    | 1 => some (.cancelLaunch (fieldOf w 13 7) (fieldOf w 0 2))
    | 2 => some (.cancelGraph (fieldOf w 13 7) (fieldOf w 0 2))
    | 3 => some (.cancelPhase (fieldOf w 13 7) (fieldOf w 0 2))
    | 4 => some (.cancelJob (fieldOf w 13 7) (fieldOf w 0 2))
    | _ => none
  | 51 => some (.ctrrd (fieldOf w 20 6) (fieldOf w 13 7) (fieldOf w 0 2))
  | 52 => some (.regroup (fieldOf w 13 7) (fieldOf w 6 7) (fieldOf w 0 2))
  | 53 =>
    match fi with
    | 0 => some (.setfmt (fieldOf w 13 7) (fieldOf w 0 2))
    | 1 => some (.setfmtRnd (fieldOf w 5 8) (fieldOf w 0 2))
    | 2 => some (.setfmtFtz (fieldOf w 5 8) (fieldOf w 0 2))
    | 3 => some (.setfmtAtype (fieldOf w 5 8) (fieldOf w 0 2))
    | 4 => some (.setfmtBtype (fieldOf w 5 8) (fieldOf w 0 2))
    | 5 => some (.setfmtSmode (fieldOf w 5 8) (fieldOf w 0 2))
    | _ => none
  | 54 => some (.getfmt (fieldOf w 20 6) (fieldOf w 0 2))
  | 55 => some (.rdsr (fieldOf w 20 6) (fieldOf w 5 8) (fieldOf w 0 2))
  | 56 => some (.wrsr (fieldOf w 13 7) (fieldOf w 5 8) (fieldOf w 0 2))
  | 57 =>
    match fi with
    | 0 => some (.trap (fieldOf w 5 8) (fieldOf w 0 2))
    | 1 => some (.trapVal (fieldOf w 13 7) (fieldOf w 5 8) (fieldOf w 0 2))
    | _ => none
  | 58 => some (.waitn (fieldOf w 20 6) (fieldOf w 13 7) (fieldOf w 0 2))
  | 59 =>
    match fn % 4 with
    | 0 => some (.savegS (fieldOf w 20 6) (fieldOf w 13 7) (fieldOf w 0 2))
    | 1 => some (.savegV (fieldOf w 20 6) (fieldOf w 13 7) (fieldOf w 4 2) (fieldOf w 0 2))
    | 2 => some (.savegO (fieldOf w 20 6) (fieldOf w 13 7) (fieldOf w 0 2))
    | 3 => some (.savegP (fieldOf w 13 7) (fieldOf w 0 2))
    | _ => none
  | 60 =>
    match fn % 4 with
    | 0 => some (.loadgS (fieldOf w 20 6) (fieldOf w 13 7) (fieldOf w 0 2))
    | 1 => some (.loadgV (fieldOf w 20 6) (fieldOf w 13 7) (fieldOf w 4 2) (fieldOf w 0 2))
    | 2 => some (.loadgO (fieldOf w 20 6) (fieldOf w 13 7) (fieldOf w 0 2))
    | 3 => some (.loadgP (fieldOf w 13 7) (fieldOf w 0 2))
    | _ => none
  | 61 =>
    match fn with
    | 0 => some (.tlbinv (fieldOf w 13 7) (fieldOf w 6 7) (fieldOf w 0 2))
    | 1 => some (.tlbinvAll (fieldOf w 0 2))
    | _ => none
  | 62 =>
    match fn with
    | 0 => some (.ret (fieldOf w 0 2))
    | 1 => some (.exit (fieldOf w 0 2))
    | 2 => some (.yield (fieldOf w 0 2))
    | 3 => some (.ydone (fieldOf w 0 2))
    | 4 => some (.vsync (fieldOf w 0 2))
    | _ => none
  | 63 => some (.nop (fieldOf w 2 24) (fieldOf w 0 2))
  | _ => none

/-- Decoding one scalar word: the instruction, or the field and reason of the illegal-instruction fault (R458 to R460). -/
def decodeScalar (w : Word) : Except Viol Instr :=
  match worstViol (scalarViolations w.toNat) with
  | some v => .error v
  | none =>
    match scalarInstr w.toNat with
    | some i => .ok i
    | none => .error (0x00, 0x01)

/-- The fields of the 96-bit lane word `w` (R62). -/
def laneFields (w : Nat) : LaneF where
  stall := fieldOf w 82 4
  guard := fieldOf w 77 5
  inv := fieldOf w 76 1
  dst := fieldOf w 66 10
  a := fieldOf w 56 10
  b := fieldOf w 46 10
  c := fieldOf w 36 10
  imm := fieldOf w 28 8
  ty := fieldOf w 20 8
  mode := fieldOf w 16 4
  ext := fieldOf w 0 16

/-- The lane instruction of opcode `op` (R76, R77); the forms of VFLAGS and PSET are told apart by ext (R121, R169). -/
def laneInstr (op : Nat) (l : LaneF) : Option Instr :=
  let e := l.ext.toNat
  if 0x3F0 ≤ op then some (.laneHint (BitVec.ofNat 4 (op % 16)) l)
  else match op with
  | 0x001 => some (.vadd l)
  | 0x002 => some (.vsub l)
  | 0x003 => some (.vaddc l)
  | 0x004 => some (.vmul l)
  | 0x005 => some (.vmulh l)
  | 0x006 => some (.vmad l)
  | 0x007 => some (.vmin l)
  | 0x008 => some (.vmax l)
  | 0x009 => some (.vabs l)
  | 0x00A => some (.vneg l)
  | 0x00B => some (.vand l)
  | 0x00C => some (.vor l)
  | 0x00D => some (.vxor l)
  | 0x00E => some (.vnot l)
  | 0x00F => some (.vshl l)
  | 0x010 => some (.vshr l)
  | 0x011 => some (.vsar l)
  | 0x012 => some (.vclz l)
  | 0x013 => some (.vpopc l)
  | 0x014 => some (.vbrev l)
  | 0x015 => some (.vbfe l)
  | 0x016 => some (.vbfi l)
  | 0x017 => some (.vperm l)
  | 0x018 => some (.vsel l)
  | 0x019 => some (.vmov l)
  | 0x01A => some (.vcmp l)
  | 0x040 => some (.pand l)
  | 0x041 => some (.por l)
  | 0x042 => some (.pxor l)
  | 0x043 => some (.pnot l)
  | 0x044 => some (.pmov l)
  | 0x060 => some (.vshfl l)
  | 0x061 => some (.vbcast l)
  | 0x062 => some (.vred l)
  | 0x063 => some (.vscan l)
  | 0x064 => some (.vvote l)
  | 0x065 => some (.vcmpx l)
  | 0x066 => some (.vlaneid l)
  | 0x080 => some (.vfadd l)
  | 0x081 => some (.vfsub l)
  | 0x082 => some (.vfmul l)
  | 0x083 => some (.vfma l)
  | 0x084 => some (.vfmin l)
  | 0x085 => some (.vfmax l)
  | 0x086 => some (.vfabs l)
  | 0x087 => some (.vfneg l)
  | 0x088 => some (.vfcmp l)
  | 0x089 => some (.vfclass l)
  | 0x08A => some (.vrcp l)
  | 0x08B => some (.vrsq l)
  | 0x08C => some (.vsqrt l)
  | 0x08D => some (.vexp2 l)
  | 0x08E => some (.vlog2 l)
  | 0x08F => some (.vfrnd l)
  | 0x090 => some (.vcvt l)
  | 0x091 => some (.vpack l)
  | 0x092 => some (.vunpk l)
  | 0x093 => some (.vbxdec l)
  | 0x094 => some (.vbxenc l)
  | 0x0C0 => some (.vld l)
  | 0x0C1 => some (.vst l)
  | 0x0C2 => some (.vlds l)
  | 0x0C3 => some (.vsts l)
  | 0x0C4 => some (.vatom l)
  | 0x0C5 => some (.lcopy l)
  | 0x0E0 => some (.vspawn l)
  | 0x100 => some (.mma l)
  | 0x101 => some (.mmab l)
  | 0x102 => some (.accrd l)
  | 0x103 => some (.accwr l)
  | 0x045 => some (if e % 2 = 0 then .pset l else .psetMask l)
  | 0x095 => some (match e % 4 with
      | 0 => .vflagsRd l
      | 1 => .vflagsClr l
      | 2 => .vflagsRdclr l
      | _ => .vflagsWr l)
  | _ => none

/-- Decoding one 96-bit lane word. -/
def decodeLane (w : Nat) : Except Viol Instr :=
  let op := bitsOf w 86 10
  let l := laneFields w
  match worstViol (laneViolations op l) with
  | some v => .error v
  | none =>
    match laneInstr op l with
    | some i => .ok i
    | none => .error (0x00, 0x01)

/-- The 96-bit number of three little-endian words, word 0 lowest (R62). -/
def laneNumber (w0 w1 w2 : Word) : Nat := w0.toNat + 2 ^ 32 * w1.toNat + 2 ^ 64 * w2.toNat

/-- The instruction that the decoder reads from a table word of `nbits` bits: up to 32 bits a scalar word, above that the
three words of a lane word, the bits above `nbits` zero. -/
def decodeTableWord (nbits w : Nat) : Option Instr :=
  let v := w % 2 ^ nbits
  if nbits ≤ 32 then (decodeScalar (BitVec.ofNat 32 v)).toOption
  else (decodeLane (laneNumber (BitVec.ofNat 32 v) (BitVec.ofNat 32 (v / 2 ^ 32)) (BitVec.ofNat 32 (v / 2 ^ 64)))).toOption

/-! ### The encoder -/

/-- A lane word from its opcode and fields (R62). -/
def laneWord (op : Nat) (l : LaneF) : Nat :=
  2 ^ 86 * op + 2 ^ 82 * l.stall.toNat + 2 ^ 77 * l.guard.toNat + 2 ^ 76 * l.inv.toNat + 2 ^ 66 * l.dst.toNat +
  2 ^ 56 * l.a.toNat + 2 ^ 46 * l.b.toNat + 2 ^ 36 * l.c.toNat + 2 ^ 28 * l.imm.toNat + 2 ^ 20 * l.ty.toNat +
  2 ^ 16 * l.mode.toNat + l.ext.toNat

/-- The lane opcode and fields of a lane instruction (R76). -/
def laneParts : Instr → Option (Nat × LaneF)
  | .vadd l => some (0x001, l)
  | .vsub l => some (0x002, l)
  | .vaddc l => some (0x003, l)
  | .vmul l => some (0x004, l)
  | .vmulh l => some (0x005, l)
  | .vmad l => some (0x006, l)
  | .vmin l => some (0x007, l)
  | .vmax l => some (0x008, l)
  | .vabs l => some (0x009, l)
  | .vneg l => some (0x00A, l)
  | .vand l => some (0x00B, l)
  | .vor l => some (0x00C, l)
  | .vxor l => some (0x00D, l)
  | .vnot l => some (0x00E, l)
  | .vshl l => some (0x00F, l)
  | .vshr l => some (0x010, l)
  | .vsar l => some (0x011, l)
  | .vclz l => some (0x012, l)
  | .vpopc l => some (0x013, l)
  | .vbrev l => some (0x014, l)
  | .vbfe l => some (0x015, l)
  | .vbfi l => some (0x016, l)
  | .vperm l => some (0x017, l)
  | .vsel l => some (0x018, l)
  | .vmov l => some (0x019, l)
  | .vcmp l => some (0x01A, l)
  | .pand l => some (0x040, l)
  | .por l => some (0x041, l)
  | .pxor l => some (0x042, l)
  | .pnot l => some (0x043, l)
  | .pmov l => some (0x044, l)
  | .pset l => some (0x045, l)
  | .psetMask l => some (0x045, l)
  | .vshfl l => some (0x060, l)
  | .vbcast l => some (0x061, l)
  | .vred l => some (0x062, l)
  | .vscan l => some (0x063, l)
  | .vvote l => some (0x064, l)
  | .vcmpx l => some (0x065, l)
  | .vlaneid l => some (0x066, l)
  | .vfadd l => some (0x080, l)
  | .vfsub l => some (0x081, l)
  | .vfmul l => some (0x082, l)
  | .vfma l => some (0x083, l)
  | .vfmin l => some (0x084, l)
  | .vfmax l => some (0x085, l)
  | .vfabs l => some (0x086, l)
  | .vfneg l => some (0x087, l)
  | .vfcmp l => some (0x088, l)
  | .vfclass l => some (0x089, l)
  | .vrcp l => some (0x08A, l)
  | .vrsq l => some (0x08B, l)
  | .vsqrt l => some (0x08C, l)
  | .vexp2 l => some (0x08D, l)
  | .vlog2 l => some (0x08E, l)
  | .vfrnd l => some (0x08F, l)
  | .vcvt l => some (0x090, l)
  | .vpack l => some (0x091, l)
  | .vunpk l => some (0x092, l)
  | .vbxdec l => some (0x093, l)
  | .vbxenc l => some (0x094, l)
  | .vflagsRd l => some (0x095, l)
  | .vflagsClr l => some (0x095, l)
  | .vflagsRdclr l => some (0x095, l)
  | .vflagsWr l => some (0x095, l)
  | .vld l => some (0x0C0, l)
  | .vst l => some (0x0C1, l)
  | .vlds l => some (0x0C2, l)
  | .vsts l => some (0x0C3, l)
  | .vatom l => some (0x0C4, l)
  | .lcopy l => some (0x0C5, l)
  | .vspawn l => some (0x0E0, l)
  | .mma l => some (0x100, l)
  | .mmab l => some (0x101, l)
  | .accrd l => some (0x102, l)
  | .accwr l => some (0x103, l)
  | .laneHint op l => some (0x3F0 + op.toNat, l)
  | _ => none

/-- A word from its fixed bits and its fields, each given with its lowest bit. -/
def packWord (fixed : Nat) : List (Nat × Nat) → Nat
  | [] => fixed
  | (lo, v) :: fs => 2 ^ lo * v + packWord fixed fs

/-- The 32-bit number of a scalar instruction, from the encoding tables of R59, R74 and R75. -/
def scalarNumber : Instr → Option Nat
  | .sadd d a b t => some (packWord 0x04000000 [(20, d.toNat), (13, a.toNat), (6, b.toNat), (0, t.toNat)])
  | .saddI64 d a b t => some (packWord 0x04000004 [(20, d.toNat), (13, a.toNat), (6, b.toNat), (0, t.toNat)])
  | .saddSat d a b t => some (packWord 0x04000008 [(20, d.toNat), (13, a.toNat), (6, b.toNat), (0, t.toNat)])
  | .saddUsat d a b t => some (packWord 0x0400000C [(20, d.toNat), (13, a.toNat), (6, b.toNat), (0, t.toNat)])
  | .ssub d a b t => some (packWord 0x08000000 [(20, d.toNat), (13, a.toNat), (6, b.toNat), (0, t.toNat)])
  | .ssubI64 d a b t => some (packWord 0x08000004 [(20, d.toNat), (13, a.toNat), (6, b.toNat), (0, t.toNat)])
  | .ssubSat d a b t => some (packWord 0x08000008 [(20, d.toNat), (13, a.toNat), (6, b.toNat), (0, t.toNat)])
  | .ssubUsat d a b t => some (packWord 0x0800000C [(20, d.toNat), (13, a.toNat), (6, b.toNat), (0, t.toNat)])
  | .smul d a b t => some (packWord 0x0C000000 [(20, d.toNat), (13, a.toNat), (6, b.toNat), (0, t.toNat)])
  | .smulh d a b t => some (packWord 0x10000000 [(20, d.toNat), (13, a.toNat), (6, b.toNat), (0, t.toNat)])
  | .smulhZ32 d a b t => some (packWord 0x10000004 [(20, d.toNat), (13, a.toNat), (6, b.toNat), (0, t.toNat)])
  | .sdiv d a b t => some (packWord 0x14000000 [(20, d.toNat), (13, a.toNat), (6, b.toNat), (0, t.toNat)])
  | .sdivZ32 d a b t => some (packWord 0x14000004 [(20, d.toNat), (13, a.toNat), (6, b.toNat), (0, t.toNat)])
  | .sdivRem d a b t => some (packWord 0x14000008 [(20, d.toNat), (13, a.toNat), (6, b.toNat), (0, t.toNat)])
  | .sdivRemZ32 d a b t => some (packWord 0x1400000C [(20, d.toNat), (13, a.toNat), (6, b.toNat), (0, t.toNat)])
  | .sand d a b t => some (packWord 0x18000000 [(20, d.toNat), (13, a.toNat), (6, b.toNat), (0, t.toNat)])
  | .sandNot d a b t => some (packWord 0x18000004 [(20, d.toNat), (13, a.toNat), (6, b.toNat), (0, t.toNat)])
  | .sor d a b t => some (packWord 0x1C000000 [(20, d.toNat), (13, a.toNat), (6, b.toNat), (0, t.toNat)])
  | .sorNot d a b t => some (packWord 0x1C000004 [(20, d.toNat), (13, a.toNat), (6, b.toNat), (0, t.toNat)])
  | .sxor d a b t => some (packWord 0x20000000 [(20, d.toNat), (13, a.toNat), (6, b.toNat), (0, t.toNat)])
  | .sxorNot d a b t => some (packWord 0x20000004 [(20, d.toNat), (13, a.toNat), (6, b.toNat), (0, t.toNat)])
  | .sshl d a b t => some (packWord 0x24000000 [(20, d.toNat), (13, a.toNat), (6, b.toNat), (0, t.toNat)])
  | .sshlI64 d a b t => some (packWord 0x24000004 [(20, d.toNat), (13, a.toNat), (6, b.toNat), (0, t.toNat)])
  | .sshr d a b t => some (packWord 0x28000000 [(20, d.toNat), (13, a.toNat), (6, b.toNat), (0, t.toNat)])
  | .sshrI64 d a b t => some (packWord 0x28000004 [(20, d.toNat), (13, a.toNat), (6, b.toNat), (0, t.toNat)])
  | .ssar d a b t => some (packWord 0x2C000000 [(20, d.toNat), (13, a.toNat), (6, b.toNat), (0, t.toNat)])
  | .ssarI64 d a b t => some (packWord 0x2C000004 [(20, d.toNat), (13, a.toNat), (6, b.toNat), (0, t.toNat)])
  | .smin d a b t => some (packWord 0x30000000 [(20, d.toNat), (13, a.toNat), (6, b.toNat), (0, t.toNat)])
  | .sminZ32 d a b t => some (packWord 0x30000004 [(20, d.toNat), (13, a.toNat), (6, b.toNat), (0, t.toNat)])
  | .smax d a b t => some (packWord 0x34000000 [(20, d.toNat), (13, a.toNat), (6, b.toNat), (0, t.toNat)])
  | .smaxZ32 d a b t => some (packWord 0x34000004 [(20, d.toNat), (13, a.toNat), (6, b.toNat), (0, t.toNat)])
  | .ssel d a b t => some (packWord 0x38000000 [(20, d.toNat), (13, a.toNat), (6, b.toNat), (0, t.toNat)])
  | .scmpEq d a b t => some (packWord 0x3C000000 [(20, d.toNat), (13, a.toNat), (6, b.toNat), (0, t.toNat)])
  | .scmpNe d a b t => some (packWord 0x3C000004 [(20, d.toNat), (13, a.toNat), (6, b.toNat), (0, t.toNat)])
  | .scmpLt d a b t => some (packWord 0x3C000008 [(20, d.toNat), (13, a.toNat), (6, b.toNat), (0, t.toNat)])
  | .scmpLe d a b t => some (packWord 0x3C00000C [(20, d.toNat), (13, a.toNat), (6, b.toNat), (0, t.toNat)])
  | .scmpUlt d a b t => some (packWord 0x3C000010 [(20, d.toNat), (13, a.toNat), (6, b.toNat), (0, t.toNat)])
  | .scmpUle d a b t => some (packWord 0x3C000014 [(20, d.toNat), (13, a.toNat), (6, b.toNat), (0, t.toNat)])
  | .smov d a t => some (packWord 0x40000000 [(20, d.toNat), (13, a.toNat), (0, t.toNat)])
  | .smovI64 d a t => some (packWord 0x40000004 [(20, d.toNat), (13, a.toNat), (0, t.toNat)])
  | .spopc d a t => some (packWord 0x44000000 [(20, d.toNat), (13, a.toNat), (0, t.toNat)])
  | .sclz d a t => some (packWord 0x48000000 [(20, d.toNat), (13, a.toNat), (0, t.toNat)])
  | .smovi d i t => some (packWord 0x4C000000 [(20, d.toNat), (5, i.toNat), (0, t.toNat)])
  | .smoviZ d i t => some (packWord 0x4C000004 [(20, d.toNat), (5, i.toNat), (0, t.toNat)])
  | .smoviSh8 d i t => some (packWord 0x4C000008 [(20, d.toNat), (5, i.toNat), (0, t.toNat)])
  | .saddi d a i t => some (packWord 0x50000000 [(20, d.toNat), (13, a.toNat), (5, i.toNat), (0, t.toNat)])
  | .saddiI64 d a i t => some (packWord 0x50000004 [(20, d.toNat), (13, a.toNat), (5, i.toNat), (0, t.toNat)])
  | .sshli d a i t => some (packWord 0x54000000 [(20, d.toNat), (13, a.toNat), (5, i.toNat), (0, t.toNat)])
  | .sshliLsr d a i t => some (packWord 0x54000004 [(20, d.toNat), (13, a.toNat), (5, i.toNat), (0, t.toNat)])
  | .sshliAsr d a i t => some (packWord 0x54000008 [(20, d.toNat), (13, a.toNat), (5, i.toNat), (0, t.toNat)])
  | .brZ a x t => some (packWord 0x58000000 [(16, a.toNat), (2, x.toNat), (0, t.toNat)])
  | .brNz a x t => some (packWord 0x58800000 [(16, a.toNat), (2, x.toNat), (0, t.toNat)])
  | .brLt a x t => some (packWord 0x59000000 [(16, a.toNat), (2, x.toNat), (0, t.toNat)])
  | .brGe a x t => some (packWord 0x59800000 [(16, a.toNat), (2, x.toNat), (0, t.toNat)])
  | .brGt a x t => some (packWord 0x5A000000 [(16, a.toNat), (2, x.toNat), (0, t.toNat)])
  | .brLe a x t => some (packWord 0x5A800000 [(16, a.toNat), (2, x.toNat), (0, t.toNat)])
  | .brMz x t => some (packWord 0x5B000000 [(2, x.toNat), (0, t.toNat)])
  | .brMnz x t => some (packWord 0x5B800000 [(2, x.toNat), (0, t.toNat)])
  | .jmp x t => some (packWord 0x5C000000 [(2, x.toNat), (0, t.toNat)])
  | .jmpInd a t => some (packWord 0x5C800000 [(16, a.toNat), (0, t.toNat)])
  | .call x t => some (packWord 0x60000000 [(2, x.toNat), (0, t.toNat)])
  | .callInd a t => some (packWord 0x60800000 [(16, a.toNat), (0, t.toNat)])
  | .loop a x t => some (packWord 0x64000000 [(16, a.toNat), (2, x.toNat), (0, t.toNat)])
  | .split a x t => some (packWord 0x68000000 [(16, a.toNat), (2, x.toNat), (0, t.toNat)])
  | .splitNot a x t => some (packWord 0x68800000 [(16, a.toNat), (2, x.toNat), (0, t.toNat)])
  | .join a t => some (packWord 0x6C000000 [(13, a.toNat), (0, t.toNat)])
  | .joinAll t => some (packWord 0x6C000004 [(0, t.toNat)])
  | .vrun c l t => some (packWord 0x70000000 [(22, c.toNat), (2, l.toNat), (0, t.toNat)])
  | .maskpMov d b t => some (packWord 0x74000000 [(20, d.toNat), (6, b.toNat), (0, t.toNat)])
  | .maskpAnd d a b t => some (packWord 0x74000004 [(20, d.toNat), (13, a.toNat), (6, b.toNat), (0, t.toNat)])
  | .maskpAndn d a b t => some (packWord 0x74000008 [(20, d.toNat), (13, a.toNat), (6, b.toNat), (0, t.toNat)])
  | .maskpOr d a b t => some (packWord 0x7400000C [(20, d.toNat), (13, a.toNat), (6, b.toNat), (0, t.toNat)])
  | .waitc d i t => some (packWord 0x78000000 [(20, d.toNat), (5, i.toNat), (0, t.toNat)])
  | .sld d a b f t => some (packWord 0x7C000000 [(20, d.toNat), (13, a.toNat), (6, b.toNat), (2, f.toNat), (0, t.toNat)])
  | .sst d a b f t => some (packWord 0x80000000 [(20, d.toNat), (13, a.toNat), (6, b.toNat), (2, f.toNat), (0, t.toNat)])
  | .satom d a b f t => some (packWord 0x84000000 [(20, d.toNat), (13, a.toNat), (6, b.toNat), (2, f.toNat), (0, t.toNat)])
  | .fence i t => some (packWord 0x88000000 [(5, i.toNat), (0, t.toNat)])
  | .fenceLd i t => some (packWord 0x88000004 [(5, i.toNat), (0, t.toNat)])
  | .fenceSt i t => some (packWord 0x88000008 [(5, i.toNat), (0, t.toNat)])
  | .bar i t => some (packWord 0x8C000000 [(5, i.toNat), (0, t.toNat)])
  | .bcopy d a b t => some (packWord 0x90000000 [(20, d.toNat), (13, a.toNat), (6, b.toNat), (0, t.toNat)])
  | .bcopyIl4 d a b t => some (packWord 0x90000004 [(20, d.toNat), (13, a.toNat), (6, b.toNat), (0, t.toNat)])
  | .panarm d a t => some (packWord 0x94000000 [(20, d.toNat), (13, a.toNat), (0, t.toNat)])
  | .panrel i t => some (packWord 0x98000000 [(5, i.toNat), (0, t.toNat)])
  | .panrelWait i t => some (packWord 0x98000004 [(5, i.toNat), (0, t.toNat)])
  | .mloadb n a b f t => some (packWord 0x9C000000 [(20, n.toNat), (13, a.toNat), (6, b.toNat), (2, f.toNat), (0, t.toNat)])
  | .mmas n a f t => some (packWord 0xA0000000 [(20, n.toNat), (13, a.toNat), (2, f.toNat), (0, t.toNat)])
  | .accz a b t => some (packWord 0xA4000000 [(13, a.toNat), (6, b.toNat), (0, t.toNat)])
  | .accst d a b t => some (packWord 0xA8000000 [(20, d.toNat), (13, a.toNat), (6, b.toNat), (0, t.toNat)])
  | .solicit d a b f t => some (packWord 0xAC000000 [(20, d.toNat), (13, a.toNat), (6, b.toNat), (2, f.toNat), (0, t.toNat)])
  | .census d a t => some (packWord 0xB0000000 [(20, d.toNat), (13, a.toNat), (0, t.toNat)])
  | .respond a t => some (packWord 0xB4000000 [(13, a.toNat), (0, t.toNat)])
  | .markput a b t => some (packWord 0xB8000000 [(13, a.toNat), (6, b.toNat), (0, t.toNat)])
  | .markdrop a b t => some (packWord 0xBC000000 [(13, a.toNat), (6, b.toNat), (0, t.toNat)])
  | .markmove d a b t => some (packWord 0xC0000000 [(20, d.toNat), (13, a.toNat), (6, b.toNat), (0, t.toNat)])
  | .qpush d a b f t => some (packWord 0xC4000000 [(20, d.toNat), (13, a.toNat), (6, b.toNat), (2, f.toNat), (0, t.toNat)])
  | .cancelUnit a t => some (packWord 0xC8000000 [(13, a.toNat), (0, t.toNat)])
  | .cancelLaunch a t => some (packWord 0xC8000004 [(13, a.toNat), (0, t.toNat)])
  | .cancelGraph a t => some (packWord 0xC8000008 [(13, a.toNat), (0, t.toNat)])
  | .cancelPhase a t => some (packWord 0xC800000C [(13, a.toNat), (0, t.toNat)])
  | .cancelJob a t => some (packWord 0xC8000010 [(13, a.toNat), (0, t.toNat)])
  | .ctrrd d a t => some (packWord 0xCC000000 [(20, d.toNat), (13, a.toNat), (0, t.toNat)])
  | .regroup a b t => some (packWord 0xD0000000 [(13, a.toNat), (6, b.toNat), (0, t.toNat)])
  | .setfmt a t => some (packWord 0xD4000000 [(13, a.toNat), (0, t.toNat)])
  | .setfmtRnd i t => some (packWord 0xD4000004 [(5, i.toNat), (0, t.toNat)])
  | .setfmtFtz i t => some (packWord 0xD4000008 [(5, i.toNat), (0, t.toNat)])
  | .setfmtAtype i t => some (packWord 0xD400000C [(5, i.toNat), (0, t.toNat)])
  | .setfmtBtype i t => some (packWord 0xD4000010 [(5, i.toNat), (0, t.toNat)])
  | .setfmtSmode i t => some (packWord 0xD4000014 [(5, i.toNat), (0, t.toNat)])
  | .getfmt d t => some (packWord 0xD8000000 [(20, d.toNat), (0, t.toNat)])
  | .rdsr d i t => some (packWord 0xDC000000 [(20, d.toNat), (5, i.toNat), (0, t.toNat)])
  | .wrsr a i t => some (packWord 0xE0000000 [(13, a.toNat), (5, i.toNat), (0, t.toNat)])
  | .trap i t => some (packWord 0xE4000000 [(5, i.toNat), (0, t.toNat)])
  | .trapVal a i t => some (packWord 0xE4000004 [(13, a.toNat), (5, i.toNat), (0, t.toNat)])
  | .waitn d a t => some (packWord 0xE8000000 [(20, d.toNat), (13, a.toNat), (0, t.toNat)])
  | .savegS d a t => some (packWord 0xEC000000 [(20, d.toNat), (13, a.toNat), (0, t.toNat)])
  | .savegV d a v t => some (packWord 0xEC000004 [(20, d.toNat), (13, a.toNat), (4, v.toNat), (0, t.toNat)])
  | .savegO d a t => some (packWord 0xEC000008 [(20, d.toNat), (13, a.toNat), (0, t.toNat)])
  | .savegP a t => some (packWord 0xEC00000C [(13, a.toNat), (0, t.toNat)])
  | .loadgS d a t => some (packWord 0xF0000000 [(20, d.toNat), (13, a.toNat), (0, t.toNat)])
  | .loadgV d a v t => some (packWord 0xF0000004 [(20, d.toNat), (13, a.toNat), (4, v.toNat), (0, t.toNat)])
  | .loadgO d a t => some (packWord 0xF0000008 [(20, d.toNat), (13, a.toNat), (0, t.toNat)])
  | .loadgP a t => some (packWord 0xF000000C [(13, a.toNat), (0, t.toNat)])
  | .tlbinv a b t => some (packWord 0xF4000000 [(13, a.toNat), (6, b.toNat), (0, t.toNat)])
  | .tlbinvAll t => some (packWord 0xF4000004 [(0, t.toNat)])
  | .ret t => some (packWord 0xF8000000 [(0, t.toNat)])
  | .exit t => some (packWord 0xF8000004 [(0, t.toNat)])
  | .yield t => some (packWord 0xF8000008 [(0, t.toNat)])
  | .ydone t => some (packWord 0xF800000C [(0, t.toNat)])
  | .vsync t => some (packWord 0xF8000010 [(0, t.toNat)])
  | .nop h t => some (packWord 0xFC000000 [(2, h.toNat), (0, t.toNat)])
  | _ => none

/-- The words of an instruction, first word first; none for a step of the device, which has no word. -/
def encode (i : Instr) : List Word :=
  match scalarNumber i with
  | some n => [BitVec.ofNat 32 n]
  | none =>
    match laneParts i with
    | some (op, l) =>
      let n := laneWord op l
      [BitVec.ofNat 32 n, BitVec.ofNat 32 (n / 2 ^ 32), BitVec.ofNat 32 (n / 2 ^ 64)]
    | none => []

/-- Decoding the words that `encode` gives: one word is a scalar word, three are a lane word. -/
def decodeWords : List Word → Except Viol Instr
  | [w] => decodeScalar w
  | [w0, w1, w2] => decodeLane (laneNumber w0 w1 w2)
  | _ => .error (0x00, 0x01)

/-- The field rules that an instruction breaks; a step of the device breaks none. -/
def violations (i : Instr) : List Viol :=
  match scalarNumber i with
  | some n => scalarViolations n
  | none =>
    match laneParts i with
    | some (op, l) => laneViolations op l ++
        (if laneInstr op l = some i then [] else [(0x1A, 0x02)])
    | none => []

end Sys2Proof
end

