-- ==== Sys2Proof/WellFormed.lean ====
section
/-! DEFINITION. Well-formed instructions: those that break no field rule (R459, R460). -/

namespace Sys2Proof

/-- No field rule of the instruction's word is broken. -/
def WellFormed (i : Instr) : Prop := violations i = []

/-- The same, as a Boolean. -/
def wellFormed (i : Instr) : Bool := (violations i).isEmpty

theorem wellFormed_iff (i : Instr) : wellFormed i = true ↔ WellFormed i := by
  simp [wellFormed, WellFormed]

end Sys2Proof
end

