-- ==== Sys2Proof/Machine/State.lean ====
section
/-! DEFINITION. The state of the device, as plain data, and the state after reset. Every piece of state that the spec
names stands here (INVENTORY.md lists them with their rules); the fields that are the model's own say so. -/

namespace Sys2Proof.Machine

/-- Memory: address and byte, addresses rising, no entry equal to what an unlisted address reads as. -/
abbrev Memory := List Host.Cell

/-- What a byte that no entry lists reads as. HBM lines that a device has not written read zero (R409), scratchpad is
granted zero (R200), slots are granted zero (R239); host and peer memory: DESIGN CHOICE (log entry 4). -/
def unlistedByte : Byte := 0

/-- The canonical form of a memory, from a lower bound on. -/
def Memory.wfFrom : Nat → Memory → Bool
  | _, [] => true
  | lo, (a, b) :: m => decide (lo ≤ a) && decide (b ≠ unlistedByte) && Memory.wfFrom (a + 1) m

/-- The canonical form: addresses strictly rising and no entry equal to what an unlisted address reads as. -/
def Memory.wf (m : Memory) : Bool := Memory.wfFrom 0 m

/-- Why the machine stops with a fault. -/
inductive Fault where
  /-- Raised by `exec` on an instruction when no live split or batch is issuing it: the machine's own `step` never does
  that. Safe: the device has no such event. -/
  | noIssuer
  deriving DecidableEq, Repr

/-- Why the machine has no next state. -/
inductive Refusal where
  /-- Raised by an arm of `exec` whose instruction has no meaning yet. Safe. -/
  | notModelled (mnemonic : String)
  deriving DecidableEq, Repr

/-! ### Places of storage -/

/-- A byte of storage, wherever it lives (R197, R218, R335, R364, R374, R402, R430, R447). -/
inductive Loc where
  /-- Host memory at a host address. -/
  | host (a : Nat)
  /-- HBM space of a virtual device (R366). -/
  | hbm (vd a : Nat)
  /-- Memory of virtual device `pvd` of the peer behind a port (R364). -/
  | peer (port pvd a : Nat)
  /-- Exchange-window line byte (R417). -/
  | win (uid off : Nat)
  /-- Scratchpad byte of a core, absolute (R16). -/
  | spad (core a : Nat)
  /-- Byte of a stationary slot: 128 rows of 384, then 128 side rows of 48 (R238). -/
  | slot (core n a : Nat)
  /-- The pages at 0x000F_F600_0000_0000 of a device: notification queue, energy block, error ring (R374, R402, R447). -/
  | sys (vd a : Nat)
  /-- A desired-state area of a writer domain (R335). -/
  | area (dom a : Nat)
  /-- Saved image of a team's scratchpad (R396). -/
  | image (team a : Nat)
  /-- Saved image of a device's slot on a core (R240). -/
  | slotImage (core vd n a : Nat)
  deriving DecidableEq, Repr

/-! ### Splits, batches and groups -/

/-- The state of a split-table entry (R179). -/
inductive SplitState where
  | free
  | running
  | joining
  deriving DecidableEq, Repr

/-- A register whose writes have a fixed latency (R70, R71, R98, R154). -/
inductive PReg where
  | s (n : Nat)
  | v (n : Nat)
  | o (n : Nat)
  | p (n : Nat)
  | flags
  | empty
  deriving DecidableEq, Repr

/-- A fixed-latency result that some reader may not see yet (R44, R70, R71, R73): the register, the cycle of the issue and the
cycle from which it may be read, the lanes that it writes (all of them for a scalar register), the values from before it (per
lane, or one), the producer's word or lane index and whether a scalar instruction wrote it (R462). -/
structure Pend where
  reg : PReg
  split : Nat
  issued : Nat
  ready : Nat
  mask : LaneMask
  old : List Word
  prod : Nat
  scalar : Bool
  /-- Issue number of the producer: a lane instruction whose VRUN is older may read either value (R97). -/
  seq : Nat
  deriving DecidableEq, Repr

/-- What a split waits for after its instruction has begun (R193). -/
inductive Block where
  | none
  /-- BAR b; it arrives when the group's stores from before issue number `seq` are accepted (R277). -/
  | bar (b seq : Nat)
  /-- FENCE: kind 0 full, 1 .ld, 2 .st; everything before `seq` (R273). -/
  | fence (scope kind seq : Nat)
  /-- A copy waits for its pannier or its entries (R227). -/
  | copy (id : Nat)
  /-- An engine instruction waits for its admission (R244). -/
  | engine (id : Nat)
  /-- An admitted pass whose first row has not started (R246). -/
  | stream (id : Nat)
  /-- The instruction is parked (R370). -/
  | park (id : Nat)
  /-- A .fe or .fec access waits at the port (R210). -/
  | fe (op : Nat)
  /-- CANCEL waits until its write is performed (R325). -/
  | write (op : Nat)
  /-- TLBINV over `n` pages from page `lo`: before it drops its entries it waits as a fence for what comes before `seq`,
  then for the accesses that started before `seq` (R378). -/
  | tlbinv (lo n seq : Nat) (dropped : Bool)
  deriving DecidableEq, Repr

/-- One split-table entry (R42, R179), with the times that the issue rules use (R70, R91, R193). -/
structure Split where
  state : SplitState
  pc : Nat
  /-- s48 to s63. -/
  priv : List Word
  fmt : Word
  saved : Word
  rejoin : LaneMask
  /-- The cycle from which the split may issue again. -/
  earliest : Nat
  /-- The cycle of the last issue, or of creation. -/
  lastIssue : Nat
  /-- YIELD: passed over at the next opportunity (R94). -/
  passOver : Bool
  block : Block
  /-- Issue number of the last VSYNC that passed (split order, R266). -/
  vsyncSeq : Nat
  /-- The slot from which every fixed-latency result of the split's finished batches is written (R176). -/
  laneReady : Nat
  /-- The word of the latest scalar instruction that issued, for the record of a join deadlock (R467). -/
  word : Nat
  /-- Issue number at which the split was created: it tells the splits apart that hold one entry in turn (R266). -/
  born : Nat
  deriving DecidableEq, Repr

/-- One entry of the last-result file (R48). -/
inductive HEntry where
  | noResult
  /-- The 96 values, the values before, the slot from which they may be read and the producer's lane index. -/
  | vals (new old : List Word) (ready prod : Nat)
  /-- A counted result: the value that the destination specifier holds when it is read. -/
  | dest (spec : Nat)
  deriving DecidableEq, Repr

/-- A batch of the batch queue (R95, R96, R176 to R178). -/
structure Batch where
  bid : Nat
  split : Nat
  first : Nat
  count : Nat
  /-- Index, within the batch, of the next unissued instruction. -/
  next : Nat
  mask : LaneMask
  fmt : Word
  started : Bool
  suspended : Bool
  block : Block
  pipe : Option Nat
  /-- The slot from which the next instruction may issue (R71). -/
  nextSlot : Nat
  /-- The cycle of its VRUN (R194) and the word index of that VRUN (R446). -/
  vrunAt : Nat
  spc : Nat
  /-- Issue number of its VRUN (R266). -/
  seq : Nat
  hist : List HEntry
  /-- Lanes that a suspended instruction has already served (R187, R211). -/
  served : LaneMask
  /-- The slot from which every fixed-latency result of the batch is written. -/
  ready : Nat
  deriving DecidableEq, Repr

/-- A launch record as the queue controller read it (R317). -/
structure Launch where
  lid : Word
  scode : Nat
  lcode : Nat
  slen : Nat
  llen : Nat
  vregs : Nat
  team : Nat
  groups : Nat
  entry : Nat
  consts : List Word
  sprows : Nat
  accrows : Nat
  lctr : Nat
  gctr : Nat
  pctr : Nat
  jctr : Nat
  /-- Scratchpad image: address, bytes, first row (R509). -/
  image : Option (Nat × Nat × Nat)
  deriving DecidableEq, Repr

/-- A fault of one split of a group (R442, R446). -/
structure FaultRec where
  who : Nat
  code : Nat
  addr : Nat
  detail : Nat
  insn : Nat
  laneIns : Bool
  lane : Nat
  spc : Nat
  lpc : Nat
  low : Nat
  deriving DecidableEq, Repr

/-- Where a group stands. -/
inductive GroupStatus where
  | running
  /-- A fault has been found; issued work drains (R440). -/
  | faulting
  | halted
  /-- Trapped at slice expiry, before its handler starts (R391). -/
  | trapped
  /-- The forced save waits for the engine and the copies (R396). -/
  | saving
  /-- Saved out after YDONE (R398). -/
  | savedCoop
  /-- Saved out by the hardware (R396, R398). -/
  | savedForced
  /-- Placed while its device was saved out (R389). -/
  | savedFresh
  deriving DecidableEq, Repr

/-- The handler split (R393). -/
structure Handler where
  sp : Split
  /-- False in the save phase, true in the resume phase. -/
  resume : Bool
  scode : Nat
  slen : Nat
  deriving DecidableEq, Repr

/-- What a responder group answers (R308, R309). -/
structure Responder where
  sid : Nat
  sent : Option DWord
  /-- The mark entry's tile allocation, for its release rule (R297): the owning team. -/
  team : Option Nat
  deriving DecidableEq, Repr

/-- What VFLAGS and the matrix engine have done to the sticky flags in one slot (R154): the flags from before it, the lanes that
VFLAGS.wr has written in it and the flags ORed in at once. -/
structure FlagTurn where
  slot : Nat
  before : List (BitVec 5)
  wrote : LaneMask
  ored : List (BitVec 5)
  deriving DecidableEq, Repr

/-- A group in its slot (R173). -/
structure Group where
  gid : Nat
  core : Nat
  slot : Nat
  vd : Nat
  gen : Nat
  launch : Launch
  rank : Nat
  team : Option Nat
  /-- Scratchpad and accumulator allocation as the group sees it: first absolute row and count. -/
  spBase : Nat
  spRows : Nat
  accBase : Nat
  accRows : Nat
  /-- First register row (R46). -/
  rowBase : Nat
  /-- s0 to s47. -/
  sregs : List Word
  vregs : List (List Word)
  oregs : List (List Word)
  preds : List LaneMask
  flags : List (BitVec 5)
  wc : List Nat
  empty : Bool
  stallchk : Bool
  splits : List Split
  batches : List Batch
  handler : Option Handler
  pend : List Pend
  /-- Flags on their way: slot or cycle of arrival and the 96 flag sets (R154). -/
  fpend : List (Nat × List (BitVec 5))
  fturn : Option FlagTurn
  /-- Scalar registers of the group that an interlocked result will write: split (8: any) and number (R55). -/
  locks : List (Nat × Nat)
  /-- Lane registers that ACCRD will write or a pass still reads: specifier and whether only writes are held (R55). -/
  vlocks : List (Nat × Bool × Nat)
  status : GroupStatus
  faults : List FaultRec
  late : Nat × Nat
  /-- The posted fault record. -/
  record : List Byte
  responder : Option Responder
  /-- SUCC word of the unit's task record, or 0 (R319). -/
  succ : Nat
  /-- Whether the unit was started by a launch entry's tracker, and which (R324). -/
  tracker : Option Nat
  /-- Resident cycles before the last save, and the cycle of the last arrival (R56). -/
  cycBefore : Nat
  cycSince : Nat
  /-- The cycle of the trap (R396). -/
  trapAt : Nat
  /-- Of the handler record read at the trap: SCODE, SLEN, RESUMEENTRY (R392). -/
  resumeAt : Nat × Nat × Nat
  /-- A resident program's unit, stopped by its restart (R359). -/
  stopping : Bool
  /-- REGROUP in progress has offered the group (R189). -/
  ended : Bool
  deriving DecidableEq, Repr

/-- A team's allocation on a core (R174, R199). -/
structure Team where
  tid : Nat
  core : Nat
  vd : Nat
  gen : Nat
  spBase : Nat
  spRows : Nat
  accBase : Nat
  accRows : Nat
  lid : Word
  /-- Some group was force-saved (R398). -/
  forced : Bool
  /-- Granules of the saved image that are empty (R396). -/
  imageEmpty : List Nat
  /-- Saved accumulator rows: row, elements, flags. -/
  imageAcc : List (Nat × List Word × BitVec 5)
  deriving DecidableEq, Repr

/-! ### Memory operations in flight -/

/-- The place of an access in split order (R266): the split (8: the handler) and the number at which it was created, whether
it is a lane access, its issue number, and the reference that orders it against the other stream: the VRUN's number for a
lane access, the last passed VSYNC's for a scalar one. -/
structure Ord where
  split : Nat
  born : Nat
  lane : Bool
  seq : Nat
  ref : Nat
  deriving DecidableEq, Repr

/-- What a store element does (R215). -/
inductive StoreKind where
  | plain
  /-- An atomic: operation, signed, the compare value, and the register that takes the old value. -/
  | atomic (op : Nat) (signed : Bool) (cmp : Nat) (ret : Option Nat)
  /-- A .fe store of an absolute granule (R209). -/
  | fe (granule : Nat)
  deriving DecidableEq, Repr

/-- Where a store element stands (R268 to R270). -/
inductive StoreStage where
  /-- In the group's store queue. -/
  | queued
  /-- Past the core's ordering point, or in the scratchpad port's buffer. -/
  | point
  deriving DecidableEq, Repr

/-- One element of a store or an atomic (R205): its bytes stand at `loc` upward. -/
structure StoreEl where
  id : Nat
  op : Nat
  gid : Nat
  core : Nat
  vd : Nat
  gen : Nat
  loc : Loc
  bytes : List Byte
  kind : StoreKind
  stage : StoreStage
  /-- Release scope (R274). -/
  rel : Option Nat
  acq : Option Nat
  ord : Ord
  /-- Device page of the access, for TLBINV (R378). -/
  page : Nat
  /-- The device virtual address, for the fault record (R473). -/
  va : Nat
  lane : Nat
  deriving DecidableEq, Repr

/-- Where a loaded element goes: a scalar register of a split, a lane register specifier and lane, or nowhere; with the
width in bits and the signedness for narrow loads (R204), and for SAVEG/LOADG blocks the destination kinds of R395. -/
inductive LoadDst where
  | none
  | sreg (split n : Nat)
  | lane (spec lane bits : Nat) (signed : Bool)
  /-- Word w of a LOADG.p block (R395). -/
  | predWord (w : Nat)
  /-- The four words of CTRRD: s registers n to n + 3 of a split (R326). -/
  | sregs4 (split n : Nat)
  deriving DecidableEq, Repr

/-- One element of a load. -/
structure LoadEl where
  loc : Loc
  len : Nat
  dst : LoadDst
  page : Nat
  va : Nat
  lane : Nat
  deriving DecidableEq, Repr

/-- A load in flight. `wanted` are its elements not yet read, each with its index. -/
structure LoadOp where
  op : Nat
  gid : Nat
  core : Nat
  vd : Nat
  gen : Nat
  ord : Ord
  acq : Option Nat
  els : List (Nat × LoadEl)
  /-- A load that comes later in split order has been performed before one of its elements: until they are performed too,
  no store of the core reaches the ordering point (R268). -/
  passed : Bool
  /-- The issue number of a FENCE.st that came after it in split order while it was not performed (R273). -/
  fenced : Option Nat
  deriving DecidableEq, Repr

/-- A counted operation: its counter and how many elements are not complete (R54, R208). -/
structure OpRec where
  op : Nat
  gid : Nat
  wc : Nat
  left : Nat
  /-- The instruction, for a fault found after issue (R473). -/
  insn : Nat
  laneIns : Bool
  spc : Nat
  lpc : Nat
  who : Nat
  /-- The lowest active lane of the issuer, as R442 orders splits. -/
  low : Nat
  deriving DecidableEq, Repr

/-- A waiting .fe or .fec load of one granule (R210, R211), or the .fe store that stands at the head of its queue. -/
structure FeReq where
  id : Nat
  op : Nat
  gid : Nat
  core : Nat
  slot : Nat
  granule : Nat
  /-- It is a .fe store at the head of its group's queue. -/
  store : Bool
  /-- The load empties the granule (.fec). -/
  take : Bool
  since : Nat
  ord : Ord
  /-- Bytes: absolute byte, length, destination. -/
  parts : List (Nat × Nat × LoadDst)
  deriving DecidableEq, Repr

/-- A parked instruction or porter transfer (R370). -/
structure Parked where
  id : Nat
  core : Nat
  slot : Nat
  vd : Nat
  gen : Nat
  gid : Nat
  /-- Issuer: split 0 to 7, 8 the handler, 16 + batch id; or 8 + 2^32 · copy id for a porter transfer. -/
  who : Nat
  copy : Option Nat
  /-- It holds a fault-buffer entry. -/
  entry : Bool
  pages : List Nat
  /-- The host pages it waits for. -/
  hosts : List Nat
  /-- 1 write-block, 2 host page, 3 self-managed V = 0. -/
  why : Nat
  /-- The device virtual address that parked, and the record of an instruction that a host page fails (R372). -/
  va : Nat
  frec : Option FaultRec
  released : Bool
  deriving DecidableEq, Repr

/-! ### Porter -/

/-- A place of a porter address (R218). -/
inductive Place where
  | dev (va : Nat)
  | localSp (off : Nat)
  | peerSp (pan core off : Nat)
  deriving DecidableEq, Repr

/-- Undelivered bytes of one transfer of a copy: their offset among the copy's bytes, source, destination, length, lane
(127 for BCOPY) and the number of the transfer (R228, R234). -/
structure Xfer where
  tr : Nat
  off : Nat
  src : Place
  dst : Place
  len : Nat
  lane : Nat
  deriving DecidableEq, Repr

/-- A copy (R225 to R228, R234). -/
structure Copy where
  id : Nat
  gid : Nat
  core : Nat
  slot : Nat
  vd : Nat
  gen : Nat
  who : Nat
  il4 : Bool
  /-- The core and the entry of the pannier whose share counts the bytes. -/
  panCore : Nat
  pan : Nat
  share : Nat
  len : Nat
  /-- The cycle in which it issued. -/
  issued : Nat
  /-- Past the first wait of step 3 of R227: its pannier was filling. -/
  armed : Bool
  /-- Past step 4 of R227: its bytes are claimed. -/
  claimed : Bool
  /-- Past step 5 of R227. -/
  admitted : Bool
  /-- Core and entry of the panniers whose in-flight reads it has added to. -/
  reading : List (Nat × Nat)
  /-- Source bytes that have been read but not delivered, by their offset (R228). -/
  read : List (Nat × Byte)
  /-- Request entries held for it, from the slot's reserve and from the pool. -/
  reserved : Nat
  pool : Nat
  /-- Transfers that hold entries, by their undelivered intervals. -/
  active : List Xfer
  /-- Portions not yet taken (R234). -/
  portions : List (List Xfer)
  delivered : Nat
  insn : Nat
  laneIns : Bool
  spc : Nat
  lpc : Nat
  /-- Absolute scratchpad base and rows of the issuing team. -/
  spBase : Nat
  spRows : Nat
  team : Option Nat
  ord : Ord
  deriving DecidableEq, Repr

/-- The state of a pannier (R220, R221). -/
inductive PanState where
  | free
  | filling
  | full
  | draining
  deriving DecidableEq, Repr

/-- One share of a pannier (R220). -/
structure Share where
  prod : Nat
  expected : Nat
  claimed : Nat
  delivered : Nat
  deriving DecidableEq, Repr

/-- A pannier-table entry (R220). -/
structure Pannier where
  state : PanState
  vd : Nat
  gen : Nat
  team : Option Nat
  /-- First row in the arming team's allocation, absolute, and rows. -/
  first : Nat
  rows : Nat
  readers : Nat
  shares : List Share
  inflight : Nat
  /-- The cycle in which the last PANREL made it draining (R221, R233). -/
  drainAt : Nat
  deriving DecidableEq, Repr

/-- A seal-table entry (R230). -/
structure Seal where
  vd : Nat
  gen : Nat
  /-- A destination seal. -/
  dest : Bool
  /-- Absolute scratchpad bytes, or device virtual addresses. -/
  spad : Bool
  lo : Nat
  len : Nat
  /-- The pannier (absolute entry) and the core that holds it, and the share. -/
  panCore : Nat
  pan : Nat
  share : Nat
  /-- The cycle in which the copy issued, and its group's slot: they order it among the checks of that cycle (R233). -/
  issued : Nat
  slot : Nat
  deriving DecidableEq, Repr

/-! ### Matrix engine -/

/-- The state of a stationary slot (R238). -/
inductive SlotState where
  | invalid
  | loading
  | ready
  deriving DecidableEq, Repr

/-- Where the A row of a pass stands (R249). -/
inductive ASource where
  /-- Lane fragments: first register, first side register for bx4, and the active lanes. -/
  | frag (va : Nat) (vc : Option Nat) (mask : LaneMask)
  /-- Absolute scratchpad row and absolute byte of the side row. -/
  | spad (row side : Nat)
  deriving DecidableEq, Repr

/-- One row of a pass: its source, its absolute accumulator row and its quarter. -/
structure PassRow where
  src : ASource
  acc : Nat
  quarter : Nat
  deriving DecidableEq, Repr

/-- What an engine instruction does (R244). -/
inductive EngKind where
  /-- MLOADB: slot, source, columns, .bx, .wx address, its targets, and those not yet loaded (R241, R242). -/
  | mloadb (n : Nat) (src : Place) (cols : Nat) (bx : Bool) (wx : Option Nat) (all left : List Nat)
  /-- The point that an MLOADB of another core has in this core's admission order (R242): the load and its slot. -/
  | point (parent n : Nat)
  /-- MMA, MMAB, MMAS: slot, .z, block diagonal, format, rows still to stream, mask of the MMA (R250 to R254). -/
  | pass (n : Nat) (z diag : Bool) (fmt : Word) (rows : List PassRow) (lanes : Option LaneMask)
  | accz (a b : Nat)
  /-- ACCRD: destination specifier, lanes with absolute row and column, flags form (R258). -/
  | accrd (spec : Nat) (reads : List (Nat × Nat × Nat)) (fl : Bool)
  | accwr (writes : List (Nat × Nat × Word))
  /-- ACCST: first absolute row, count, absolute byte, type, rounding, saturate (R260). -/
  | accst (row count dst ty rm : Nat) (sat : Bool)
  deriving DecidableEq, Repr

/-- An engine instruction, waiting for its admission or admitted; the admitted ones stand in admission order. -/
structure EngOp where
  id : Nat
  gid : Nat
  core : Nat
  slot : Nat
  vd : Nat
  gen : Nat
  who : Nat
  kind : EngKind
  /-- The cycle in which its instruction issued (R244). -/
  issued : Nat
  admitted : Bool
  admittedAt : Nat
  /-- First row streaming has started (R246). -/
  streaming : Bool
  /-- Flags raised per quarter (R250). -/
  qflags : List (Nat × BitVec 5)
  /-- It adds to wc3. -/
  counted : Bool
  /-- The pannier that it reads (R254). -/
  pan : Option Nat
  /-- MLOADB: source bytes read so far; ACCST: rows written so far, as (row, 0) (R242, R260). -/
  read : List (Nat × Byte)
  insn : Nat
  laneIns : Bool
  spc : Nat
  lpc : Nat
  lane : Nat
  spBase : Nat
  spRows : Nat
  team : Option Nat
  ord : Ord
  deriving DecidableEq, Repr

/-! ### Marks and census -/

/-- The state of a directory entry (R296). -/
inductive MarkState where
  | held
  | transit
  | arriving
  deriving DecidableEq, Repr

/-- A mark-directory entry (R296, R297). -/
structure Mark where
  ix : Nat
  state : MarkState
  vd : Nat
  gen : Nat
  mark : DWord
  base : DWord
  len : Nat
  resp : Nat
  lid : Word
  launch : Launch
  answered : List Nat
  /-- Scratchpad tile: absolute first row and owning team. -/
  row : Nat
  team : Option Nat
  move : Option Nat
  deriving DecidableEq, Repr

/-- The steps of a move that are still to come (R303). -/
inductive MoveStage where
  | installing
  | acking
  | releasing
  deriving DecidableEq, Repr

/-- A hand-off in progress (R303, R306, R307). -/
structure Move where
  id : Nat
  vd : Nat
  gen : Nat
  gid : Nat
  src : Nat
  dst : Nat
  srcIx : Nat
  entry : Mark
  stage : MoveStage
  /-- The late list of the ack. -/
  late : List Nat
  /-- Solicitations that wait at the sender's transit entry. -/
  waiting : List Nat
  /-- Forwards on the path. -/
  forwards : List Nat
  op : Nat
  deriving DecidableEq, Repr

/-- A solicitation (R304), live from SOLICIT until its census is freed. -/
structure Solicit where
  sid : Nat
  vd : Nat
  gen : Nat
  gid : Nat
  core : Nat
  ix : Nat
  seq : Nat
  op : Nat
  scope : Nat
  mark : DWord
  arg : Word
  /-- Cores that have not resolved it. -/
  arriving : List Nat
  /-- Cores at which it waits on an entry: core, index of the entry, and the obligations so far. -/
  stuck : List (Nat × Nat × Nat)
  reported : Nat
  cores : Nat
  balance : Int
  count : Nat
  value : DWord
  complete : Bool
  /-- CENSUS has named it: the split, the number at which that was created, and the first register. -/
  named : Option (Nat × Nat × Nat)
  /-- Its asker has retired or halted. -/
  orphan : Bool
  deriving DecidableEq, Repr

/-- A message of the census network: a report of a core, or a responder's discharge (R310). -/
structure Report where
  id : Nat
  sid : Nat
  gen : Nat
  vd : Nat
  /-- Obligations reported, or none for a discharge. -/
  report : Option Nat
  value : Option DWord
  /-- A discharge that a responder completed, or one of R501: it counts in N (R306, R310). -/
  counts : Bool
  deriving DecidableEq, Repr

/-- The kind of a spawn bin (R185). -/
inductive BinKind where
  | spawn
  | regroup
  | responder
  deriving DecidableEq, Repr

/-- A contributor of a regroup bin (R189). -/
structure Contrib where
  rank : Nat
  /-- Group slot of the contributor, which orders equal ranks (R175, R190). -/
  slot : Nat
  /-- Active lanes in ascending order: live registers, predicate bits, flags. -/
  lanesIn : List (List Word × BitVec 24 × BitVec 5)
  sregs : List Word
  fmt : Word
  deriving DecidableEq, Repr

/-- A pending responder record (R308). -/
structure RespRec where
  /-- Order in which the records of the device were spawned. -/
  seq : Nat
  sid : Nat
  base : DWord
  len : Nat
  arg : Word
  mark : DWord
  asker : Nat
  entry : Nat
  launch : Launch
  row : Nat
  team : Option Nat
  deriving DecidableEq, Repr

/-- A spawn bin (R185 to R191). -/
structure Bin where
  bix : Nat
  kind : BinKind
  vd : Nat
  gen : Nat
  lid : Word
  code : Nat
  fired : Bool
  /-- Spawn: argument and rank of each lane. -/
  args : List (Word × Nat)
  /-- Local resident cycles counted and the cycle of the last count (R185). -/
  timerAt : Nat
  timer : Nat
  contribs : List Contrib
  declared : Nat
  live : Nat
  arrivals : Nat
  records : List RespRec
  launch : Launch
  tracker : Option Nat
  deriving DecidableEq, Repr

/-- What a regroup key keeps between the firing of its bin for want of room and the opening of the next one (R189). -/
structure Carry where
  vd : Nat
  launch : Launch
  code : Nat
  declared : Nat
  live : Nat
  arrivals : Nat
  deriving DecidableEq, Repr

/-! ### Translation -/

/-- The leaf of a translation (R363, R364). -/
structure Leaf where
  loc : Nat
  frame : Nat
  w : Bool
  x : Bool
  wb : Bool
  ace : Bool
  deriving DecidableEq, Repr

/-- A TLB entry of a self-managed page (R368): page and leaf. Entries of other pages cannot differ from the tables, which
only the reconciler changes, so they are not held (log entry 20). -/
structure TlbEntry where
  vd : Nat
  gen : Nat
  page : Nat
  leaf : Leaf
  deriving DecidableEq, Repr

/-- An entry of the host translation cache (R372). -/
structure HostEntry where
  vd : Nat
  gen : Nat
  lo : Nat
  size : Nat
  r : Bool
  w : Bool
  /-- The device page for which it was asked: its first 64 KiB page and their number (R368). -/
  dev : Nat × Nat
  /-- The host has answered a Page Request in its range: the next miss asks for a translation again (R372). -/
  again : Bool
  deriving DecidableEq, Repr

/-- An ATS Translation Request that the host has not answered, or a PRI Page Request (R372). -/
structure HostReq where
  core : Nat
  vd : Nat
  gen : Nat
  page : Nat
  /-- The device page: its first 64 KiB page and their number. -/
  dev : Nat × Nat
  pri : Bool
  deriving DecidableEq, Repr

/-- An ATS Invalidate Request under way: its range, the host translations that it dropped (device, first address, bytes), and the
number below which its accesses began (R372). -/
structure Inval where
  lo : Nat
  size : Nat
  dropped : List (Nat × Nat × Nat)
  before : Nat
  deriving DecidableEq, Repr

/-! ### Cores -/

/-- The resident device of a region, or of no region, on a core (R389, R390). -/
structure Slice where
  region : Nat
  resident : Option Nat
  /-- The device resident before (R389, R390). -/
  last : Nat
  since : Nat
  /-- Its groups are leaving the core (R391). -/
  leaving : Bool
  /-- Its work on the core has ended while no other device had any: the region has no resident device, though what is left of
  it has not been cleared yet (R390). -/
  idle : Bool
  deriving DecidableEq, Repr

/-- A stride pass value: user 0 or 1 a scalar unit, 2 the lane pipelines; device; value; was ready (R332). -/
structure Stride where
  user : Nat
  vd : Nat
  pass : Nat
  ready : Bool
  deriving DecidableEq, Repr

/-- A division in a scalar unit (R83). -/
structure Division where
  gid : Nat
  split : Nat
  born : Nat
  reg : Nat
  value : Word
  deadline : Nat
  deriving DecidableEq, Repr

/-- The matrix engine's token and pass (R246, R247). -/
structure Engine where
  /-- The device of the token held. -/
  token : Option Nat
  /-- Pass operations being streamed as one pass: their ids, and the cycle of its start. -/
  pass : List Nat
  /-- The first cycle in which the engine port can admit an instruction (R244). -/
  portAt : Nat
  deriving DecidableEq, Repr

/-- A core (R16). -/
structure Core where
  cyc : Nat
  /-- The cycle from which each scalar unit may issue. -/
  units : List Nat
  divs : List (Option Division)
  /-- The slot from which each lane pipeline may issue. -/
  pipes : List Nat
  strides : List Stride
  /-- Empty granules, absolute: row · 24 + granule, rising. -/
  empties : List Nat
  pans : List (Nat × Pannier)
  seals : List Seal
  slots : List (SlotState × Nat)
  /-- Slot states of devices that are saved out (R240). -/
  savedSlots : List (Nat × List (SlotState × Nat))
  engine : Engine
  marks : List Mark
  departures : List (Nat × Nat)
  /-- The directory's last event: its cycle and its place in the order of R315. -/
  dirTurn : Nat × Nat
  /-- The last WAITN of the core: its cycle, its group slot, and the device and number of its register (R434). -/
  waitTurn : Nat × Nat × Nat × Nat
  censusSeq : Nat
  bins : List Bin
  carries : List Carry
  tlb : List TlbEntry
  hosts : List HostEntry
  slices : List Slice
  /-- Accumulator rows that are not zero: absolute row, elements, flags. -/
  accs : List (Nat × List Word × BitVec 5)
  /-- Poisoned elements: structure of R474, row, element. -/
  poison : List (Nat × Nat × Nat)
  deriving DecidableEq, Repr

/-! ### Virtual devices -/

/-- A partition (R385). -/
structure Partition where
  cores : List Nat
  region : Nat
  gfirst : Nat
  gcount : Nat
  rfirst : Nat
  rcount : Nat
  sfirst : Nat
  scount : Nat
  afirst : Nat
  acount : Nat
  slots : List Nat
  pfirst : Nat
  pcount : Nat
  bins : Nat
  marks : Nat
  census : Nat
  chsets : List Nat
  oasis : List Nat
  qcount : Nat
  tokshare : Nat
  eshare : Nat
  deriving DecidableEq, Repr

/-- A converged context (R354, R419, R426). -/
structure Context where
  stallchk : Bool
  prot : Bool
  vismask : Nat
  slice : Nat
  budget : Nat
  bintimer : Nat
  notlog : Nat
  errlog : Nat
  handler : Nat
  jobctr : Nat
  /-- Effective VISMASK and the debug state at creation. -/
  effMask : Nat
  unlocked : Bool
  deriving DecidableEq, Repr

/-- A converged mapping (R355, R364). -/
structure Mapping where
  id : Nat
  va : Nat
  size : Nat
  srca : Nat
  loc : Nat
  w : Bool
  x : Bool
  pg256 : Bool
  ace : Bool
  thresh : Nat
  self : Bool
  pexp : Bool
  pool : Nat
  wid : Nat
  pvd : Nat
  port : Nat
  /-- The frames of its pages (LOC 0), of its pool and of its level-3 tables (SELF): runs of first frame and count. -/
  runs : List (Nat × Nat)
  poolRuns : List (Nat × Nat)
  tableRuns : List (Nat × Nat)
  /-- CNT of the leaves the reconciler wrote: page index and count (R363, R373). -/
  cnt : List (Nat × Nat)
  /-- A system page of the model: program image or view. -/
  system : Bool
  deriving DecidableEq, Repr

/-- A converged queue (R356) with the front end's state (R330). -/
structure Parsed where
  pos : Nat
  /-- 1 task, 2 launch, 3 fence. -/
  kind : Nat
  cancelled : Bool
  launch : Launch
  index : Nat
  arg : DWord
  tile : DWord
  succ : Nat
  entry : Nat
  /-- Fence: counter addresses and targets. -/
  counters : List (Nat × Nat)
  /-- Teams already placed or cancelled. -/
  placed : Nat
  tracker : Option Nat
  deriving DecidableEq, Repr

/-- What has become of a parsed record that was dropped and is parsed again later (R330): its position, the teams placed or
cancelled, its tracker, and whether it has been dispatched, cancelled or passed in full. -/
structure Begun where
  pos : Nat
  placed : Nat
  tracker : Option Nat
  ended : Bool
  deriving DecidableEq, Repr

/-- A queue (R327, R356). -/
structure Queue where
  q : Nat
  base : Nat
  ctrl : Nat
  proxy : Bool
  depot : DWord
  aff : Nat
  prio : Nat
  logsz : Nat
  parsed : List Parsed
  begun : List Begun
  /-- Positions parsed so far, modulo 2^32. -/
  head : Word
  /-- Courier: positions taken from the post, and when the oldest unsent record arrived. -/
  taken : Word
  deriving DecidableEq, Repr

/-- The leaf line of a 4 KiB block (R409): block, MAJOR, the minor counters and the WRITTEN bits. -/
structure LeafLine where
  block : Nat
  major : Nat
  minors : List Nat
  written : BitVec 32
  deriving DecidableEq, Repr

/-- A window (R413 to R417). -/
structure Window where
  uid : Nat
  vd : Nat
  id : Nat
  exchange : Bool
  size : Nat
  /-- Its frames in the owner's HBM space: runs of first frame and count. -/
  runs : List (Nat × Nat)
  members : Nat
  root : BitVec 64
  key : Option (BitVec 256)
  /-- Devices that have joined, with the ID of each one's window record (R414). -/
  joiners : List (Nat × Nat)
  /-- The counters of an exchange window's tree (R417), as a device's (R409, R410). -/
  leaves : List LeafLine
  inner : List (Nat × Nat × Nat)
  /-- Its lines that fail, as a device's: line number, code, level or channel; and the level of a node of its tree that fails, with
  which every access fails (R481). -/
  bad : List (Nat × Nat × Nat)
  broken : Option Nat
  deriving DecidableEq, Repr

/-- A staged store to a window line (R279): the window byte, its value, the writing device and group (or hart + 2^32). -/
structure Staged where
  uid : Nat
  off : Nat
  byte : Byte
  vd : Nat
  writer : Nat
  deriving DecidableEq, Repr

/-- A notify register (R432). -/
structure Notify where
  n : Nat
  value : Word
  full : Bool
  ovr : Bool
  deriving DecidableEq, Repr

/-- A waiter of a notify register (R434). -/
structure Waiter where
  n : Nat
  gid : Nat
  split : Nat
  reg : Nat
  ord : Ord
  deriving DecidableEq, Repr

/-- The TDI state of a virtual function (R435). -/
inductive Tdi where
  | unlocked
  | locked
  | run
  | error
  deriving DecidableEq, Repr

/-- A reset of a device under way (R486, R487). -/
structure Resetting where
  cause : Nat
  oldGen : Nat
  /-- Cores on which a save was under way, with the groups and whether it was forced (R492). -/
  saves : List (Nat × Nat × Bool)
  groups : Nat
  held : Bool
  deletePart : Bool
  /-- Its records are deleted and its new key is drawn (R487, steps 5 and 6). -/
  cleared : Bool
  deriving DecidableEq, Repr

/-- A virtual device (R25, R383). -/
structure VDev where
  gen : Nat
  /-- Its partition has converged since the last cold reset: from then on each reset counts (R383). -/
  counted : Bool
  part : Option Partition
  ctx : Option Context
  fenced : Bool
  /-- Number of the draw of its memory key (R405). -/
  key : Option Nat
  maps : List Mapping
  queues : List Queue
  /-- Free frames of its HBM space: first frame and count, rising. -/
  frames : List (Nat × Nat)
  /-- The frames of its page tables: level, number of the table (its first address without the bits it indexes), frame (R362). -/
  tables : List (Nat × Nat × Nat)
  /-- The frames of its notification queue (R374). -/
  sysRuns : List (Nat × Nat)
  notify : List Notify
  waiters : List Waiter
  /-- Error ring size in entries; 0 before it exists (R448). -/
  ringSize : Nat
  /-- DVSEC status, FCOUNT, HDRLOG (R452). -/
  status : BitVec 32
  fcount : Word
  hdrlog : BitVec 128
  /-- Inspection selection register (R450). -/
  insp : BitVec 64
  tdi : Tdi
  resetting : Option Resetting
  leaves : List LeafLine
  /-- Inner-node counters: level, node, value (R410). -/
  inner : List (Nat × Nat × Nat)
  /-- Lines that fail: line address, code 0x17 or 0x19, level or channel (R481, R483). -/
  bad : List (Nat × Nat × Nat)
  /-- Average power above the energy share (R403), as the estimators report it. -/
  power : Nat
  deriving DecidableEq, Repr

/-! ### Reconciler -/

/-- The state of an actual-state entry (R344). -/
inductive EntState where
  | absent
  | pending
  | converged
  | conflict
  deriving DecidableEq, Repr

/-- A slot of an area as the reconciler sees it (R340, R343). -/
structure RSlot where
  dom : Nat
  ix : Nat
  dirty : Bool
  state : EntState
  reason : Nat
  convVer : Word
  seenVer : Word
  kind : Nat
  tvd : Nat
  id : Nat
  /-- The converged record and the stable copy that is pending: 256 bytes each. -/
  conv : Option (List Byte)
  want : Option (List Byte)
  deleting : Bool
  /-- Its record claims its triple (R341). -/
  claims : Bool
  /-- A step of its record that takes more than one event has begun: nothing else of the device is stepped meanwhile (R350). -/
  running : Bool
  deriving DecidableEq, Repr

/-- A resident program (R357 to R360). -/
structure Program where
  vd : Nat
  id : Nat
  /-- The manifest copy from which it was created (R358). -/
  record : List Byte
  launch : Launch
  /-- The frames of the image: runs of first frame and count. -/
  runs : List (Nat × Nat)
  aff : Nat
  placed : Nat
  tracker : Nat
  deriving DecidableEq, Repr

/-- A launch whose completion adds 1 to a SUCC word (R324), or a resident program. -/
structure Tracker where
  tid : Nat
  vd : Nat
  gen : Nat
  lid : Word
  lctr : Nat
  succ : Nat
  /-- Every group has been placed or cancelled. -/
  allPlaced : Bool
  live : Nat
  program : Option Nat
  deriving DecidableEq, Repr

/-- A QPUSH after its reservation, or a depot batch of the courier (R328, R329). -/
structure Push where
  id : Nat
  vd : Nat
  gen : Nat
  gid : Nat
  op : Nat
  /-- Queue of the destination; for a courier batch the post's device and queue too. -/
  q : Nat
  base : Nat
  ctrl : Nat
  size : Nat
  first : Word
  count : Nat
  src : Option Place
  spBase : Nat
  records : List Byte
  post : Option Nat
  /-- A batch to a scratchpad depot that has claimed its bytes: core, pannier entry, share and first byte (R229). -/
  spad : Option (Nat × Nat × Nat × Nat)
  /-- 0: nothing done; 1: positions reserved; 2: records copied. -/
  stage : Nat
  split : Nat
  reg : Nat
  ord : Ord
  deriving DecidableEq, Repr

/-- A message to the host, a hart, a peer or an SPDM requester: the answer of the latest event.
Beyond the rule's words: DESIGN CHOICE, log entry 3. -/
inductive Reply where
  | none
  | data (bytes : List Byte)
  | refused
  | accessFault
  | wait
  deriving DecidableEq, Repr

/-- A peer-link port (R437). -/
structure Port where
  up : Bool
  retries : Nat
  seq : Nat
  deriving DecidableEq, Repr

/-- An oasis hart's control entry (R431) and timer compare (R430). -/
structure Hart where
  entry : DWord
  arg : DWord
  /-- 0 parked, 1 running, 2 stopped by reset. -/
  state : Nat
  mtimecmp : DWord
  /-- Its pc, x1 to x31, privilege (0 U, 1 S, 3 M) and satp (R429, R431). -/
  pc : DWord
  regs : List DWord
  priv : Nat
  satp : DWord
  deriving DecidableEq, Repr

/-- A hart whose architectural state is clear (R431). -/
def Hart.reset : Hart where
  entry := 0
  arg := 0
  state := 0
  mtimecmp := 0
  pc := 0
  regs := List.replicate 31 0
  priv := 3
  satp := 0

/-- A fence that a failing line has asked for: the device, the failure's code, the core or 0xFF, and the failure's DETAIL (R454,
R481). -/
structure FenceReq where
  vd : Nat
  code : Nat
  core : Nat
  detail : Nat
  deriving DecidableEq, Repr

/-- The parts of the hub die and the package. -/
structure Hub where
  boot : Nat
  /-- Fences asked for, oldest first (R481). -/
  fences : List FenceReq
  vfEnable : Bool
  layoutGen : Word
  colds : Nat
  draws : Nat
  limit : Nat
  /-- Tokens taken off the pool by temperature (R438). -/
  lowered : Nat
  /-- Engines that ask for a token, in request order: core and device (R246). -/
  tokenReqs : List (Nat × Nat)
  duState : Nat
  duNonce : Nat
  token : List Byte
  ports : List Port
  harts : List Hart
  mtime : DWord
  slots : List RSlot
  aseq : List (Nat × Word)
  /-- The slots still to be read in the reconciler's pass: domain and index (R341). -/
  pass : List (Nat × Nat)
  programs : List Program
  windows : List Window
  staged : List Staged
  /-- Round-robin position per priority: device and queue picked last (R331). -/
  turns : List (Nat × Nat × Nat)
  /-- Queues that a record fault has stopped: device, queue, and the key of the record's 64 bytes (R497). -/
  stops : List (Nat × Nat × Nat)
  sessions : List (Nat × Nat)
  /-- ATS Invalidate Requests that have not completed toward the host (R372). -/
  invals : List Inval
  deriving DecidableEq, Repr

/-! ### What moves next -/

/-- Who issues the instruction that `exec` is given. -/
inductive Issuer where
  /-- Split 0 to 7 of a group, 8 the handler split. -/
  | split (gid sp : Nat)
  | batch (gid bid : Nat)
  deriving DecidableEq, Repr

/-- One thing that happens (the agenda is the model's own input: which agent moves next). -/
inductive Act where
  /-- A scalar unit has an issue opportunity (R193). -/
  | unit (core u : Nat)
  /-- A lane pipeline issues the next instruction of its batch (R177). -/
  | pipe (core p : Nat)
  /-- A step of the device. -/
  | event (i : Instr)
  /-- Local cycles pass with nothing else. -/
  | tick (core n : Nat)
  /-- A part of a copy, an MLOADB or an ACCST that the porter or the engine does before the rest: source bytes read
  (R228, R242), or a row stored (R260). -/
  | agentPart (id off len : Nat)
  /-- The host writes its own memory. -/
  | hostWrite (addr : Nat) (data : List Byte)
  deriving DecidableEq, Repr

/-- The state of the machine. -/
structure State where
  mem : Memory
  cores : List (Nat × Core)
  groups : List Group
  teams : List Team
  stores : List StoreEl
  loads : List LoadOp
  ops : List OpRec
  feqs : List FeReq
  parks : List Parked
  copies : List Copy
  engops : List EngOp
  moves : List Move
  solicits : List Solicit
  reports : List Report
  pushes : List Push
  trackers : List Tracker
  hostReqs : List HostReq
  vds : List (Nat × VDev)
  hub : Hub
  reply : Reply
  /-- The model's own: what moves next, who issues, whether the issue was held, and the counters of free values and of
  fresh numbers. -/
  agenda : List Act
  cur : Option Issuer
  held : Bool
  free : Nat
  fresh : Nat
  deriving DecidableEq, Repr

/-! ### Reset -/

/-- A core after a cold reset (R388: every resource free and zero). -/
def Core.reset : Core where
  cyc := 0
  units := [0, 0]
  divs := [none, none]
  pipes := [0, 0, 0, 0]
  strides := []
  empties := []
  pans := []
  seals := []
  slots := [(.invalid, 0), (.invalid, 0), (.invalid, 0), (.invalid, 0)]
  savedSlots := []
  engine := { token := none, pass := [], portAt := 0 }
  marks := []
  departures := []
  dirTurn := (0, 0)
  waitTurn := (0, 0, 0, 0)
  censusSeq := 0
  bins := []
  carries := []
  tlb := []
  hosts := []
  slices := []
  accs := []
  poison := []

/-- A virtual device after a cold reset. -/
def VDev.reset : VDev where
  gen := 0
  part := none
  ctx := none
  fenced := false
  key := none
  maps := []
  queues := []
  frames := []
  tables := []
  sysRuns := []
  notify := []
  waiters := []
  ringSize := 0
  status := 0
  fcount := 0
  hdrlog := 0
  insp := 0
  counted := false
  tdi := .unlocked
  resetting := none
  leaves := []
  inner := []
  bad := []
  power := 0

/-- The hub after a cold reset (R401, R422, R425, R439). -/
def Hub.reset : Hub where
  boot := 0
  fences := []
  vfEnable := false
  layoutGen := 0
  colds := 0
  draws := 1
  limit := 2600
  lowered := 0
  tokenReqs := []
  duState := 0
  duNonce := 0
  token := []
  ports := List.replicate 16 { up := false, retries := 0, seq := 0 }
  harts := List.replicate 16 Hart.reset
  mtime := 0
  slots := []
  aseq := []
  pass := []
  programs := []
  windows := []
  staged := []
  turns := []
  stops := []
  sessions := []
  invals := []

/-- The machine right after a cold reset: no group, no record, bring-up at stage 0 (R439); the physical function's ring
of 4,096 entries exists (R448). Beyond the rule's words: DESIGN CHOICE, log entry 6. -/
def State.reset : State where
  mem := []
  cores := []
  groups := []
  teams := []
  stores := []
  loads := []
  ops := []
  feqs := []
  parks := []
  copies := []
  engops := []
  moves := []
  solicits := []
  reports := []
  pushes := []
  trackers := []
  hostReqs := []
  vds := [(0, { VDev.reset with ringSize := 4096, key := some 0 })]
  hub := Hub.reset
  reply := .none
  agenda := []
  cur := none
  held := false
  free := 0
  fresh := 0

end Sys2Proof.Machine
end

