-- ==== Sys2Proof/Machine/Ops.lean ====
section
/-! DEFINITION. The named operations over memory, registers and the parts of the state, and the machine's exception: taking
a group fault (R440, R442), the trap into a pre-emption handler and the return from it (R391, R393, R396). -/

namespace Sys2Proof.Machine

/-- What a step answers. -/
abbrev Out := Host.Outcome State Fault Refusal

/-! ### Lists keyed by a number -/

/-- The value at a key, or a default. -/
def keyGet {α : Type} (dflt : α) : List (Nat × α) → Nat → α
  | [], _ => dflt
  | (k, v) :: l, a => if k = a then v else keyGet dflt l a

/-- The value at a key set, the keys kept rising. -/
def keySet {α : Type} : List (Nat × α) → Nat → α → List (Nat × α)
  | [], a, x => [(a, x)]
  | (k, v) :: l, a, x =>
    if a < k then (a, x) :: (k, v) :: l else if a = k then (a, x) :: l else (k, v) :: keySet l a x

/-- The element at a place of a list replaced; unchanged beyond its end. -/
def listSet {α : Type} : List α → Nat → α → List α
  | [], _, _ => []
  | _ :: l, 0, x => x :: l
  | y :: l, n + 1, x => y :: listSet l n x

/-- The element at a place of a register list replaced; places that the list lacks read as the default, and are filled with
it where the place lies beyond the end. -/
def padSet {α : Type} (dflt : α) : List α → Nat → α → List α
  | [], 0, x => [x]
  | [], n + 1, x => dflt :: padSet dflt [] n x
  | _ :: l, 0, x => x :: l
  | y :: l, n + 1, x => y :: padSet dflt l n x

/-- The first `n` elements of a list, filled with the default where it is shorter. -/
def fit {α : Type} (dflt : α) : Nat → List α → List α
  | 0, _ => []
  | n + 1, [] => dflt :: fit dflt n []
  | n + 1, x :: l => x :: fit dflt n l

/-- A rising list of numbers with one more member. -/
def insertNat (a : Nat) : List Nat → List Nat
  | [] => [a]
  | b :: l => if a < b then a :: b :: l else if a = b then b :: l else b :: insertNat a l

/-- The numbers 0 to n − 1, rising (structural, so that the kernel evaluates it). -/
def upto (n : Nat) : List Nat := List.range n

/-- Replace, in a list, every element that the test names. -/
def replaceBy {α : Type} (p : α → Bool) (x : α) (l : List α) : List α := l.map fun y => if p y then x else y

/-! ### Memory -/

/-- The byte at an address. Beyond the rule's words: DESIGN CHOICE, log entry 4. -/
def Memory.read : Memory → Nat → Byte
  | [], _ => unlistedByte
  | (k, v) :: m, a => if a < k then unlistedByte else if a = k then v else Memory.read m a

/-- A byte written; the canonical form is kept. -/
def Memory.write : Memory → Nat → Byte → Memory
  | [], a, x => if x = unlistedByte then [] else [(a, x)]
  | (k, v) :: m, a, x =>
    if a < k then (if x = unlistedByte then (k, v) :: m else (a, x) :: (k, v) :: m)
    else if a = k then (if x = unlistedByte then m else (a, x) :: m)
    else (k, v) :: Memory.write m a x

/-- The address of a place in the one memory of the model: a number for the kind of place, its two sub-numbers and the
byte. -/
def Loc.key : Loc → Nat
  | .host a => a
  | .hbm vd a => (1 * 2 ^ 48 + vd) * 2 ^ 64 + a
  | .peer port pvd a => (2 * 2 ^ 48 + port * 2 ^ 24 + pvd) * 2 ^ 64 + a
  | .win uid off => (3 * 2 ^ 48 + uid) * 2 ^ 64 + off
  | .spad core a => (4 * 2 ^ 48 + core) * 2 ^ 64 + a
  | .slot core n a => (5 * 2 ^ 48 + core * 2 ^ 24 + n) * 2 ^ 64 + a
  | .sys vd a => (6 * 2 ^ 48 + vd) * 2 ^ 64 + a
  | .area dom a => (7 * 2 ^ 48 + dom) * 2 ^ 64 + a
  | .image team a => (8 * 2 ^ 48 + team) * 2 ^ 64 + a
  | .slotImage core vd n a => (9 * 2 ^ 48 + core * 2 ^ 24 + vd * 4 + n) * 2 ^ 64 + a

/-- The place `n` bytes further on. -/
def Loc.plus (l : Loc) (n : Nat) : Loc :=
  match l with
  | .host a => .host (a + n)
  | .hbm vd a => .hbm vd (a + n)
  | .peer port pvd a => .peer port pvd (a + n)
  | .win uid off => .win uid (off + n)
  | .spad core a => .spad core (a + n)
  | .slot core k a => .slot core k (a + n)
  | .sys vd a => .sys vd (a + n)
  | .area dom a => .area dom (a + n)
  | .image team a => .image team (a + n)
  | .slotImage core vd k a => .slotImage core vd k (a + n)

/-- `n` bytes from a key up. -/
def Memory.readBytes (m : Memory) : Nat → Nat → List Byte
  | _, 0 => []
  | a, n + 1 => m.read a :: m.readBytes (a + 1) n

/-- Bytes written from a key up. -/
def Memory.writeBytes (m : Memory) : Nat → List Byte → Memory
  | _, [] => m
  | a, b :: l => Memory.writeBytes (m.write a b) (a + 1) l

/-- A little-endian byte string as a number (R4). -/
def leNat : List Byte → Nat
  | [] => 0
  | b :: l => b.toNat + 256 * leNat l

/-- A number as `n` bytes, least significant first (R4). -/
def natLe : Nat → Nat → List Byte
  | 0, _ => []
  | n + 1, x => BitVec.ofNat 8 x :: natLe n (x / 256)

/-- `n` bytes at a place. -/
def State.bytesAt (s : State) (l : Loc) (n : Nat) : List Byte := s.mem.readBytes l.key n
/-- The number that `n` bytes at a place hold. -/
def State.natAt (s : State) (l : Loc) (n : Nat) : Nat := leNat (s.bytesAt l n)
/-- Bytes written at a place. -/
def State.putBytes (s : State) (l : Loc) (bs : List Byte) : State := { s with mem := s.mem.writeBytes l.key bs }
/-- Zeros written at a place: `n` bytes. -/
def State.clearBytes (s : State) (l : Loc) (n : Nat) : State :=
  { s with mem := s.mem.filter fun c => c.1 < l.key || l.key + n ≤ c.1 }
/-- `n` bytes moved from one place to another; the destination held zeros. -/
def State.copyBytes (s : State) (src dst : Loc) (n : Nat) : State :=
  (s.mem.filter fun c => src.key ≤ c.1 && c.1 < src.key + n).foldl
    (fun st c => { st with mem := st.mem.write (dst.key + (c.1 - src.key)) c.2 }) (s.clearBytes dst n)

/-! ### Parts of the state -/

/-- The group with a number. -/
def State.group? (s : State) (gid : Nat) : Option Group := s.groups.find? fun g => g.gid == gid
/-- A group put back in place of the one with its number. -/
def State.setGroup (s : State) (g : Group) : State := { s with groups := replaceBy (fun h => h.gid == g.gid) g s.groups }
/-- A group changed. -/
def State.modGroup (s : State) (gid : Nat) (f : Group → Group) : State :=
  { s with groups := s.groups.map fun g => if g.gid == gid then f g else g }
/-- A core. -/
def State.core (s : State) (c : Nat) : Core := keyGet Core.reset s.cores c
/-- A core put back. -/
def State.setCore (s : State) (c : Nat) (k : Core) : State := { s with cores := keySet s.cores c k }
/-- A core changed. -/
def State.modCore (s : State) (c : Nat) (f : Core → Core) : State := s.setCore c (f (s.core c))
/-- A virtual device. -/
def State.vd (s : State) (v : Nat) : VDev := keyGet VDev.reset s.vds v
/-- A virtual device put back. -/
def State.setVd (s : State) (v : Nat) (d : VDev) : State := { s with vds := keySet s.vds v d }
/-- A virtual device changed. -/
def State.modVd (s : State) (v : Nat) (f : VDev → VDev) : State := s.setVd v (f (s.vd v))
/-- The hub changed. -/
def State.modHub (s : State) (f : Hub → Hub) : State := { s with hub := f s.hub }
/-- A fresh number. -/
def State.takeFresh (s : State) : Nat × State := (s.fresh, { s with fresh := s.fresh + 1 })
/-- A free choice of the outside world or of an order that the spec leaves open. -/
def State.takeBit (s : State) : Bool × State := (Config.freeBit s.free, { s with free := s.free + 1 })
/-- A free number. -/
def State.takeNat (s : State) : Nat × State := (Config.freeNat s.free, { s with free := s.free + 1 })
/-- A free word. -/
def State.takeWord (s : State) : Word × State := (Config.freeWord s.free, { s with free := s.free + 1 })

/-- Is a device resident on a core: always outside time-sliced regions, in its slice otherwise (R389, R390). -/
def residentOn (s : State) (core vd : Nat) : Bool :=
  match (s.vd vd).part with
  | none => false
  | some p => p.cores.contains core &&
      (p.region == 0 || (s.core core).slices.any fun k => k.region == p.region && k.resident == some vd)

/-- The team with a number. -/
def State.team? (s : State) (tid : Nat) : Option Team := s.teams.find? fun t => t.tid == tid
/-- The groups of a team, by ascending rank in the team. -/
def State.teamGroups (s : State) (tid : Nat) : List Group := s.groups.filter fun g => g.team == some tid

/-- A split of a group: 0 to 7 of the table, 8 the handler split (R393). -/
def Group.split? (g : Group) (ix : Nat) : Option Split := if ix = 8 then g.handler.map (·.sp) else g.splits[ix]?
/-- A split put back. -/
def Group.setSplit (g : Group) (ix : Nat) (sp : Split) : Group :=
  if ix = 8 then { g with handler := g.handler.map fun h => { h with sp := sp } }
  else { g with splits := listSet g.splits ix sp }
/-- A split changed. -/
def Group.modSplit (g : Group) (ix : Nat) (f : Split → Split) : Group :=
  match g.split? ix with
  | none => g
  | some sp => g.setSplit ix (f sp)
/-- The numbers of the live splits of the table (R182). -/
def Group.liveSplits (g : Group) : List Nat :=
  (upto 8).filter fun i => ((g.splits[i]?).map (·.state)).getD .free ≠ .free
/-- The batch with a number. -/
def Group.batch? (g : Group) (bid : Nat) : Option Batch := g.batches.find? fun b => b.bid == bid
/-- A batch put back. -/
def Group.setBatch (g : Group) (b : Batch) : Group := { g with batches := replaceBy (fun c => c.bid == b.bid) b g.batches }

/-- A wait counter (R54). -/
def Group.wcGet (g : Group) (n : Nat) : Nat := g.wc.getD n 0
/-- Do the group's splits and batches stand still: it has left its core, is leaving it, or its handler runs (R391, R393). -/
def Group.frozen (g : Group) : Bool := g.handler.isSome || !(g.status == .running || g.status == .faulting)
/-- One more counted operation. -/
def Group.wcInc (g : Group) (n : Nat) : Group := { g with wc := padSet 0 g.wc n (g.wcGet n + 1) }
/-- One counted operation has completed. -/
def Group.wcDec (g : Group) (n : Nat) : Group := { g with wc := padSet 0 g.wc n (g.wcGet n - 1) }

/-! ### Lane masks and scalar registers -/

/-- Bit L of a lane mask. -/
def laneBit (m : LaneMask) (l : Nat) : Bool := m.getLsbD l
/-- The active lanes of a mask, ascending. -/
def maskLanes (m : LaneMask) : List Nat := (upto 96).filter fun l => m.getLsbD l
/-- The mask of the lanes that a test accepts. -/
def maskOf (p : Nat → Bool) : LaneMask :=
  BitVec.ofNat 96 ((upto 96).foldr (fun l n => 2 * n + (if p l then 1 else 0)) 0)
/-- The lowest lane of a mask; 96 when it is zero (R442). -/
def lowestLane (m : LaneMask) : Nat := ((upto 96).find? fun l => m.getLsbD l).getD 96
/-- The number of lanes of a mask. -/
def maskCount (m : LaneMask) : Nat := (maskLanes m).length
/-- Three words as a mask, the lowest lanes first (R42). -/
def maskOf3 (a b c : Word) : LaneMask := BitVec.ofNat 96 (a.toNat + 2 ^ 32 * b.toNat + 2 ^ 64 * c.toNat)
/-- Word `i` of a mask. -/
def maskWord (m : LaneMask) (i : Nat) : Word := BitVec.ofNat 32 (m.toNat / 2 ^ (32 * i))

/-- A private register of a split, s48 to s63 (R42). -/
def Split.priv? (sp : Split) (n : Nat) : Word := sp.priv.getD (n - 48) 0
/-- The activity mask of a split (R42). -/
def Split.mask (sp : Split) : LaneMask := maskOf3 (sp.priv.getD 12 0) (sp.priv.getD 13 0) (sp.priv.getD 14 0)
/-- A split with another activity mask. -/
def Split.setMask (sp : Split) (m : LaneMask) : Split :=
  { sp with priv := padSet 0 (padSet 0 (padSet 0 sp.priv 12 (maskWord m 0)) 13 (maskWord m 1)) 14 (maskWord m 2) }

/-- A scalar register of a split, as it stands: field values 0 to 63 name s0 to s63, 64 to 127 k0 to k63 (R60, R79). -/
def Group.sval (g : Group) (ix f : Nat) : Word :=
  if 64 ≤ f then g.launch.consts.getD (f - 64) 0
  else if f < 48 then g.sregs.getD f 0
  else match g.split? ix with
    | some sp => sp.priv.getD (f - 48) 0
    | none => 0

/-- s`n` of a split set (R42). -/
def Group.sset (g : Group) (ix n : Nat) (x : Word) : Group :=
  if n < 48 then { g with sregs := padSet 0 g.sregs n x }
  else g.modSplit ix fun sp => { sp with priv := padSet 0 sp.priv (n - 48) x }

/-- A lane register, v or o, as it stands in its 96 lanes; the specifier is one of R64. -/
def Group.vval (g : Group) (spec : Nat) : List Word :=
  fit 0 96 (if spec < 0x100 then g.vregs.getD spec [] else g.oregs.getD (spec - 0x100) [])

/-- A lane register set in all lanes. -/
def Group.vset (g : Group) (spec : Nat) (x : List Word) : Group :=
  if spec < 0x100 then { g with vregs := padSet [] g.vregs spec x } else { g with oregs := padSet [] g.oregs (spec - 0x100) x }

/-- The register that a late result (a division, a load, a notify value, a census) names, set: a private register only while the
split that named it holds its entry. Beyond the rule's words: DEDUCED, log entry 56. -/
def Group.ssetLate (g : Group) (ix born n : Nat) (x : Word) : Group :=
  if n < 48 ∨ (g.split? ix).map (·.born) = some born then g.sset ix n x else g

/-- One lane of a lane register set. -/
def Group.vsetLane (g : Group) (spec lane : Nat) (x : Word) : Group := g.vset spec (padSet 0 (g.vval spec) lane x)

/-! ### Results of fixed latency (R44, R70, R71, R73, R97)

A result stands in its register as soon as its instruction has issued; beside it `pend` keeps the value from before, until no
reader can find that value any more. The entries of one register stand in the order in which their writes take effect. -/

/-- The results of a register that are kept, the earliest first: those of register `r` for split `ix` (a register below s48,
and every lane register, is the group's). -/
def pendHits (g : Group) (ix : Nat) (r : PReg) : List Pend :=
  g.pend.filter fun p => p.reg == r &&
    (match r with
     | .s n => n < 48 || p.split == ix
     | _ => true)

/-- How a reader finds a result: it sees it, it does not, or the spec lets either happen (R73, R97). -/
inductive Seen where
  | yes
  | no
  | free
  deriving DecidableEq, Repr

/-- How a scalar instruction of split `ix` that issues in cycle `t` finds a result: one of its own split from its ready cycle
on, and either way before (R70, R73); one of another split from the cycle after it is written (R44).
Beyond the rule's words: DEDUCED, log entry 14. -/
def Pend.seenBy (p : Pend) (ix t : Nat) : Seen :=
  if p.split = ix then (if p.ready ≤ t then .yes else .free) else if p.ready < t then .yes else .no

/-- One element as a reader finds it: `v` stands there, and the results of the register follow, the latest first, each with
the value from before it. -/
def readCell (s : State) (v : Word) : List (Seen × Word) → Word × State
  | [] => (v, s)
  | (.yes, _) :: _ => (v, s)
  | (.no, old) :: l => readCell s old l
  | (.free, old) :: l => let (b, s1) := s.takeBit; if b then readCell s1 old l else (v, s1)

/-- The elements of a register from lane `k` up as a reader finds them; a result counts in the lanes that it writes. -/
def readCells (s : State) (seen : Pend → Seen) (hits : List Pend) : Nat → List Word → List Word × State
  | _, [] => ([], s)
  | k, v :: vs =>
    let (y, s1) := readCell s v ((hits.filter fun p => laneBit p.mask k).map fun p => (seen p, p.old.getD k 0))
    let (ys, s2) := readCells s1 seen hits (k + 1) vs
    (y :: ys, s2)

/-- A register as a reader finds it, `now` as it stands: every element holds a value from before a result or one that a result
gave it (R73). -/
def readReg (s : State) (g : Group) (ix : Nat) (seen : Pend → Seen) (r : PReg) (now : List Word) : List Word × State :=
  let hits := pendHits g ix r
  if hits.all fun p => seen p == .yes then (now, s) else readCells s seen hits.reverse 0 now

/-- The latest of the results of a register, the latest first, that a read of the lanes `m` meets too early: one that `checked`
accepts and that the reader does not surely see, in a lane in which no later result hides it (R464).
Beyond the rule's words: DEDUCED, log entry 57. -/
def shortOf (seen : Pend → Seen) (checked : Pend → Bool) : LaneMask → List Pend → Option Pend
  | _, [] => none
  | m, p :: l =>
    if m &&& p.mask = 0 then shortOf seen checked m l
    else match seen p with
      | .yes => shortOf seen checked (m &&& ~~~p.mask) l
      | .free => if checked p then some p else shortOf seen checked m l
      | .no => shortOf seen checked m l

/-- Does every reader from cycle `t` on see a result: it is written before the slot of the cycle, and no batch is left whose VRUN
is older than its scalar producer (R44, R97). -/
def Pend.settled (p : Pend) (g : Group) (t : Nat) : Bool :=
  decide (p.ready < 3 * (t / 3)) && !(p.scalar && g.batches.any fun b => b.split == p.split && decide (b.seq < p.seq))

/-- Results that every reader sees are forgotten, unless they hide an earlier one of their register that is kept. -/
def forget (done : Pend → Bool) : List PReg → List Pend → List Pend
  | _, [] => []
  | kept, p :: l => if done p && !kept.contains p.reg then forget done kept l else p :: forget done (p.reg :: kept) l

/-- The results that some reader at or after cycle `t` may not see. -/
def prunePend (g : Group) (t : Nat) : Group := { g with pend := forget (·.settled g t) [] g.pend }

/-- In the lanes of a mask the new values, elsewhere the old ones, from lane `n` up. -/
def blend (m : LaneMask) : Nat → List Word → List Word → List Word
  | n, o :: os, w :: ws => (if laneBit m n then w else o) :: blend m (n + 1) os ws
  | _, os, [] => os
  | _, [], _ => []

/-- Does result `q` stay over result `p` although its entry stands already: another split's of the same register, issued in a
later cycle, or in the same one by the higher split (R44). -/
def Pend.stays (q p : Pend) : Bool :=
  q.split != p.split && (decide (p.issued < q.issued) || (q.issued == p.issued && decide (p.split < q.split))) &&
  (match q.reg with
   | .s n => decide (n < 48)
   | _ => true)

/-- A result `p` with values `w` takes its place under the results that stay over it: in the lanes `m`, which none of them has
taken yet, `under` is the value from before it; the first of them to write a lane has `w` before it there. What is left of the
lanes, what stands before `p`, and the entries. -/
def slip (p : Pend) (w : List Word) : LaneMask → List Word → List Pend → LaneMask × List Word × List Pend
  | m, under, [] => (m, under, [])
  | m, under, q :: l =>
    if q.reg == p.reg && q.stays p then
      let hit := m &&& q.mask
      let r := slip p w (m &&& ~~~hit) (blend hit 0 under q.old) l
      (r.1, r.2.1, { q with old := blend hit 0 q.old w } :: r.2.2)
    else
      let r := slip p w m under l
      (r.1, r.2.1, q :: r.2.2)

/-- A result's entry put before the first one that stays over it. -/
def slipIn (p : Pend) : List Pend → List Pend
  | [] => [p]
  | q :: l => if q.reg == p.reg && q.stays p then p :: q :: l else q :: slipIn p l

/-- A result takes effect in the register that holds `now` and that `set` sets: in the lanes of its mask, in issue order, the
higher split's last within a cycle (R44). -/
def Group.putResult (g : Group) (p : Pend) (now w : List Word) (set : List Word → Group → Group) : Group :=
  if g.pend.any fun q => q.reg == p.reg && q.stays p then
    let r := slip p w p.mask now g.pend
    { set (blend r.1 0 now w) g with pend := slipIn { p with old := r.2.1 } r.2.2 }
  else { set (blend p.mask 0 now w) g with pend := g.pend ++ [{ p with old := now }] }

/-- All lanes. -/
def fullMask : LaneMask := ~~~(0 : LaneMask)

/-- The lanes of a mask as words 0 and 1. -/
def maskList (m : LaneMask) : List Word := (upto 96).map fun n => if laneBit m n then 1 else 0
/-- The mask whose lanes hold a word other than 0. -/
def listMask (l : List Word) : LaneMask := maskOf fun n => l.getD n 0 != 0

/-- A predicate as a reader finds it (R73, R97). -/
def readPred (s : State) (g : Group) (n : Nat) (seen : Pend → Seen) : LaneMask × State :=
  let m := g.preds.getD n 0
  if (pendHits g 0 (.p n)).all fun p => seen p == .yes then (m, s)
  else let (l, s1) := readReg s g 0 seen (.p n) (maskList m); (listMask l, s1)

/-! ### Taking a fault (R440, R442) -/

/-- The lowest active lane of the issuer, as R442 orders splits: the mask the batch captured, or the split's; 96 when
zero, 97 for the handler split. -/
def issuerLow (g : Group) (ix : Nat) (mask : Option LaneMask) : Nat :=
  if ix = 8 then 97
  else match mask with
    | some m => lowestLane m
    | none => match g.split? ix with
      | some sp => lowestLane sp.mask
      | none => 96

/-- Add one split's fault to the list of the cycle: of a scalar and a lane fault of one split the lane fault is taken,
otherwise the earlier one (R442). -/
def addFault (f : FaultRec) (l : List FaultRec) : List FaultRec :=
  match l.find? (fun h => h.who == f.who) with
  | none => l ++ [f]
  | some h => if f.laneIns ∧ !h.laneIns then l.map fun k => if k.who == f.who then f else k else l

/-- Ascending insertion by the lowest active lane, then by the split index (R442). -/
def insertFault (f : FaultRec) : List FaultRec → List FaultRec
  | [] => [f]
  | h :: l => if f.low < h.low ∨ (f.low = h.low ∧ f.who < h.who) then f :: h :: l else h :: insertFault f l

/-- The faults in the order in which the record lists them. -/
def sortFaults (l : List FaultRec) : List FaultRec := l.foldl (fun acc f => insertFault f acc) []

/-- THE EXCEPTION OF THIS MACHINE: a group takes a fault at cycle `t` (R440). No split of the group, the handler's
included, issues again (but for those of the same cycle, R456); issued work drains; GROUP_HALT posts the record when it
has. A fault found while the group drains counts as late (R441). -/
def raiseFault (s : State) (gid t : Nat) (f : FaultRec) : State :=
  s.modGroup gid fun g =>
    match g.status with
    | .halted => g
    | .faulting =>
      if g.trapAt = t then { g with faults := sortFaults (addFault f g.faults) }
      else { g with late := (if g.late.2 = 0 then f.code else g.late.1, min (g.late.2 + 1) (2 ^ 24 - 1)) }
    | _ => { g with status := .faulting, trapAt := t, faults := [f] }

/-- The trap of R391, steps 1 and 2: no further scalar instruction issues and no batch starts; started batches run on. -/
def trapGroup (s : State) (gid t : Nat) : State :=
  s.modGroup gid fun g => if g.status = .running then { g with status := .trapped, trapAt := t } else g

/-- The private registers of the handler split at its start: zero (R393). -/
def zeroPriv : List Word := List.replicate 16 0

/-- The format register at group start (R41, R51). -/
def fmtReset : Word := 0x00061610

/-- A split as it starts at a word index at cycle `t`, created at issue number `born`. -/
def freshSplit (pc t : Nat) (priv : List Word) (fmt : Word) (born : Nat) : Split where
  state := .running
  pc := pc
  priv := priv
  fmt := fmt
  saved := fmt
  rejoin := 0
  earliest := t
  lastIssue := t
  passOver := false
  block := .none
  vsyncSeq := 0
  laneReady := 0
  word := 0
  born := born

/-- A free split-table entry. -/
def freeSplit : Split := { freshSplit 0 0 zeroPriv 0 0 with state := .free }

/-- A split of the table ends: its entry is free, and its private registers go with what is on its way to them (R93, R182).
Beyond the rule's words: DEDUCED, log entry 56. -/
def Group.endSplit (g : Group) (ix : Nat) : Group :=
  let own (r : PReg) : Bool := match r with
    | .s n => decide (48 ≤ n)
    | _ => false
  { g.setSplit ix freeSplit with
    locks := g.locks.filter (fun k => !(k.1 == ix && decide (48 ≤ k.2))),
    pend := g.pend.filter fun p => !(p.split == ix && own p.reg) }

/-- The handler split starts in its save or resume phase (R393): the other half of the trap. -/
def enterHandler (g : Group) (resume : Bool) (entry scode slen t born : Nat) : Group :=
  { g with status := .running,
           handler := some { sp := freshSplit entry t zeroPriv fmtReset born, resume := resume, scode := scode, slen := slen } }

/-- The return from the handler (R396): the handler split ends; after the resume phase the frozen splits issue again from
where they stopped. -/
def leaveHandler (g : Group) : Group := { g with handler := none }

end Sys2Proof.Machine
end

