-- ==== Sys2Proof/Machine/Flags.lean ====
section
/-! DEFINITION. The sticky flags of the lanes: merging raised flags, and their arrival when the latency of the instruction
that raised them expires (R53, R146, R154). -/

namespace Sys2Proof.Machine

/-- Flags ORed in, lane by lane. -/
def orFlags : List Flags → List Flags → List Flags
  | fs, [] => fs
  | [], r :: rs => r :: orFlags [] rs
  | f :: fs, r :: rs => (f ||| r) :: orFlags fs rs

/-- The flags of the lanes of a mask, zero elsewhere, from lane `l` up. -/
def maskFlags (m : LaneMask) : Nat → List Flags → List Flags
  | _, [] => []
  | l, f :: fs => (if laneBit m l then f else 0) :: maskFlags m (l + 1) fs

/-- Some lane raises some flag. -/
def anyFlag (fs : List Flags) : Bool := fs.any fun f => f != 0

/-- Flags raised by an instruction, arriving at a slot (R154). -/
def Group.raiseAt (g : Group) (slot : Nat) (fs : List Flags) : Group :=
  if anyFlag fs then { g with fpend := g.fpend ++ [(slot, fs)] } else g

/-- The flags at the start of a slot: every raised flag whose latency has expired is ORed in, those readable from `slot` or
earlier on. A VFLAGS that issues before that slot neither sees nor clears them (R154, R169). -/
def Group.settleFlags (g : Group) (slot : Nat) : Group :=
  let fl := (g.fpend.filter fun p => p.1 ≤ slot).foldl (fun fl p => orFlags fl p.2) g.flags
  { g with flags := fl, fpend := g.fpend.filter (fun p => slot < p.1),
           fturn := if (g.fturn.map (·.slot)) = some slot then g.fturn
                    else some { slot := slot, before := fl, wrote := 0, ored := [] } }

/-- The flags that a VFLAGS reads: those from before every action of its slot (R154). -/
def Group.flagsBefore (g : Group) : List Flags := (g.fturn.map (·.before)).getD g.flags

/-- What VFLAGS leaves in lane `n`, if the lane is active: a clear acts before a write of the slot, and both act before the
flags that the slot ORs in (R154). -/
def Group.flagsAfter (g : Group) (write : Option (List Flags)) (imm n : Nat) : Flags :=
  let u := g.fturn.getD { slot := 0, before := [], wrote := 0, ored := [] }
  match write with
  | some w => w.getD n 0 ||| u.ored.getD n 0
  | none =>
    if laneBit u.wrote n then g.flags.getD n 0 else (g.flags.getD n 0 &&& ~~~(BitVec.ofNat 5 imm)) ||| u.ored.getD n 0

/-- Every raised flag ORed in. -/
def Group.settleAll (g : Group) : Group :=
  { g with flags := g.fpend.foldl (fun fl p => orFlags fl p.2) g.flags, fpend := [] }

/-- Flags ORed into all lanes of a mask in a slot (a matrix flag merge, R154, R250). -/
def Group.orIn (g : Group) (slot : Nat) (m : LaneMask) (f : Flags) : Group :=
  let fs := maskFlags m 0 (List.replicate 96 f)
  { g with flags := orFlags g.flags fs,
           fturn := g.fturn.map fun u => if u.slot = slot then { u with ored := orFlags u.ored fs } else u }

/-- The sticky flags as SAVEG.p lays them out: bits 5L + 4 to 5L (R395). -/
def flagsNat : List Flags → Nat
  | [] => 0
  | f :: fs => f.toNat + 32 * flagsNat fs

end Sys2Proof.Machine
end

