-- ==== Sys2Proof/Machine/Operands.lean ====
section
/-! DEFINITION. Issuing an instruction: the checks of R457 in their order, the reading of every operand form of scalar and
lane words (R60, R64 to R67, R79, R97, R109), the scoreboards (R55) and the stall-count check (R73, R463 to R465), and the
writing of results of fixed latency (R70, R71). A meaning supplies what it reads, what it writes and its effect. -/

namespace Sys2Proof.Machine

/-! ### Scalar instructions -/

/-- A scalar instruction at its issue. -/
structure ScIss where
  g : Group
  ix : Nat
  sp : Split
  /-- The cycle of its issue. -/
  t : Nat
  word : Nat
  /-- Its issue number. -/
  seq : Nat
  deriving DecidableEq, Repr

/-- What a scalar instruction reads and writes: register fields read, in order; written s registers with the field that names each; and how the handler's limits treat it (R393): 0 not at all, 1 forbidden in the save phase,
2 forbidden in both phases, 3 a forbidden write in the save phase, 4 in both. -/
structure ScUse where
  reads : List Nat := []
  writes : List (Nat × Nat) := []
  ban : Nat := 0
  banField : Nat := 0
  deriving DecidableEq, Repr

/-- How a scalar instruction ends. -/
inductive ScRes where
  /-- Its effect is in the state; the split goes on at the next word. -/
  | done (s : State)
  /-- As `done`, but the split goes on at a target that has been checked (R91). -/
  | jump (s : State) (target : Nat)
  /-- A condition holds the split; nothing has happened (R193). -/
  | hold
  /-- It has issued and waits in the block that the state holds; the pc moves on with a later event. -/
  | stay (s : State)
  /-- The split, or its group, is gone or has stopped by its own effect. -/
  | over (s : State)
  /-- A fault: code, address, DETAIL. -/
  | fault (code addr detail : Nat)
  deriving DecidableEq, Repr

/-- The split that issues now. -/
def issuingSplit (s : State) : Option (Group × Nat × Split) :=
  match s.cur with
  | some (.split gid ix) =>
    match s.group? gid with
    | none => none
    | some g => (g.split? ix).map fun sp => (g, ix, sp)
  | _ => none

/-- The cycle that a core has reached. -/
def State.now (s : State) (core : Nat) : Nat := (s.core core).cyc

/-- The length of the scalar code that a split runs (R87, R392). -/
def codeLen (g : Group) (ix : Nat) : Nat :=
  if ix = 8 then match g.handler with
    | some h => h.slen
    | none => 0
  else g.launch.slen

/-- DETAIL of the code-range fault (R462). -/
def rangeDetail (index : Int) (len : Nat) (lane : Bool) : Nat :=
  (index % (2 ^ 21 : Nat)).toNat + 2 ^ 32 * len + if lane then 2 ^ 63 else 0

/-- The instruction word of a scalar instruction. -/
def wordOf (i : Instr) : Nat := ((encode i).headD 0).toNat

/-- The fault record of a scalar instruction (R446). -/
def scFaultRec (x : ScIss) (code addr detail : Nat) : FaultRec where
  who := x.ix
  code := code
  addr := addr
  detail := detail
  insn := x.word
  laneIns := false
  lane := 127
  spc := x.sp.pc
  lpc := 0
  low := issuerLow x.g x.ix none

/-- A scalar instruction faults. -/
def scFault (s : State) (x : ScIss) (code addr detail : Nat) : State :=
  raiseFault s x.g.gid x.t (scFaultRec x code addr detail)

/-- The limits of the handler split (R393, R471): the DETAIL of a breach. -/
def handlerBreach (x : ScIss) (u : ScUse) : Option Nat :=
  if x.ix ≠ 8 then none
  else match x.g.handler with
    | none => none
    | some h =>
      let phase := if h.resume then 2 ^ 8 else 0
      if u.ban = 2 ∨ (u.ban = 1 ∧ !h.resume) then some (2 + phase)
      else if u.ban = 4 ∨ (u.ban = 3 ∧ !h.resume) then some (1 + phase + 2 ^ 16 * u.banField)
      else match u.writes.find? fun w => w.2 < 48 with
        | some w => some (1 + phase + 2 ^ 16 * w.1)
        | none => none

/-- The result of a scalar instruction of the same split for register `r` that a read at cycle `t` meets too early (R464). -/
def scShort (x : ScIss) (r : PReg) : Option Pend :=
  shortOf (·.seenBy x.ix x.t) (fun p => p.scalar && p.split == x.ix) fullMask (pendHits x.g x.ix r).reverse

/-- DETAIL of the stall-check fault for a scalar reader (R462). -/
def scShortDetail (x : ScIss) (spec : Nat) (p : Pend) : Nat :=
  spec + (if p.scalar then 2 ^ 11 else 0) + 2 ^ 12 * (p.prod % 2 ^ 20) + 2 ^ 32 * ((p.ready - x.t) % 2 ^ 8)

/-- The stall-count check over the register fields read, in order (R465). -/
def scStall (x : ScIss) : List Nat → Option Nat
  | [] => none
  | f :: l =>
    match if f < 64 then scShort x (.s f) else none with
    | some p => some (scShortDetail x (0x340 + f) p)
    | none => scStall x l

/-- Does the register scoreboard hold s`n` for split `ix` (R55). -/
def scLocked (g : Group) (ix n : Nat) : Bool :=
  g.locks.any fun k => k.2 == n && (n < 48 || k.1 == ix)

/-- Read one register field; a read that comes before an earlier result is written may see either value (R73, R97). -/
def readField (s : State) (g : Group) (ix t f : Nat) : Word × State :=
  if 64 ≤ f then (g.sval ix f, s)
  else let (l, s1) := readReg s g ix (·.seenBy ix t) (.s f) [g.sval ix f]; (l.headD 0, s1)

/-- Read the register fields of an instruction, in order. -/
def readFields (s : State) (g : Group) (ix t : Nat) : List Nat → List Word × State
  | [] => ([], s)
  | f :: l =>
    let (v, s1) := readField s g ix t f
    let (vs, s2) := readFields s1 g ix t l
    (v :: vs, s2)

/-- The entry of a result of a scalar instruction of latency `lat` (R70). -/
def scPend (x : ScIss) (lat n : Nat) : Pend :=
  { reg := .s n, split := x.ix, issued := x.t, ready := x.t + lat, mask := fullMask, old := [], prod := x.sp.pc, scalar := true,
    seq := x.seq }

/-- The results of latency `lat` of a scalar instruction: they take effect in issue order, and the values from before are kept
for readers that come early (R44, R70, R73). -/
def scPut (s : State) (x : ScIss) (lat : Nat) (ws : List (Nat × Word)) : State :=
  s.modGroup x.g.gid fun g => ws.foldl (fun h w =>
    h.putResult (scPend x lat w.1) [h.sval x.ix w.1] [w.2] fun v k => k.sset x.ix w.1 (v.headD 0)) g

/-- The scalar unit of a group slot (R193). -/
def unitOf (slot : Nat) : Nat := slot % 2

/-- The unit has issued in cycle `t`. -/
def unitIssued (s : State) (core slot t : Nat) : State :=
  s.modCore core fun k => { k with units := padSet 0 k.units (unitOf slot) (t + 1) }

/-- The split has issued in cycle `t`: it may issue again after its stall count, `extra` cycles later when a branch was
taken (R70, R91). -/
def splitIssued (s : State) (x : ScIss) (pc extra : Nat) : State :=
  unitIssued (s.modGroup x.g.gid fun g => g.modSplit x.ix fun sp =>
    { sp with pc := pc, earliest := x.t + 1 + x.word % 4 + extra, lastIssue := x.t, word := x.word }) x.g.core x.g.slot x.t

/-- The end of an issue. -/
def scFinish (s : State) (x : ScIss) : ScRes → State
  | .done s' => splitIssued s' x (x.sp.pc + 1) 0
  | .jump s' target => splitIssued s' x target 1
  | .hold => { s with held := true }
  | .stay s' => splitIssued s' x x.sp.pc 0
  | .over s' => unitIssued s' x.g.core x.g.slot x.t
  | .fault code addr detail => unitIssued (scFault s x code addr detail) x.g.core x.g.slot x.t

/-- The checks of R457 before an instruction's own, then the instruction. -/
def scRun (i : Instr) (u : ScUse) (body : State → ScIss → List Word → ScRes) (s : State) (x : ScIss) : State :=
  match worstViol (violations i) with
  | some v => scFinish s x (.fault 0x01 0 (v.2 + 2 ^ 8 * v.1))
  | none =>
    match handlerBreach x u with
    | some d => scFinish s x (.fault 0x0B 0 d)
    | none =>
      match if x.g.stallchk then scStall x u.reads else none with
      | some d => scFinish s x (.fault 0x04 0 d)
      | none =>
        if (u.reads.any fun f => f < 64 && scLocked x.g x.ix f) || (u.writes.any fun w => scLocked x.g x.ix w.2) then
          scFinish s x .hold
        else
          let (vals, s1) := readFields s x.g x.ix x.t u.reads
          scFinish s1 x (body s1 x vals)

/-- Issue of a scalar instruction by the split that `cur` names. -/
def scalarIssue (i : Instr) (u : ScUse) (body : State → ScIss → List Word → ScRes) (s : State) : Out :=
  match issuingSplit s with
  | none => .fault .noIssuer
  | some (g, ix, sp) =>
    let t := s.now g.core
    let g1 := prunePend g t
    let s1 := { s.setGroup g1 with fresh := s.fresh + 1, held := false }
    .next (scRun i u body s1 { g := g1, ix := ix, sp := sp, t := t, word := wordOf i, seq := s.fresh })

end Sys2Proof.Machine
end

