-- ==== Sys2Proof/Machine/Scalar.lean ====
section
/-! DEFINITION. Scalar arithmetic, logic, shifts, compares, selects, moves and immediates (R79 to R86). -/

namespace Sys2Proof.Machine

/-- The 64-bit value of a pair, low word first (R80). -/
def pairNat (lo hi : Word) : Nat := lo.toNat + 2 ^ 32 * hi.toNat
/-- The low word of a number. -/
def loWord (n : Nat) : Word := BitVec.ofNat 32 n
/-- The high word of a 64-bit number. -/
def hiWord (n : Nat) : Word := BitVec.ofNat 32 (n / 2 ^ 32)

/-- A scalar instruction that reads register fields and writes sd. -/
def execRegs (i : Instr) (d : Nat) (reads : List Nat) (lat : Nat) (f : List Word → Word) (s : State) : Out :=
  scalarIssue i { reads := reads, writes := [(0x02, d)] } (fun s x vals => .done (scPut s x lat [(d, f vals)])) s

/-- A scalar instruction with two 32-bit sources. -/
def execBinary (i : Instr) (d : BitVec 6) (a b : BitVec 7) (lat : Nat) (f : Word → Word → Word) (s : State) : Out :=
  execRegs i d.toNat [a.toNat, b.toNat] lat (fun v => f (v.getD 0 0) (v.getD 1 0)) s

/-- A scalar instruction with one 32-bit source. -/
def execUnary (i : Instr) (d : BitVec 6) (a : BitVec 7) (lat : Nat) (f : Word → Word) (s : State) : Out :=
  execRegs i d.toNat [a.toNat] lat (fun v => f (v.getD 0 0)) s

/-- A 64-bit instruction: the low words of its pair sources, and the register fields it reads beside them; the result goes
to sd and sd + 1 (R80). -/
def execPair (i : Instr) (d : BitVec 6) (reads : List Nat) (f : List Word → Nat) (s : State) : Out :=
  scalarIssue i { reads := reads, writes := [(0x02, d.toNat), (0x02, d.toNat + 1)] }
    (fun s x vals => .done (scPut s x 1 [(d.toNat, loWord (f vals)), (d.toNat + 1, hiWord (f vals))])) s

/-- The signed value of a word. -/
def sOf (a : Word) : Int := sInt 32 a.toNat

/-- SADD (R82). -/
def execSadd (d : BitVec 6) (a b : BitVec 7) (t : BitVec 2) (s : State) : Out :=
  execBinary (.sadd d a b t) d a b 1 (fun x y => x + y) s

/-- SADD.i64 (R82). -/
def execSaddI64 (d : BitVec 6) (a b : BitVec 7) (t : BitVec 2) (s : State) : Out :=
  execPair (.saddI64 d a b t) d [a.toNat, a.toNat + 1, b.toNat, b.toNat + 1]
    (fun v => pairNat (v.getD 0 0) (v.getD 1 0) + pairNat (v.getD 2 0) (v.getD 3 0)) s

/-- SADD.sat (R82). -/
def execSaddSat (d : BitVec 6) (a b : BitVec 7) (t : BitVec 2) (s : State) : Out :=
  execBinary (.saddSat d a b t) d a b 1 (fun x y => loWord (satS (sOf x + sOf y) 32)) s

/-- SADD.usat (R82). -/
def execSaddUsat (d : BitVec 6) (a b : BitVec 7) (t : BitVec 2) (s : State) : Out :=
  execBinary (.saddUsat d a b t) d a b 1 (fun x y => loWord (satZ ((x.toNat : Int) + (y.toNat : Int)) 32)) s

/-- SSUB (R82). -/
def execSsub (d : BitVec 6) (a b : BitVec 7) (t : BitVec 2) (s : State) : Out :=
  execBinary (.ssub d a b t) d a b 1 (fun x y => x - y) s

/-- SSUB.i64 (R82). -/
def execSsubI64 (d : BitVec 6) (a b : BitVec 7) (t : BitVec 2) (s : State) : Out :=
  execPair (.ssubI64 d a b t) d [a.toNat, a.toNat + 1, b.toNat, b.toNat + 1]
    (fun v => wrapN ((pairNat (v.getD 0 0) (v.getD 1 0) : Int) - (pairNat (v.getD 2 0) (v.getD 3 0) : Int)) 64) s

/-- SSUB.sat (R82). -/
def execSsubSat (d : BitVec 6) (a b : BitVec 7) (t : BitVec 2) (s : State) : Out :=
  execBinary (.ssubSat d a b t) d a b 1 (fun x y => loWord (satS (sOf x - sOf y) 32)) s

/-- SSUB.usat (R82). -/
def execSsubUsat (d : BitVec 6) (a b : BitVec 7) (t : BitVec 2) (s : State) : Out :=
  execBinary (.ssubUsat d a b t) d a b 1 (fun x y => loWord (satZ ((x.toNat : Int) - (y.toNat : Int)) 32)) s

/-- SMUL (R82). -/
def execSmul (d : BitVec 6) (a b : BitVec 7) (t : BitVec 2) (s : State) : Out :=
  execBinary (.smul d a b t) d a b 4 (fun x y => x * y) s

/-- SMULH (R82). -/
def execSmulh (d : BitVec 6) (a b : BitVec 7) (t : BitVec 2) (s : State) : Out :=
  execBinary (.smulh d a b t) d a b 4 (fun x y => hiWord (wrapN (sOf x * sOf y) 64)) s

/-- SMULH.z32 (R82). -/
def execSmulhZ32 (d : BitVec 6) (a b : BitVec 7) (t : BitVec 2) (s : State) : Out :=
  execBinary (.smulhZ32 d a b t) d a b 4 (fun x y => hiWord (x.toNat * y.toNat)) s

/-! ### Division (R83) -/

/-- The quotient or the remainder that SDIV delivers (R83). -/
def divResult (signed rem : Bool) (a b : Word) : Word :=
  if b = 0 then (if rem then a else 0xFFFFFFFF)
  else if signed then
    if rem then loWord (wrapN ((sOf a).tmod (sOf b)) 32) else loWord (wrapN ((sOf a).tdiv (sOf b)) 32)
  else if rem then loWord (a.toNat % b.toNat) else loWord (a.toNat / b.toNat)

/-- SDIV starts: its result is interlocked and arrives no later than 34 cycles after issue; the unit holds one division at
a time (R83). -/
def execDivide (i : Instr) (d : BitVec 6) (a b : BitVec 7) (signed rem : Bool) (s : State) : Out :=
  scalarIssue i { reads := [a.toNat, b.toNat], writes := [(0x02, d.toNat)] } (fun s x v =>
    let k := s.core x.g.core
    match k.divs.getD (unitOf x.g.slot) none with
    | some _ => .hold
    | none =>
      let dv : Division := { gid := x.g.gid, split := x.ix, born := x.sp.born, reg := d.toNat,
                             value := divResult signed rem (v.getD 0 0) (v.getD 1 0), deadline := x.t + 34 }
      .done ((s.setCore x.g.core { k with divs := padSet none k.divs (unitOf x.g.slot) (some dv) }).modGroup x.g.gid
        fun g => { g with locks := g.locks ++ [(x.ix, d.toNat)] })) s

/-- SDIV (R83). -/
def execSdiv (d : BitVec 6) (a b : BitVec 7) (t : BitVec 2) (s : State) : Out :=
  execDivide (.sdiv d a b t) d a b true false s

/-- SDIV.z32 (R83). -/
def execSdivZ32 (d : BitVec 6) (a b : BitVec 7) (t : BitVec 2) (s : State) : Out :=
  execDivide (.sdivZ32 d a b t) d a b false false s

/-- SDIV.rem (R83). -/
def execSdivRem (d : BitVec 6) (a b : BitVec 7) (t : BitVec 2) (s : State) : Out :=
  execDivide (.sdivRem d a b t) d a b true true s

/-- SDIV.rem.z32 (R83). -/
def execSdivRemZ32 (d : BitVec 6) (a b : BitVec 7) (t : BitVec 2) (s : State) : Out :=
  execDivide (.sdivRemZ32 d a b t) d a b false true s

/-- Remove the first scoreboard entry for a register of a split. -/
def unlock (g : Group) (ix n : Nat) : Group := { g with locks := g.locks.erase (ix, n) }

/-- An interlocked result arrives: its register is set and let go, a private one while its split holds its entry. -/
def Group.deliver (g : Group) (ix born n : Nat) (x : Word) : Group :=
  if n < 48 ∨ (g.split? ix).map (·.born) = some born then unlock (g.ssetLate ix born n x) ix n else g

/-- SDIV_RESULT: the division of a scalar unit writes its result, which releases the scoreboard (R55, R83). -/
def execSdivResult (core unit : Nat) (s : State) : Out :=
  match (s.core core).divs.getD unit none with
  | none => .next s
  | some dv => .next <|
    (s.modCore core fun k => { k with divs := padSet none k.divs unit none }).modGroup dv.gid fun g =>
      g.deliver dv.split dv.born dv.reg dv.value

/-! ### Logic -/

/-- SAND (R82). -/
def execSand (d : BitVec 6) (a b : BitVec 7) (t : BitVec 2) (s : State) : Out :=
  execBinary (.sand d a b t) d a b 1 (fun x y => x &&& y) s

/-- SAND.not (R82). -/
def execSandNot (d : BitVec 6) (a b : BitVec 7) (t : BitVec 2) (s : State) : Out :=
  execBinary (.sandNot d a b t) d a b 1 (fun x y => x &&& ~~~y) s

/-- SOR (R82). -/
def execSor (d : BitVec 6) (a b : BitVec 7) (t : BitVec 2) (s : State) : Out :=
  execBinary (.sor d a b t) d a b 1 (fun x y => x ||| y) s

/-- SOR.not (R82). -/
def execSorNot (d : BitVec 6) (a b : BitVec 7) (t : BitVec 2) (s : State) : Out :=
  execBinary (.sorNot d a b t) d a b 1 (fun x y => x ||| ~~~y) s

/-- SXOR (R82). -/
def execSxor (d : BitVec 6) (a b : BitVec 7) (t : BitVec 2) (s : State) : Out :=
  execBinary (.sxor d a b t) d a b 1 (fun x y => x ^^^ y) s

/-- SXOR.not (R82). -/
def execSxorNot (d : BitVec 6) (a b : BitVec 7) (t : BitVec 2) (s : State) : Out :=
  execBinary (.sxorNot d a b t) d a b 1 (fun x y => x ^^^ ~~~y) s

/-! ### Shifts (R82): the count is b[5:0], or b[6:0] for pairs; a count of the width or more shifts everything out -/

/-- SSHL of a w-bit value. -/
def shlN (w a n : Nat) : Nat := if w ≤ n then 0 else a * 2 ^ n % 2 ^ w
/-- SSHR of a w-bit value. -/
def shrN (w a n : Nat) : Nat := if w ≤ n then 0 else a / 2 ^ n
/-- SSAR of a w-bit value. -/
def sarN (w a n : Nat) : Nat := wrapN (sInt w a / (2 ^ min n (w - 1) : Nat)) w

/-- SSHL (R82). -/
def execSshl (d : BitVec 6) (a b : BitVec 7) (t : BitVec 2) (s : State) : Out :=
  execBinary (.sshl d a b t) d a b 1 (fun x y => loWord (shlN 32 x.toNat (y.toNat % 64))) s

/-- SSHL.i64 (R82). -/
def execSshlI64 (d : BitVec 6) (a b : BitVec 7) (t : BitVec 2) (s : State) : Out :=
  execPair (.sshlI64 d a b t) d [a.toNat, a.toNat + 1, b.toNat]
    (fun v => shlN 64 (pairNat (v.getD 0 0) (v.getD 1 0)) ((v.getD 2 0).toNat % 128)) s

/-- SSHR (R82). -/
def execSshr (d : BitVec 6) (a b : BitVec 7) (t : BitVec 2) (s : State) : Out :=
  execBinary (.sshr d a b t) d a b 1 (fun x y => loWord (shrN 32 x.toNat (y.toNat % 64))) s

/-- SSHR.i64 (R82). -/
def execSshrI64 (d : BitVec 6) (a b : BitVec 7) (t : BitVec 2) (s : State) : Out :=
  execPair (.sshrI64 d a b t) d [a.toNat, a.toNat + 1, b.toNat]
    (fun v => shrN 64 (pairNat (v.getD 0 0) (v.getD 1 0)) ((v.getD 2 0).toNat % 128)) s

/-- SSAR (R82). -/
def execSsar (d : BitVec 6) (a b : BitVec 7) (t : BitVec 2) (s : State) : Out :=
  execBinary (.ssar d a b t) d a b 1 (fun x y => loWord (sarN 32 x.toNat (y.toNat % 64))) s

/-- SSAR.i64 (R82). -/
def execSsarI64 (d : BitVec 6) (a b : BitVec 7) (t : BitVec 2) (s : State) : Out :=
  execPair (.ssarI64 d a b t) d [a.toNat, a.toNat + 1, b.toNat]
    (fun v => sarN 64 (pairNat (v.getD 0 0) (v.getD 1 0)) ((v.getD 2 0).toNat % 128)) s

/-! ### Minimum, maximum, select, compare -/

/-- SMIN (R82). -/
def execSmin (d : BitVec 6) (a b : BitVec 7) (t : BitVec 2) (s : State) : Out :=
  execBinary (.smin d a b t) d a b 1 (fun x y => if sOf x ≤ sOf y then x else y) s

/-- SMIN.z32 (R82). -/
def execSminZ32 (d : BitVec 6) (a b : BitVec 7) (t : BitVec 2) (s : State) : Out :=
  execBinary (.sminZ32 d a b t) d a b 1 (fun x y => if x.toNat ≤ y.toNat then x else y) s

/-- SMAX (R82). -/
def execSmax (d : BitVec 6) (a b : BitVec 7) (t : BitVec 2) (s : State) : Out :=
  execBinary (.smax d a b t) d a b 1 (fun x y => if sOf x ≤ sOf y then y else x) s

/-- SMAX.z32 (R82). -/
def execSmaxZ32 (d : BitVec 6) (a b : BitVec 7) (t : BitVec 2) (s : State) : Out :=
  execBinary (.smaxZ32 d a b t) d a b 1 (fun x y => if x.toNat ≤ y.toNat then y else x) s

/-- SSEL reads its destination too (R86). -/
def execSsel (d : BitVec 6) (a b : BitVec 7) (t : BitVec 2) (s : State) : Out :=
  execRegs (.ssel d a b t) d.toNat [a.toNat, b.toNat, d.toNat] 1
    (fun v => if v.getD 2 0 ≠ 0 then v.getD 0 0 else v.getD 1 0) s

/-- A relation as the word that SCMP writes (R85). -/
def cmpWord (b : Bool) : Word := if b then 1 else 0

/-- SCMP.eq (R85). -/
def execScmpEq (d : BitVec 6) (a b : BitVec 7) (t : BitVec 2) (s : State) : Out :=
  execBinary (.scmpEq d a b t) d a b 1 (fun x y => cmpWord (x == y)) s

/-- SCMP.ne (R85). -/
def execScmpNe (d : BitVec 6) (a b : BitVec 7) (t : BitVec 2) (s : State) : Out :=
  execBinary (.scmpNe d a b t) d a b 1 (fun x y => cmpWord (x != y)) s

/-- SCMP.lt (R85). -/
def execScmpLt (d : BitVec 6) (a b : BitVec 7) (t : BitVec 2) (s : State) : Out :=
  execBinary (.scmpLt d a b t) d a b 1 (fun x y => cmpWord (decide (sOf x < sOf y))) s

/-- SCMP.le (R85). -/
def execScmpLe (d : BitVec 6) (a b : BitVec 7) (t : BitVec 2) (s : State) : Out :=
  execBinary (.scmpLe d a b t) d a b 1 (fun x y => cmpWord (decide (sOf x ≤ sOf y))) s

/-- SCMP.ult (R85). -/
def execScmpUlt (d : BitVec 6) (a b : BitVec 7) (t : BitVec 2) (s : State) : Out :=
  execBinary (.scmpUlt d a b t) d a b 1 (fun x y => cmpWord (decide (x.toNat < y.toNat))) s

/-- SCMP.ule (R85). -/
def execScmpUle (d : BitVec 6) (a b : BitVec 7) (t : BitVec 2) (s : State) : Out :=
  execBinary (.scmpUle d a b t) d a b 1 (fun x y => cmpWord (decide (x.toNat ≤ y.toNat))) s

/-! ### Moves, counts and immediates -/

/-- SMOV (R82). -/
def execSmov (d : BitVec 6) (a : BitVec 7) (t : BitVec 2) (s : State) : Out :=
  execUnary (.smov d a t) d a 1 (fun x => x) s

/-- SMOV.i64 (R82). -/
def execSmovI64 (d : BitVec 6) (a : BitVec 7) (t : BitVec 2) (s : State) : Out :=
  execPair (.smovI64 d a t) d [a.toNat, a.toNat + 1] (fun v => pairNat (v.getD 0 0) (v.getD 1 0)) s

/-- SPOPC (R82). -/
def execSpopc (d : BitVec 6) (a : BitVec 7) (t : BitVec 2) (s : State) : Out :=
  execUnary (.spopc d a t) d a 2 (fun x => loWord (popCount 32 x.toNat)) s

/-- SCLZ (R82). -/
def execSclz (d : BitVec 6) (a : BitVec 7) (t : BitVec 2) (s : State) : Out :=
  execUnary (.sclz d a t) d a 2 (fun x => loWord (leadZeros x.toNat)) s

/-- SMOVI (R84). -/
def execSmovi (d : BitVec 6) (i : BitVec 8) (t : BitVec 2) (s : State) : Out :=
  execRegs (.smovi d i t) d.toNat [] 1 (fun _ => i.signExtend 32) s

/-- SMOVI.z (R84). -/
def execSmoviZ (d : BitVec 6) (i : BitVec 8) (t : BitVec 2) (s : State) : Out :=
  execRegs (.smoviZ d i t) d.toNat [] 1 (fun _ => i.zeroExtend 32) s

/-- SMOVI.sh8 reads its destination (R84). -/
def execSmoviSh8 (d : BitVec 6) (i : BitVec 8) (t : BitVec 2) (s : State) : Out :=
  execRegs (.smoviSh8 d i t) d.toNat [d.toNat] 1 (fun v => v.getD 0 0 * 256 + i.zeroExtend 32) s

/-- SADDI (R84). -/
def execSaddi (d : BitVec 6) (a : BitVec 7) (i : BitVec 8) (t : BitVec 2) (s : State) : Out :=
  execUnary (.saddi d a i t) d a 1 (fun x => x + i.signExtend 32) s

/-- SADDI.i64 (R84). -/
def execSaddiI64 (d : BitVec 6) (a : BitVec 7) (i : BitVec 8) (t : BitVec 2) (s : State) : Out :=
  execPair (.saddiI64 d a i t) d [a.toNat, a.toNat + 1]
    (fun v => wrapN ((pairNat (v.getD 0 0) (v.getD 1 0) : Int) + sInt 8 i.toNat) 64) s

/-- SSHLI (R84). -/
def execSshli (d : BitVec 6) (a : BitVec 7) (i : BitVec 8) (t : BitVec 2) (s : State) : Out :=
  execUnary (.sshli d a i t) d a 1 (fun x => loWord (shlN 32 x.toNat i.toNat)) s

/-- SSHLI.lsr (R84). -/
def execSshliLsr (d : BitVec 6) (a : BitVec 7) (i : BitVec 8) (t : BitVec 2) (s : State) : Out :=
  execUnary (.sshliLsr d a i t) d a 1 (fun x => loWord (shrN 32 x.toNat i.toNat)) s

/-- SSHLI.asr (R84). -/
def execSshliAsr (d : BitVec 6) (a : BitVec 7) (i : BitVec 8) (t : BitVec 2) (s : State) : Out :=
  execUnary (.sshliAsr d a i t) d a 1 (fun x => loWord (sarN 32 x.toNat i.toNat)) s

end Sys2Proof.Machine
end

