-- ==== Sys2Proof/Machine/Control.lean ====
section
/-! DEFINITION. The control instructions of the scalar stream: branches, calls, loops, stream control, batches, masks,
counters, the format register, special registers and TRAP (R87 to R107), and splits with their merges (R179 to R184). -/

namespace Sys2Proof.Machine

/-! ### Branches, calls and loops (R87 to R91) -/

/-- A taken branch to an index: the code-range fault when it lies outside the section (R90). -/
def takeTo (s : State) (x : ScIss) (index : Int) : ScRes :=
  if index < 0 ∨ (codeLen x.g x.ix : Int) ≤ index then .fault 0x02 0 (rangeDetail index (codeLen x.g x.ix) false)
  else .jump s index.toNat

/-- The target of a direct branch (R87). -/
def directTarget (x : ScIss) (disp : BitVec 14) : Int := (x.sp.pc : Int) + 1 + sInt 14 disp.toNat

/-- A conditional branch on registers. -/
def execBranch (i : Instr) (reads : List Nat) (disp : BitVec 14) (taken : List Word → Bool) (s : State) : Out :=
  scalarIssue i { reads := reads } (fun s x v =>
    if taken v then takeTo s x (directTarget x disp) else .done s) s

/-- BR.z (R87). -/
def execBrZ (a : BitVec 7) (x : BitVec 14) (t : BitVec 2) (s : State) : Out :=
  execBranch (.brZ a x t) [a.toNat] x (fun v => v.getD 0 0 == 0) s

/-- BR.nz (R87). -/
def execBrNz (a : BitVec 7) (x : BitVec 14) (t : BitVec 2) (s : State) : Out :=
  execBranch (.brNz a x t) [a.toNat] x (fun v => v.getD 0 0 != 0) s

/-- BR.lt (R87). -/
def execBrLt (a : BitVec 7) (x : BitVec 14) (t : BitVec 2) (s : State) : Out :=
  execBranch (.brLt a x t) [a.toNat] x (fun v => decide (sOf (v.getD 0 0) < 0)) s

/-- BR.ge (R87). -/
def execBrGe (a : BitVec 7) (x : BitVec 14) (t : BitVec 2) (s : State) : Out :=
  execBranch (.brGe a x t) [a.toNat] x (fun v => decide (0 ≤ sOf (v.getD 0 0))) s

/-- BR.gt (R87). -/
def execBrGt (a : BitVec 7) (x : BitVec 14) (t : BitVec 2) (s : State) : Out :=
  execBranch (.brGt a x t) [a.toNat] x (fun v => decide (0 < sOf (v.getD 0 0))) s

/-- BR.le (R87). -/
def execBrLe (a : BitVec 7) (x : BitVec 14) (t : BitVec 2) (s : State) : Out :=
  execBranch (.brLe a x t) [a.toNat] x (fun v => decide (sOf (v.getD 0 0) ≤ 0)) s

/-- BR.mz (R87). Beyond the rule's words: DEDUCED, log entry 9. -/
def execBrMz (x : BitVec 14) (t : BitVec 2) (s : State) : Out :=
  execBranch (.brMz x t) [60, 61, 62] x (fun v => v.all fun w => w == 0) s

/-- BR.mnz (R87). -/
def execBrMnz (x : BitVec 14) (t : BitVec 2) (s : State) : Out :=
  execBranch (.brMnz x t) [60, 61, 62] x (fun v => v.any fun w => w != 0) s

/-- JMP (R87). -/
def execJmp (x : BitVec 14) (t : BitVec 2) (s : State) : Out :=
  execBranch (.jmp x t) [] x (fun _ => true) s

/-- JMP.ind (R87). -/
def execJmpInd (a : BitVec 7) (t : BitVec 2) (s : State) : Out :=
  scalarIssue (.jmpInd a t) { reads := [a.toNat] } (fun s x v => takeTo s x (v.getD 0 0).toNat) s

/-- A call: the word after it goes to s63 (R88). -/
def callTo (s : State) (x : ScIss) (index : Int) : ScRes :=
  takeTo (scPut s x 1 [(63, loWord (x.sp.pc + 1))]) x index

/-- CALL (R88). -/
def execCall (x : BitVec 14) (t : BitVec 2) (s : State) : Out :=
  scalarIssue (.call x t) { reads := [], writes := [(0x05, 63)] } (fun s y _ => callTo s y (directTarget y x)) s

/-- CALL.ind reads its register before s63 is written (R88). -/
def execCallInd (a : BitVec 7) (t : BitVec 2) (s : State) : Out :=
  scalarIssue (.callInd a t) { reads := [a.toNat], writes := [(0x05, 63)] }
    (fun s y v => callTo s y (v.getD 0 0).toNat) s

/-- RET (R88). -/
def execRet (t : BitVec 2) (s : State) : Out :=
  scalarIssue (.ret t) { reads := [63] } (fun s x v => takeTo s x (v.getD 0 0).toNat) s

/-- LOOP (R89). -/
def execLoop (a : BitVec 7) (x : BitVec 14) (t : BitVec 2) (s : State) : Out :=
  scalarIssue (.loop a x t) { reads := [a.toNat], writes := [(0x03, a.toNat)] } (fun s y v =>
    let c := v.getD 0 0 - 1
    let s1 := scPut s y 1 [(a.toNat, c)]
    if c ≠ 0 then takeTo s1 y (directTarget y x) else .done s1) s

/-! ### Batches (R95 to R98) -/

/-- Has the split no batch left, and is every fixed-latency result of its batches written (R98). -/
def laneQuiet (x : ScIss) : Bool :=
  !(x.g.batches.any fun b => b.split == x.ix) && decide (3 * x.sp.laneReady ≤ x.t)

/-- A new entry of the batch queue (R95). -/
def newBatch (x : ScIss) (bid first count : Nat) (mask : LaneMask) : Batch where
  bid := bid
  split := x.ix
  first := first
  count := count
  next := 0
  mask := mask
  fmt := x.sp.fmt
  started := false
  suspended := false
  block := .none
  pipe := none
  nextSlot := 0
  vrunAt := x.t
  spc := x.sp.pc
  seq := x.seq
  hist := []
  served := 0
  ready := 0

/-- VRUN (R95, R96). -/
def execVrun (c : BitVec 4) (l : BitVec 20) (t : BitVec 2) (s : State) : Out :=
  scalarIssue (.vrun c l t) { reads := [60, 61, 62], ban := 2 } (fun s x v =>
    let count := c.toNat + 1
    if x.g.launch.llen < l.toNat + count then
      .fault 0x02 0 (rangeDetail ((l.toNat + count : Nat) : Int) x.g.launch.llen true)
    else if 8 ≤ x.g.batches.length then .hold
    else
      let b := newBatch x s.fresh l.toNat count (maskOf3 (v.getD 0 0) (v.getD 1 0) (v.getD 2 0))
      .done ({ s with fresh := s.fresh + 1 }.modGroup x.g.gid fun g => { g with batches := g.batches ++ [b] })) s

/-- VSYNC (R98). -/
def execVsync (t : BitVec 2) (s : State) : Out :=
  scalarIssue (.vsync t) {} (fun s x _ =>
    if laneQuiet x then
      .done (s.modGroup x.g.gid fun g => g.modSplit x.ix fun sp => { sp with vsyncSeq := x.seq })
    else .hold) s

/-- YIELD counts as an issue, and the split is passed over once (R94). -/
def execYield (t : BitVec 2) (s : State) : Out :=
  scalarIssue (.yield t) {} (fun s x _ =>
    .done (s.modGroup x.g.gid fun g => g.modSplit x.ix fun sp => { sp with passOver := true })) s

/-- NOP and every word of the hint space: no effect beyond its stall count (R77, R107). -/
def execNop (h : BitVec 24) (t : BitVec 2) (s : State) : Out :=
  scalarIssue (.nop h t) {} (fun s _ _ => .done s) s

/-! ### Masks and counters (R100 to R102) -/

/-- A predicate read by a scalar instruction: a lane result that is not yet written may show either value (R38, R97). -/
def scalarPred (s : State) (x : ScIss) (n : Nat) : LaneMask × State :=
  readPred s x.g n (·.seenBy x.ix x.t)

/-- MASKP in each of its forms; `three`: the mask operand is read (R100). -/
def execMaskp (i : Instr) (d : BitVec 6) (a : Nat) (three : Bool) (b : BitVec 7) (f : LaneMask → LaneMask → LaneMask)
    (s : State) : Out :=
  scalarIssue i { reads := if three then [a, a + 1, a + 2] else [],
                  writes := [(0x02, d.toNat), (0x02, d.toNat + 1), (0x02, d.toNat + 2)] }
    (fun s x v =>
      let (p, s1) := scalarPred s x b.toNat
      let m := f p (maskOf3 (v.getD 0 0) (v.getD 1 0) (v.getD 2 0))
      .done (scPut s1 x 2 [(d.toNat, maskWord m 0), (d.toNat + 1, maskWord m 1), (d.toNat + 2, maskWord m 2)])) s

/-- MASKP.mov (R100). -/
def execMaskpMov (d : BitVec 6) (b : BitVec 7) (t : BitVec 2) (s : State) : Out :=
  execMaskp (.maskpMov d b t) d 0 false b (fun p _ => p) s

/-- MASKP.and (R100). -/
def execMaskpAnd (d : BitVec 6) (a b : BitVec 7) (t : BitVec 2) (s : State) : Out :=
  execMaskp (.maskpAnd d a b t) d a.toNat true b (fun p m => p &&& m) s

/-- MASKP.andn (R100). -/
def execMaskpAndn (d : BitVec 6) (a b : BitVec 7) (t : BitVec 2) (s : State) : Out :=
  execMaskp (.maskpAndn d a b t) d a.toNat true b (fun p m => m &&& ~~~p) s

/-- MASKP.or (R100). -/
def execMaskpOr (d : BitVec 6) (a b : BitVec 7) (t : BitVec 2) (s : State) : Out :=
  execMaskp (.maskpOr d a b t) d a.toNat true b (fun p m => p ||| m) s

/-- WAITC (R101). -/
def execWaitc (d : BitVec 6) (i : BitVec 8) (t : BitVec 2) (s : State) : Out :=
  scalarIssue (.waitc d i t) {} (fun s x _ => if x.g.wcGet d.toNat ≤ i.toNat then .done s else .hold) s

/-! ### The format register (R51, R103, R104) -/

/-- The type codes that ATYPE and BTYPE take (R51). -/
def fmtTypes : List Nat := [0x61, 0x71, 0x11, 0x80, 0x52, 0x42]

/-- The whole-register values that SETFMT accepts (R103). -/
def fmtOk (a : Nat) : Bool :=
  a < 2 ^ 22 && a / 2 ^ 20 < 2 && fmtTypes.contains (a / 2 ^ 4 % 256) && fmtTypes.contains (a / 2 ^ 12 % 256)

/-- The format register with `n` bits from bit `lo` replaced. -/
def putBits (w : Word) (lo n x : Nat) : Word :=
  BitVec.ofNat 32 (w.toNat / 2 ^ (lo + n) * 2 ^ (lo + n) + x % 2 ^ n * 2 ^ lo + w.toNat % 2 ^ lo)

/-- SETFMT in each of its forms: the value checked and the new register (R103). -/
def execSetFmt (i : Instr) (reads : List Nat) (fn : Nat) (value : List Word → Nat) (ok : Nat → Bool)
    (upd : Word → Nat → Word) (s : State) : Out :=
  scalarIssue i { reads := reads } (fun s x v =>
    let a := value v
    if ok a then .done (s.modGroup x.g.gid fun g => g.modSplit x.ix fun sp => { sp with fmt := upd sp.fmt a })
    else .fault 0x07 0 (a + 2 ^ 32 * fn)) s

/-- SETFMT (R103). -/
def execSetfmt (a : BitVec 7) (t : BitVec 2) (s : State) : Out :=
  execSetFmt (.setfmt a t) [a.toNat] 0 (fun v => (v.getD 0 0).toNat) fmtOk (fun _ x => loWord x) s

/-- SETFMT.rnd (R103). -/
def execSetfmtRnd (i : BitVec 8) (t : BitVec 2) (s : State) : Out :=
  execSetFmt (.setfmtRnd i t) [] 1 (fun _ => i.toNat) (fun _ => true) (fun w x => putBits w 0 2 x) s

/-- SETFMT.ftz: FTZO := m[1], FTZI := m[0] (R103). -/
def execSetfmtFtz (i : BitVec 8) (t : BitVec 2) (s : State) : Out :=
  execSetFmt (.setfmtFtz i t) [] 2 (fun _ => i.toNat) (fun _ => true) (fun w x => putBits w 2 2 x) s

/-- SETFMT.atype (R103). -/
def execSetfmtAtype (i : BitVec 8) (t : BitVec 2) (s : State) : Out :=
  execSetFmt (.setfmtAtype i t) [] 3 (fun _ => i.toNat) (fun a => fmtTypes.contains a) (fun w x => putBits w 4 8 x) s

/-- SETFMT.btype (R103). -/
def execSetfmtBtype (i : BitVec 8) (t : BitVec 2) (s : State) : Out :=
  execSetFmt (.setfmtBtype i t) [] 4 (fun _ => i.toNat) (fun a => fmtTypes.contains a) (fun w x => putBits w 12 8 x) s

/-- SETFMT.smode (R103). -/
def execSetfmtSmode (i : BitVec 8) (t : BitVec 2) (s : State) : Out :=
  execSetFmt (.setfmtSmode i t) [] 5 (fun _ => i.toNat) (fun a => decide (a < 2)) (fun w x => putBits w 20 2 x) s

/-- GETFMT: bits 31:22 read as zero (R104). -/
def execGetfmt (d : BitVec 6) (t : BitVec 2) (s : State) : Out :=
  scalarIssue (.getfmt d t) { writes := [(0x02, d.toNat)] } (fun s x _ =>
    .done (scPut s x 2 [(d.toNat, loWord (x.sp.fmt.toNat % 2 ^ 22))])) s

/-! ### Special registers (R56 to R58, R105) -/

/-- GSTAT (R57), with EMPTY as it is read. -/
def gstatOf (g : Group) (empty : Bool) : Nat :=
  (if empty then 1 else 0) + (if g.handler.isSome then 2 else 0) + (if g.stallchk then 4 else 0)

/-- CYCLES at cycle `t` (R56). -/
def cyclesOf (g : Group) (t : Nat) : Nat := g.cycBefore + (t - g.cycSince)

/-- The special registers other than GSTAT (R56). -/
def specialReg (x : ScIss) (n : Nat) : Nat :=
  match n with
  | 0x00 => x.g.core
  | 0x01 => x.g.core / 12
  | 0x02 => x.g.core / 36
  | 0x03 => x.g.slot
  | 0x04 => if x.ix = 8 then 0 else x.ix
  | 0x05 => x.g.vd
  | 0x06 => x.g.vd
  | 0x07 => x.g.gen % 2 ^ 16
  | 0x08 => x.g.launch.lid.toNat
  | 0x09 => x.g.launch.vregs
  | 0x0A => x.g.spRows
  | 0x0B => x.g.accRows
  | 0x0D => cyclesOf x.g x.t
  | _ => 0

/-- GSTAT.EMPTY as a scalar instruction finds it (R97, R105). -/
def readEmpty (s : State) (x : ScIss) : Bool × State :=
  let (l, s1) := readReg s x.g x.ix (·.seenBy x.ix x.t) .empty [if x.g.empty then 1 else 0]
  (l.headD 0 != 0, s1)

/-- RDSR (R105). -/
def execRdsr (d : BitVec 6) (i : BitVec 8) (t : BitVec 2) (s : State) : Out :=
  scalarIssue (.rdsr d i t) { writes := [(0x02, d.toNat)] } (fun s x _ =>
    if i.toNat = 0x0C then
      let (b, s1) := readEmpty s x
      .done (scPut s1 x 2 [(d.toNat, loWord (gstatOf x.g b))])
    else .done (scPut s x 2 [(d.toNat, loWord (specialReg x i.toNat))])) s

/-- EMPTY cleared in cycle `t` (R57): the settings still on their way arrive after it, the first of them over a 0. -/
def clearEmpty (g : Group) (t : Nat) : Group :=
  let late (p : Pend) : Bool := p.reg == .empty && decide (t < p.ready)
  let rec first : List Pend → List Pend
    | [] => []
    | p :: l => if late p then { p with old := [0] } :: l else p :: first l
  { g with empty := g.pend.any late, pend := (first g.pend).filter fun p => p.reg != .empty || late p }

/-- WRSR: only a 1 written to bit 0 of GSTAT acts (R57, R58, R105). -/
def execWrsr (a : BitVec 7) (i : BitVec 8) (t : BitVec 2) (s : State) : Out :=
  scalarIssue (.wrsr a i t) { reads := [a.toNat] } (fun s x v =>
    if i.toNat = 0x0C ∧ (v.getD 0 0).toNat % 2 = 1 then .done (s.modGroup x.g.gid fun g => clearEmpty g x.t)
    else .done s) s

/-! ### TRAP (R106) -/

/-- TRAP (R106). -/
def execTrap (i : BitVec 8) (t : BitVec 2) (s : State) : Out :=
  scalarIssue (.trap i t) {} (fun _ _ _ => .fault 0x03 0 i.toNat) s

/-- TRAP.val (R106). -/
def execTrapVal (a : BitVec 7) (i : BitVec 8) (t : BitVec 2) (s : State) : Out :=
  scalarIssue (.trapVal a i t) { reads := [a.toNat] } (fun _ _ v =>
    .fault 0x03 0 (i.toNat + 2 ^ 32 * (v.getD 0 0).toNat)) s

/-! ### Splits (R179 to R184) -/

/-- Is the entry waiting at JOIN. -/
def Split.joining? (sp : Split) : Bool := sp.state == .joining
/-- Is the entry live (R182). -/
def Split.live? (sp : Split) : Bool := sp.state != .free

/-- May the waiting set with rejoin mask `j` merge (R182). -/
def canMerge (sps : List Split) (j : LaneMask) : Bool :=
  sps.all fun sp => !sp.live? || (sp.joining? && sp.rejoin == j) || (sp.mask &&& j) == 0

/-- The rejoin masks of the waiting splits. -/
def rejoinMasks (sps : List Split) : List LaneMask := (sps.filter Split.joining?).map (·.rejoin)

/-- Every live split waits at JOIN and no waiting set can merge (R184). -/
def joinStuck (g : Group) : Bool :=
  g.handler.isNone && (g.splits.any Split.live?) && (g.splits.all fun sp => !sp.live? || sp.joining?) &&
  !((rejoinMasks g.splits).any fun j => canMerge g.splits j)

/-- The join-deadlock fault of every live split (R467). -/
def joinFaults (g : Group) : List FaultRec :=
  let detail := (g.liveSplits.map fun i => 2 ^ i).sum
  g.liveSplits.filterMap fun i => (g.splits[i]?).map fun sp =>
    { who := i, code := 0x09, addr := 0, detail := detail, insn := sp.word, laneIns := false, lane := 127,
      spc := sp.pc, lpc := 0, low := issuerLow g i none }

/-- The join-deadlock test, made after the events of a cycle (R467). -/
def joinTest (s : State) (gid t : Nat) : State :=
  match s.group? gid with
  | none => s
  | some g => if g.status = .running ∧ joinStuck g then (joinFaults g).foldl (fun st f => raiseFault st gid t f) s else s

/-- The faults of a scalar result that ends or parks a split are tested with it. -/
def thenJoinTest (x : ScIss) : ScRes → ScRes
  | .stay s => .stay (joinTest s x.g.gid x.t)
  | .over s => .over (joinTest s x.g.gid x.t)
  | r => r

/-- SPLIT and SPLIT.not (R180). -/
def execSplitBy (i : Instr) (a : BitVec 7) (disp : BitVec 14) (inv : Bool) (s : State) : Out :=
  scalarIssue i { reads := [a.toNat, a.toNat + 1, a.toNat + 2] ++ (upto 16).map (· + 48), ban := 2 } (fun s x v =>
    if x.g.locks.any fun k => k.1 == x.ix && 48 ≤ k.2 then .hold
    else
      let m0 := maskOf3 (v.getD 0 0) (v.getD 1 0) (v.getD 2 0)
      let m := if inv then ~~~m0 else m0
      let own := v.drop 3
      let c := maskOf3 (own.getD 12 0) (own.getD 13 0) (own.getD 14 0)
      let tk := c &&& m
      let fl := c &&& ~~~m
      let target := directTarget x disp
      if tk = 0 then .done s
      else if fl = 0 then takeTo s x target
      else if target < 0 ∨ (codeLen x.g x.ix : Int) ≤ target then
        .fault 0x02 0 (rangeDetail target (codeLen x.g x.ix) false)
      else
        match (upto 8).find? fun e => ((x.g.splits[e]?).map (·.state)).getD .running = .free with
        | none => .fault 0x08 0 (target.toNat % 2 ^ 20 + 2 ^ 32 * maskCount tk + 2 ^ 40 * maskCount fl)
        | some e =>
          let child := (freshSplit target.toNat (x.t + 2) own x.sp.fmt x.seq).setMask tk
          let s1 := scPut s x 1 [(60, maskWord fl 0), (61, maskWord fl 1), (62, maskWord fl 2)]
          .done (s1.modGroup x.g.gid fun g =>
            (g.setSplit e { child with lastIssue := x.t }).modSplit x.ix fun sp => { sp with saved := sp.fmt })) s

/-- SPLIT (R180). -/
def execSplit (a : BitVec 7) (x : BitVec 14) (t : BitVec 2) (s : State) : Out :=
  execSplitBy (.split a x t) a x false s

/-- SPLIT.not (R180). -/
def execSplitNot (a : BitVec 7) (x : BitVec 14) (t : BitVec 2) (s : State) : Out :=
  execSplitBy (.splitNot a x t) a x true s

/-- JOIN: waits as VSYNC does, then enters the waiting state with its rejoin mask (R181). -/
def execJoinBy (i : Instr) (reads : List Nat) (f : List Word → LaneMask) (s : State) : Out :=
  scalarIssue i { reads := reads, ban := 2 } (fun s x v =>
    if laneQuiet x then
      thenJoinTest x <| .stay (s.modGroup x.g.gid fun g => g.modSplit x.ix fun sp =>
        { sp with state := .joining, rejoin := f v, vsyncSeq := x.seq, word := x.word })
    else .hold) s

/-- JOIN (R181). -/
def execJoin (a : BitVec 7) (t : BitVec 2) (s : State) : Out :=
  execJoinBy (.join a t) [a.toNat, a.toNat + 1, a.toNat + 2]
    (fun v => maskOf3 (v.getD 0 0) (v.getD 1 0) (v.getD 2 0)) s

/-- JOIN.all (R181). -/
def execJoinAll (t : BitVec 2) (s : State) : Out :=
  execJoinBy (.joinAll t) [] (fun _ => ~~~(0 : LaneMask)) s

/-- The members of a waiting set (R182). -/
def waiters (g : Group) (j : LaneMask) : List Nat :=
  (upto 8).filter fun i => ((g.splits[i]?).map fun sp => sp.joining? && sp.rejoin == j).getD false

/-- The merge of one waiting set at cycle `t` (R182). -/
def mergeSet (t : Nat) (g : Group) (j : LaneMask) : Group :=
  match waiters g j with
  | [] => g
  | p :: rest =>
    let m := (p :: rest).foldl (fun acc i => acc ||| ((g.splits[i]?).map (·.mask)).getD 0) 0
    let g1 := g.modSplit p fun sp =>
      { sp.setMask m with state := .running, pc := sp.pc + 1, earliest := max sp.earliest (t + 1),
                          fmt := if rest = [] then sp.fmt else sp.saved }
    rest.foldl (fun h i => h.endSplit i) g1

/-- Every waiting set of a group that can merge merges at cycle `t` (R182, R183). -/
def mergeReady (t : Nat) (g : Group) : Group :=
  if g.status = .running ∧ g.handler = none then
    ((rejoinMasks g.splits).eraseDups.filter (canMerge g.splits)).foldl (mergeSet t) g
  else g

/-- The merges of a core's groups at the end of the cycle that it has reached: they come before the next issue (R182, R183). -/
def mergeGroups (s : State) (core : Nat) : State :=
  { s with groups := s.groups.map fun g => if g.core = core then mergeReady (s.now core) g else g }

/-- JOIN_MERGE: every waiting set of a group that can merge merges (R182, R183). -/
def execJoinMerge (gid : Nat) (s : State) : Out :=
  match s.group? gid with
  | none => .next s
  | some g => .next (s.setGroup (mergeReady (s.now g.core) g))

/-- EXIT waits as VSYNC does, then ends the split (R93); its end may let others merge or leave them stuck (R183). -/
def execExit (t : BitVec 2) (s : State) : Out :=
  scalarIssue (.exit t) { ban := 2 } (fun s x _ =>
    if laneQuiet x then
      thenJoinTest x <| .over (s.modGroup x.g.gid fun g => g.endSplit x.ix)
    else .hold) s

end Sys2Proof.Machine
end

