-- ==== Sys2Proof/Machine/Lanes.lean ====
section
/-! DEFINITION. Issuing a lane instruction: the checks of R457 in their order, every operand form (R64 to R67, R109, R151),
guards (R50), the last-result file (R48, R49), the scoreboards (R55, R178), and the writing of its results (R44, R71). -/

namespace Sys2Proof.Machine

/-- A lane instruction at its issue. -/
structure LnIss where
  g : Group
  b : Batch
  slot : Nat
  op : Nat
  l : LaneF
  sh : LaneShape
  /-- Its issue number. -/
  seq : Nat
  deriving DecidableEq, Repr

/-- The operand values: one list of 96 words for each register of a field; the predicate fields; the active lanes. -/
structure LaneVals where
  a : List (List Word)
  b : List (List Word)
  c : List (List Word)
  d : List (List Word)
  pa : LaneMask
  pb : LaneMask
  pc : LaneMask
  pd : LaneMask
  act : LaneMask
  deriving DecidableEq, Repr

/-- The results of a lane instruction, of its latency; lanes outside the active ones are not written. -/
structure LaneOut where
  /-- The destination register and, for pairs, the next one. -/
  dst : List (List Word) := []
  /-- The register that src a names (VCMPX). -/
  pay : Option (List Word) := none
  /-- The lanes, of the active ones, in which the destination and the payload are written (VCMPX). -/
  lanes : LaneMask := fullMask
  /-- A predicate and its values. -/
  pred : Option (Nat × LaneMask) := none
  /-- Flags raised in each lane (R154). -/
  flags : Option (List Flags) := none
  /-- Flags that VFLAGS leaves in each active lane, at once (R169), and whether it writes them (R154). -/
  setFlags : Option (List Flags) := none
  wrFlags : Bool := false
  /-- Scalar registers. -/
  scal : List (Nat × Word) := []
  empty : Bool := false
  /-- The destination receives counted values (R48). -/
  counted : Bool := false
  deriving DecidableEq, Repr

/-- How a lane instruction ends. -/
inductive LnRes where
  | out (s : State) (o : LaneOut)
  /-- It waits off the pipeline: the batch is suspended (R178). -/
  | wait (s : State) (b : Block)
  /-- It holds the pipeline (R54). -/
  | hold
  /-- A fault: failing lane, code, address, DETAIL. -/
  | fault (lane code addr detail : Nat)
  /-- Its group has taken the instruction out of the batch by itself. -/
  | over (s : State)
  deriving DecidableEq, Repr

/-! ### Registers of a field -/

/-- `n` registers from a v or o specifier. -/
def laneRegs (x n : Nat) : List PReg :=
  (upto n).map fun i => if x < 0x100 then .v (x + i) else .o (x - 0x100 + i)

/-- The registers that a field reads (R64, R65, R109). -/
def fieldReads (k : FieldKind) (x : Nat) : List PReg :=
  let src := fun n =>
    if isV x || isO x then laneRegs x n else if isS x then (upto n).map fun i => .s (x - 0x340 + i) else []
  match k with
  | .dst n true => if isV x || isO x then laneRegs x n else []
  | .src n .. => src n
  | .base => src 2
  | .reg n _ => laneRegs x n
  | .pred true _ => [.p x]
  | .mask3 => if isS x then (upto 3).map fun i => .s (x - 0x340 + i) else []
  | .laneNo => src 1
  | _ => []

/-- The registers that a field writes. -/
def fieldWrites (k : FieldKind) (x : Nat) : List PReg :=
  match k with
  | .dst n _ => if isV x || isO x then laneRegs x n else []
  | .dstOrScalar => if isV x || isO x then laneRegs x 1 else if isS x then [.s (x - 0x340)] else []
  | .scalarDst n _ => (upto n).map fun i => .s (x - 0x340 + i)
  | .reg n true => laneRegs x n
  | .pred _ true => [.p x]
  | _ => []

/-- The specifier by which DETAIL names a register (R462). -/
def PReg.spec : PReg → Nat
  | .s n => 0x340 + n
  | .v n => n
  | .o n => 0x100 + n
  | .p n => 0x380 + n
  | .flags => 0x3A0
  | .empty => 0

/-- The four operand fields with their identifiers, sources first, as R465 orders them. -/
def laneFieldList (sh : LaneShape) (l : LaneF) : List (Nat × FieldKind × Nat) :=
  [(0x14, sh.a, l.a.toNat), (0x15, sh.b, l.b.toNat), (0x16, sh.c, l.c.toNat), (0x13, sh.dst, l.dst.toNat)]

/-! ### The checks -/

/-- The lanes of a batch whose guard passes (R50). Beyond the rule's words: DEDUCED, log entry 12. -/
def guardLanes (l : LaneF) (p : LaneMask) : LaneMask :=
  if l.guard = 31 then ~~~(0 : LaneMask) else if l.inv = 1 then ~~~p else p

/-- LANE of a fault of the encoding: the lowest active lane (R457). A word with an unassigned opcode, or with a guard value that
names no predicate, has no guard that could exclude a lane (log entry 12). -/
def wordLane (g : Group) (b : Batch) (op : Nat) (l : LaneF) : Nat :=
  let n := l.guard.toNat
  if laneShape op l = none ∨ (24 ≤ n ∧ n < 31) then lowestLane b.mask
  else lowestLane (b.mask &&& guardLanes l (g.preds.getD n 0))

/-- DETAIL of the register-out-of-allocation fault, if some field passes the count (R46, R462). -/
def rangeBreach (count : Nat) : List (Nat × FieldKind × Nat) → Option Nat
  | [] => none
  | (fid, k, x) :: l =>
    let top := (fieldReads k x ++ fieldWrites k x).foldl (fun m r => match r with
      | .v n => max m (n + 1)
      | _ => m) 0
    if count < top then some (max x count + 2 ^ 16 * count + 2 ^ 32 * fid) else rangeBreach count l

/-- DETAIL of the last-result fault, if some h source has no result (R49, R462). -/
def hBreach (b : Batch) : List (Nat × FieldKind × Nat) → Option Nat
  | [] => none
  | (fid, k, x) :: l =>
    match k with
    | .src .. =>
      if isH x then
        match b.hist[x - 0x200]? with
        | none => some (x - 0x200 + 2 ^ 32 * fid)
        | some .noResult => some (x - 0x200 + 2 ^ 8 + 2 ^ 32 * fid)
        | _ => hBreach b l
      else hBreach b l
    | _ => hBreach b l

/-- How a lane instruction finds a result (R44, R71, R73, R97): one of its own split that its scalar stream issued after the
batch's VRUN either way, any other of its own split from its ready cycle on and either way before; one of another split from
the cycle after it is written. Beyond the rule's words: DEDUCED, log entry 14. -/
def lnSeen (x : LnIss) (p : Pend) : Seen :=
  if p.split = x.b.split ∧ p.scalar ∧ x.b.seq < p.seq then .free else p.seenBy x.b.split (3 * x.slot)

/-- The lanes that an instruction reads: all of them for the cross-lane ones (R122). -/
def lanesRead (op : Nat) (act : LaneMask) : LaneMask := if 0x060 ≤ op ∧ op ≤ 0x065 then ~~~(0 : LaneMask) else act

/-- The stall check of one register: DETAIL of the fault (R462, R464). A scalar result from before the VRUN is checked; one from
after it is not (R97). -/
def lnShort (x : LnIss) (r : PReg) : Option Nat :=
  let m := match r with
    | .s _ => fullMask
    | _ => lanesRead x.op x.b.mask
  (shortOf (lnSeen x) (fun p => p.split == x.b.split && !(p.scalar && decide (x.b.seq < p.seq))) m
    (pendHits x.g x.b.split r).reverse).map fun p =>
      r.spec + (if p.scalar then 2 ^ 11 else 0) + 2 ^ 12 * (p.prod % 2 ^ 20) + 2 ^ 32 * (((p.ready + 2) / 3 - x.slot) % 2 ^ 8)

/-- The stall check of an h source. -/
def hShort (x : LnIss) (spec : Nat) : Option Nat :=
  match x.b.hist[spec - 0x200]? with
  | some (.vals _ _ ready prod) =>
    if x.slot < ready then some (spec + 2 ^ 12 * (prod % 2 ^ 20) + 2 ^ 32 * ((ready - x.slot) % 2 ^ 8)) else none
  | _ => none

/-- The stall check of one field. -/
def fieldShort (x : LnIss) (k : FieldKind) (spec : Nat) : Option Nat :=
  match k with
  | .src .. => if isH spec then hShort x spec else (fieldReads k spec).findSome? (lnShort x)
  | _ => (fieldReads k spec).findSome? (lnShort x)

/-- The stall check in the order src a, src b, src c, guard, then the old destination and the flags (R464, R465). -/
def laneStall (x : LnIss) : Option Nat :=
  let l := x.l
  ((fieldShort x x.sh.a l.a.toNat).or ((fieldShort x x.sh.b l.b.toNat).or (fieldShort x x.sh.c l.c.toNat))).or
    (((if l.guard.toNat < 24 then lnShort x (.p l.guard.toNat) else none).or (fieldShort x x.sh.dst l.dst.toNat)).or
      (if x.op = 0x095 then lnShort x .flags else none))

/-- A register that the scoreboard holds: for a read, or for a write too (R55). -/
def lnLocked (g : Group) (split : Nat) (write : Bool) : PReg → Bool
  | .s n => scLocked g split n
  | .v n => g.vlocks.any fun k => k.1 == n && (write || !k.2.1)
  | .o n => g.vlocks.any fun k => k.1 == 0x100 + n && (write || !k.2.1)
  | _ => false

/-- Does the scoreboard hold the instruction; an h source of a counted destination is held as that destination is. -/
def laneLocked (x : LnIss) : Bool :=
  (laneFieldList x.sh x.l).any fun f =>
    ((fieldReads f.2.1 f.2.2).any (lnLocked x.g x.b.split false)) ||
    ((fieldWrites f.2.1 f.2.2).any (lnLocked x.g x.b.split true)) ||
    (match f.2.1 with
     | .src .. => isH f.2.2 && (match x.b.hist[f.2.2 - 0x200]? with
        | some (.dest spec) => (laneRegs spec 1).any (lnLocked x.g x.b.split false)
        | _ => false)
     | _ => false)

/-- The poisoned elements of register rows and the operand file that an instruction reads: lane and DETAIL of the lowest
(R474, R483). -/
def poisonRead (s : State) (g : Group) (regs : List PReg) (lanesRead : LaneMask) : Option (Nat × Nat) :=
  let hit := (s.core g.core).poison.filter fun p =>
    laneBit lanesRead p.2.2 && regs.any fun r => match r with
      | .v n => p.1 == 0 && p.2.1 == g.rowBase + n
      | .o n => p.1 == 1 && p.2.1 == 16 * g.slot + n
      | _ => false
  (hit.foldl (fun (m : Option (Nat × Nat × Nat)) p => match m with
    | some q => if p.2.2 < q.2.2 then some p else some q
    | none => some p) none).map fun p => (p.2.2, p.1 + 2 ^ 8 * g.core + 2 ^ 16 * p.2.1 + 2 ^ 32 * p.2.2)

/-! ### Reading operands -/

/-- imm8 widened as the type says (R67, R152), as a 64-bit number. -/
def immNumber (t imm : Nat) : Nat :=
  match t with
  | 0x42 | 0x43 | 0x52 => (enc (fmtOf t) (dec fmtE4m3 imm false) .rne false false).1
  | 0x10 | 0x11 | 0x12 | 0x13 | 0x14 | 0x33 => wrapN (sInt 8 imm) 64
  | _ => imm

/-- The same word in every lane. -/
def allLanes (w : Word) : List Word := List.replicate 96 w

/-- One lane register in all lanes, or a scalar register in every lane. -/
def readLaneReg (s : State) (x : LnIss) (r : PReg) : List Word × State :=
  match r with
  | .v n => readReg s x.g x.b.split (lnSeen x) r (x.g.vval n)
  | .o n => readReg s x.g x.b.split (lnSeen x) r (x.g.vval (0x100 + n))
  | .s n => let (l, s1) := readReg s x.g x.b.split (lnSeen x) r [x.g.sval x.b.split n]; (allLanes (l.headD 0), s1)
  | _ => ([], s)

/-- Registers read one after another. -/
def readLaneRegs (s : State) (x : LnIss) : List PReg → List (List Word) × State
  | [] => ([], s)
  | r :: l =>
    let (v, s1) := readLaneReg s x r
    let (vs, s2) := readLaneRegs s1 x l
    (v :: vs, s2)

/-- An h source (R48): a result not yet readable may show the value from before in each lane. -/
def readH (s : State) (x : LnIss) (n : Nat) : List Word × State :=
  match x.b.hist[n]? with
  | some (.vals new old ready _) =>
    if x.slot < ready then earlyH s (fit 0 96 new) (fit 0 96 old) else (fit 0 96 new, s)
  | some (.dest spec) => (x.g.vval spec, s)
  | _ => (allLanes 0, s)
where
  earlyH (s : State) : List Word → List Word → List Word × State
    | y :: ys, o :: os =>
      let (w, s1) := readCell s y [(.free, o)]
      let (ws, s2) := earlyH s1 ys os
      (w :: ws, s2)
    | _, _ => ([], s)

/-- The registers of a source of `n` words; `t` widens imm8. -/
def readSource (s : State) (x : LnIss) (spec n t : Nat) : List (List Word) × State :=
  if isH spec then let (v, s1) := readH s x (spec - 0x200); ([v], s1)
  else if isK spec then ((upto n).map fun i => allLanes (x.g.sval 0 (64 + (spec - 0x300) + i)), s)
  else if spec = 0x3FF then
    let v := immNumber t x.l.imm.toNat
    ((upto n).map fun i => allLanes (BitVec.ofNat 32 (v / 2 ^ (32 * i))), s)
  else if spec = 0x3FE then ((upto n).map fun _ => allLanes 0, s)
  else readLaneRegs s x (if isS spec then (upto n).map fun i => .s (spec - 0x340 + i) else laneRegs spec n)

/-- One operand field (R64 to R66). -/
def readField1 (s : State) (x : LnIss) (k : FieldKind) (spec t : Nat) : List (List Word) × State :=
  match k with
  | .src n .. => readSource s x spec n t
  | .base => readSource s x spec 2 t
  | .laneNo => readSource s x spec 1 t
  | .mask3 => if isK spec then readSource s x spec 3 t else readLaneRegs s x (fieldReads k spec)
  | .pred _ _ => ([], s)
  | _ => readLaneRegs s x (fieldReads k spec)

/-- One predicate field, or zero. -/
def readPredField (s : State) (x : LnIss) (k : FieldKind) (spec : Nat) : LaneMask × State :=
  match k with
  | .pred true _ => readPred s x.g spec (lnSeen x)
  | _ => (0, s)

/-- The type by which imm8 is widened in src a, src b and dst: the source type for VCVT and VPACK (R152), ZInt for memory
offsets, VSPAWN and the matrix family (R187, R201, R248). -/
def immType (op : Nat) (l : LaneF) : Nat :=
  if op = 0x090 ∨ op = 0x091 then l.ext.toNat % 256
  else if (0x0C0 ≤ op ∧ op ≤ 0x0C5) ∨ op = 0x0E0 ∨ 0x100 ≤ op then tyZ32
  else l.ty.toNat

/-- The type by which imm8 is widened in src c: VATOM's own type for its operand d (R67, R215). -/
def immTypeC (op : Nat) (l : LaneF) : Nat := if op = 0x0C4 then l.ty.toNat else immType op l

/-- All operands of a lane instruction. -/
def readOperands (s : State) (x : LnIss) : LaneVals × State :=
  let l := x.l
  let t := immType x.op l
  let (a, s1) := readField1 s x x.sh.a l.a.toNat t
  let (b, s2) := readField1 s1 x x.sh.b l.b.toNat t
  let (c, s3) := readField1 s2 x x.sh.c l.c.toNat (immTypeC x.op l)
  let (d, s4) := readField1 s3 x x.sh.dst l.dst.toNat t
  let (pa, s5) := readPredField s4 x x.sh.a l.a.toNat
  let (pb, s6) := readPredField s5 x x.sh.b l.b.toNat
  let (pc, s7) := readPredField s6 x x.sh.c l.c.toNat
  let (pd, s8) := readPredField s7 x x.sh.dst l.dst.toNat
  let (gp, s9) := if l.guard.toNat < 24 then readPred s8 x.g l.guard.toNat (lnSeen x) else (x.g.preds.getD l.guard.toNat 0, s8)
  ({ a := a, b := b, c := c, d := d, pa := pa, pb := pb, pc := pc, pd := pd,
     act := x.b.mask &&& guardLanes l gp }, s9)

/-! ### Writing results -/

/-- The entry of a result of a lane instruction of latency `lat` in the lanes of a mask (R71). -/
def lnPend (x : LnIss) (lat : Nat) (r : PReg) (m : LaneMask) : Pend :=
  { reg := r, split := x.b.split, issued := 3 * x.slot, ready := 3 * (x.slot + lat), mask := m, old := [],
    prod := x.b.first + x.b.next, scalar := false, seq := x.seq }

/-- One lane register written in the lanes of a mask. -/
def lnWrite (x : LnIss) (lat : Nat) (act : LaneMask) (g : Group) (r : PReg) (w : List Word) : Group :=
  g.putResult (lnPend x lat r act) (g.vval r.spec) w fun v k => k.vset r.spec v

/-- Several lane registers written. -/
def lnWrites (x : LnIss) (lat : Nat) (act : LaneMask) (g : Group) : List PReg → List (List Word) → Group
  | r :: rs, w :: ws => lnWrites x lat act (lnWrite x lat act g r w) rs ws
  | _, _ => g

/-- The destination registers of a lane instruction; none for the discard specifier. -/
def dstRegs (x : LnIss) : List PReg :=
  (fieldWrites x.sh.dst x.l.dst.toNat).filter fun r => match r with
    | .v _ => true
    | .o _ => true
    | _ => false

/-- What the last-result file holds for the instruction (R48). Beyond the rule's words: DEDUCED, log entry 13. -/
def hEntryOf (x : LnIss) (g0 g1 : Group) (lat : Nat) (o : LaneOut) : HEntry :=
  if x.op = 0x102 then .noResult else match x.sh.dst with
  | .unused => .noResult
  | .pred _ _ => .noResult
  | _ =>
    match dstRegs x with
    | r :: _ =>
      if o.counted then .dest r.spec
      else .vals (g1.vval r.spec) (g0.vval r.spec) (x.slot + lat) (x.b.first + x.b.next)
    | [] => .vals (allLanes 0) (allLanes 0) 0 0

/-- The lane registers written: the destination's, and the payload's (R44, R130). -/
def lnLanes (x : LnIss) (v : LaneVals) (lat : Nat) (o : LaneOut) (g : Group) : Group :=
  let m := v.act &&& o.lanes
  let g1 := lnWrites x lat m g (dstRegs x) o.dst
  match o.pay with
  | some w => lnWrites x lat m g1 (laneRegs x.l.a.toNat 1) [w]
  | none => g1

/-- The predicate written (R42). -/
def lnPred (x : LnIss) (v : LaneVals) (lat : Nat) (p : Option (Nat × LaneMask)) (g : Group) : Group :=
  match p with
  | some (n, m) => g.putResult (lnPend x lat (.p n) v.act) (maskList (g.preds.getD n 0)) (maskList m) fun w k =>
      { k with preds := padSet 0 k.preds n (listMask w) }
  | none => g

/-- The arrived flags that VFLAGS leaves in the active lanes (R154, R169). -/
def lnSetFlags (v : LaneVals) (f : Option (List Flags)) (wr : Bool) (g : Group) : Group :=
  match f with
  | some fs =>
    { g with flags := ((fit 0 96 g.flags).zip (fit 0 96 fs)).zipIdx.map (fun p => if laneBit v.act p.2 then p.1.2 else p.1.1),
             fturn := g.fturn.map fun u => if wr then { u with wrote := u.wrote ||| v.act } else u }
  | none => g

/-- The flags raised in the active lanes (R53, R154). -/
def lnRaise (x : LnIss) (v : LaneVals) (lat : Nat) (f : Option (List Flags)) (g : Group) : Group :=
  match f with
  | some fs => { g.raiseAt (x.slot + lat) (maskFlags v.act 0 fs) with pend := g.pend ++ [lnPend x lat .flags v.act] }
  | none => g

/-- One scalar register written. -/
def lnScal (x : LnIss) (lat : Nat) (g : Group) (w : Nat × Word) : Group :=
  g.putResult (lnPend x lat (.s w.1) fullMask) [g.sval x.b.split w.1] [w.2] fun v k => k.sset x.b.split w.1 (v.headD 0)

/-- The empty bit set (R53). -/
def lnEmpty (x : LnIss) (lat : Nat) (e : Bool) (g : Group) : Group :=
  if e then g.putResult (lnPend x lat .empty fullMask) [if g.empty then 1 else 0] [1] fun _ k => { k with empty := true } else g

/-- The group with the results of a lane instruction of latency `lat` (R44, R53, R71, R154). -/
def lnCommit (x : LnIss) (v : LaneVals) (lat : Nat) (o : LaneOut) (g : Group) : Group :=
  lnEmpty x lat o.empty (o.scal.foldl (lnScal x lat)
    (lnRaise x v lat o.flags (lnSetFlags v o.setFlags o.wrFlags (lnPred x v lat o.pred (lnLanes x v lat o g)))))

/-- A full 32-bit write clears the poison of an element (R483). -/
def unpoison (s : State) (g : Group) (regs : List PReg) (m : LaneMask) : State :=
  if (s.core g.core).poison = [] then s
  else s.modCore g.core fun k => { k with poison := k.poison.filter fun p =>
    !(laneBit m p.2.2 && regs.any fun r => match r with
      | .v n => p.1 == 0 && p.2.1 == g.rowBase + n
      | .o n => p.1 == 1 && p.2.1 == 16 * g.slot + n
      | _ => false) }

/-! ### The end of an issue -/

/-- The pipeline that runs a batch may issue another from a slot on (R177). -/
def pipeFrom (s : State) (core : Nat) (p : Option Nat) (slot : Nat) : State :=
  match p with
  | none => s
  | some n => s.modCore core fun k => { k with pipes := padSet 0 k.pipes n slot }

/-- The batch has issued an instruction: it goes on to the next one, or leaves the queue (R71, R96, R177). -/
def batchNext (x : LnIss) (lat : Nat) (h : HEntry) (s : State) : State :=
  let b := x.b
  let ready := max b.ready (x.slot + lat)
  let s1 := pipeFrom s x.g.core b.pipe (x.slot + 1)
  s1.modGroup x.g.gid fun g =>
    if b.next + 1 = b.count then
      { g.modSplit b.split fun sp => { sp with laneReady := max sp.laneReady ready } with
        batches := g.batches.filter fun c => c.bid != b.bid }
    else
      g.setBatch { b with next := b.next + 1, nextSlot := x.slot + 1 + x.l.stall.toNat,
                          hist := (h :: b.hist).take 4, served := 0, block := .none, ready := ready }

/-- A batch leaves its pipeline after a slot and waits (R178). -/
def suspendAt (g : Group) (b : Batch) (slot : Nat) (blk : Block) (s : State) : State :=
  pipeFrom (s.modGroup g.gid fun h =>
    { h with batches := h.batches.map fun k => if k.bid == b.bid then
        { k with suspended := true, block := blk, pipe := none } else k }) g.core b.pipe (slot + 1)

/-- The batch of an instruction leaves the pipeline and waits. -/
def suspendBatch (x : LnIss) (blk : Block) (s : State) : State := suspendAt x.g x.b x.slot blk s

/-- The fault record of a lane instruction (R446). -/
def lnFaultRec (x : LnIss) (lane code addr detail : Nat) : FaultRec where
  who := x.b.split
  code := code
  addr := addr
  detail := detail
  insn := laneWord x.op x.l
  laneIns := true
  lane := lane
  spc := x.b.spc
  lpc := x.b.first + x.b.next
  low := lowestLane x.b.mask

/-- A lane instruction faults: the batch stops where it is (R440). -/
def lnFault (s : State) (x : LnIss) (lane code addr detail : Nat) : State :=
  pipeFrom (raiseFault s x.g.gid (3 * x.slot) (lnFaultRec x lane code addr detail)) x.g.core x.b.pipe (x.slot + 1)

/-- The latency of each lane opcode in slots; 0 where R76 gives a counter, a scoreboard or nothing (R72, R76). -/
def laneLatency (op : Nat) : Nat :=
  match op with
  | 0x004 | 0x005 | 0x006 | 0x064 | 0x084 | 0x085 | 0x086 | 0x087 | 0x088 | 0x089 | 0x08F | 0x090 | 0x091 | 0x092
  | 0x095 => 2
  | 0x060 | 0x061 | 0x065 | 0x080 | 0x081 | 0x082 | 0x083 | 0x093 | 0x094 => 3
  | 0x062 | 0x063 => 4
  | 0x08A | 0x08B | 0x08C | 0x08D | 0x08E => 6
  | _ => if op < 0x0C0 then 1 else 0

/-- The end of an issue of a lane instruction. -/
def lnFinish (s : State) (x : LnIss) (v : LaneVals) : LnRes → State
  | .out s' o =>
    let lat := laneLatency x.op
    let g0 := (s'.group? x.g.gid).getD x.g
    let g1 := lnCommit x v lat o g0
    let regs := dstRegs x ++ (match o.pay with
      | some _ => laneRegs x.l.a.toNat 1
      | none => [])
    batchNext x lat (hEntryOf x g0 g1 lat o) (unpoison (s'.setGroup g1) x.g (if o.dst = [] then [] else regs) (v.act &&& o.lanes))
  | .wait s' blk => suspendBatch x blk s'
  | .hold => { s with held := true }
  | .fault lane code addr detail => lnFault s x lane code addr detail
  | .over s' => s'

/-- Has the instruction begun before its batch was suspended, so that only its completion is left (R178). -/
def begun : Block → Bool
  | .fe _ => true
  | .copy _ => true
  | .engine _ => true
  | .stream _ => true
  | .write _ => true
  | _ => false

/-- The checks of R457 before an instruction's own, then the instruction. -/
def lnRun (body : State → LnIss → LaneVals → LnRes) (s : State) (x : LnIss) : State :=
  let fields := laneFieldList x.sh x.l
  let (v, s1) := readOperands s x
  let low := lowestLane v.act
  let dstFirst := fields.drop 3 ++ fields.take 3
  if begun x.b.block then lnFinish s1 x v (body s1 x v)
  else match rangeBreach x.g.launch.vregs dstFirst with
  | some d => lnFinish s x v (.fault low 0x05 0 d)
  | none =>
    match hBreach x.b fields with
    | some d => lnFinish s x v (.fault low 0x06 0 d)
    | none =>
      match if x.g.stallchk then laneStall x else none with
      | some d => lnFinish s x v (.fault low 0x04 0 d)
      | none =>
        if laneLocked x then lnFinish s x v (.wait s .none)
        else
          match poisonRead s x.g (fields.flatMap fun f => fieldReads f.2.1 f.2.2) (lanesRead x.op v.act) with
          | some (lane, d) => lnFinish s x v (.fault lane 0x18 0 d)
          | none => lnFinish s1 x v (body s1 x v)

/-- The batch that issues now. -/
def issuingBatch (s : State) : Option (Group × Batch) :=
  match s.cur with
  | some (.batch gid bid) =>
    match s.group? gid with
    | none => none
    | some g => (g.batch? bid).map fun b => (g, b)
  | _ => none

/-- The shape of an opcode that is not assigned. -/
def noShape : LaneShape := { dst := .unused, a := .unused, b := .unused, c := .unused, types := [], mode := .none }

/-- Lane instruction `op` at its issue: batch `b` of `g` issues in the slot that the group's core has reached. -/
def laneIssOf (op : Nat) (l : LaneF) (s : State) (g : Group) (b : Batch) : LnIss :=
  { g := (prunePend g (s.now g.core)).settleFlags (s.now g.core / 3), b := b, slot := s.now g.core / 3, op := op, l := l,
    sh := (laneShape op l).getD noShape, seq := s.fresh }

/-- The state in which the effect of lane instruction `x` starts. -/
def laneStart (s : State) (x : LnIss) : State := { s.setGroup x.g with fresh := s.fresh + 1, held := false }

/-- Issue of the lane instruction with opcode `op` by the batch that `cur` names. -/
def laneIssue (op : Nat) (l : LaneF) (body : State → LnIss → LaneVals → LnRes) (s : State) : Out :=
  match issuingBatch s with
  | none => .fault .noIssuer
  | some (g, b) =>
    let x := laneIssOf op l s g b
    match worstViol (laneViolations op l ++ sideViol op l b.fmt) with
    | some v => .next (lnFault (laneStart s x) x (wordLane x.g b op l) 0x01 0 (v.2 + 2 ^ 8 * v.1))
    | none => .next (lnRun body (laneStart s x) x)

end Sys2Proof.Machine
end

