-- ==== Sys2Proof/Machine/Translate.lean ====
section
/-! DEFINITION. Address translation: the walk over the tables that the reconciler built, self-managed entries, host pages,
peer pages and windows (R362 to R373), parking (R370), the access counters and notifications (R373 to R375), lines
that fail and the fences that they ask for (R480, R481), and the fetching of instructions. -/

namespace Sys2Proof.Machine

/-- The accesses that the DETAIL of a translation fault tells apart (R475). -/
inductive AccKind where
  | read
  | write
  | atomic
  | fetch
  deriving DecidableEq, Repr

/-- The code of an access (R475). -/
def AccKind.code : AccKind → Nat
  | .read => 0
  | .write => 1
  | .atomic => 2
  | .fetch => 3

/-- Does the access need W. -/
def AccKind.writes : AccKind → Bool
  | .write => true
  | .atomic => true
  | _ => false

/-- A translation found: the place of the byte, LOC, whether the page counts, and its mapping (none for a system page). -/
structure Hit where
  place : Loc
  loc : Nat
  ace : Bool
  page : Nat
  mapping : Option Mapping
  deriving DecidableEq, Repr

/-- The outcome of a translation. -/
inductive Trans where
  | hit (h : Hit)
  /-- A fault: code and DETAIL (R475). -/
  | fault (code detail : Nat)
  /-- It does not issue: why (1 write-block, 2 host page, 3 V = 0, all replayable; 4 the walker reads a failing line), device page,
  host page (R370, R481). -/
  | park (why page : Nat) (host : Option Nat)
  deriving DecidableEq, Repr

/-! ### Frames -/

/-- Frame `k` of runs of frames: first frame and count of each. -/
def frameAt : List (Nat × Nat) → Nat → Nat
  | [], _ => 0
  | r :: l, k => if k < r.2 then r.1 + k else frameAt l (k - r.2)

/-- The HBM-space address of a byte of what lies in runs of frames. -/
def hbmAt (runs : List (Nat × Nat)) (off : Nat) : Nat := 2 ^ 16 * frameAt runs (off / 2 ^ 16) + off % 2 ^ 16

/-- Base of the device's own pages: notification queue, energy block, error ring (R374, R402, R447). -/
def sysBase : Nat := 0x000FF60000000000
/-- Base of the table views (R376). -/
def tableViewBase : Nat := 0x000FF40000000000
/-- Base of the pool views (R376). -/
def poolViewBase : Nat := 0x000FF80000000000

/-- The bytes of a mapping's page. -/
def Mapping.pageSize (m : Mapping) : Nat := if m.pg256 then 2 ^ 28 else 2 ^ 16
/-- The 256 MiB blocks, hence level-3 tables, of a self-managed mapping (R376). -/
def Mapping.tables (m : Mapping) : Nat := (m.size + 2 ^ 28 - 1) / 2 ^ 28
/-- The span of the mapping's tables (R376). -/
def Mapping.span (m : Mapping) : Nat := if m.self then 2 ^ 28 * m.tables else m.size

/-- The 64 KiB pages of a device's notification queue, energy block and error ring (R374, R402, R447). -/
def sysPages (d : VDev) : Nat := 4 + max 1 (64 * d.ringSize / 2 ^ 16)

/-- The ranges of addresses that have table entries, with the mappings' spans (R362, R376): first address and bytes. -/
def coveredRanges (d : VDev) : List (Nat × Nat) :=
  (d.maps.flatMap fun m => (m.va, m.span) ::
    (if m.self then [(tableViewBase + 2 ^ 24 * m.id, 2 ^ 16 * m.tables), (poolViewBase + 2 ^ 26 * m.id, 2 ^ 16 * m.pool)]
     else [])) ++ (if d.ringSize = 0 then [] else [(sysBase, 2 ^ 16 * sysPages d)])

/-- Does some range meet the block of 2^k bytes that holds an address. -/
def blockCovered (d : VDev) (k va : Nat) : Bool :=
  (coveredRanges d).any fun r => 0 < r.2 && r.1 / 2 ^ k ≤ va / 2 ^ k && va / 2 ^ k ≤ (r.1 + r.2 - 1) / 2 ^ k

/-- The level at which the walk of an unmapped address stops (R367). -/
def missLevel (d : VDev) (va : Nat) : Nat :=
  if !blockCovered d 40 va then 1 else if !blockCovered d 28 va then 2 else 3

/-- The translation layout of DETAIL (R475); `entry` is the entry found. -/
def transDetail (entry : Nat) (acc : AccKind) (level : Nat) : Nat :=
  2 ^ 32 * (entry % 2 ^ 32) + 4 * acc.code + level

/-- The low word of a leaf that the reconciler wrote (R363). -/
def leafLow (frame loc : Nat) (x w : Bool) : Nat :=
  frame % 2 ^ 16 * 2 ^ 16 + loc * 2 ^ 5 + 2 ^ 4 + (if x then 8 else 0) + (if w then 4 else 0) + 1

/-- The window that a window record of a device names, its owner's or a joined one (R413, R414). -/
def windowOf (s : State) (vd wid : Nat) : Option Window :=
  s.hub.windows.find? fun w => (w.vd == vd && w.id == wid) || w.joiners.contains (vd, wid)

/-- Has a core a usable ATS translation of a host page (R372). -/
def hostUsable (s : State) (core vd haddr : Nat) (write : Bool) : Bool :=
  (s.core core).hosts.any fun e =>
    e.vd == vd && e.gen == (s.vd vd).gen && e.lo ≤ haddr && haddr < e.lo + e.size && (if write then e.w else e.r)

/-- The rest of a translation once the leaf is known: whether an atomic is done where the leaf leads (`bad` gives the DETAIL of
a LOC that refuses it, R216), the permission of the access, the write-block, the ATS translation of a host page and the
peer's port (R369 to R372, R484). -/
def leafAccess (s : State) (core vd va level entry : Nat) (acc : AccKind) (bad : Nat → Option Nat) (place : Loc) (loc : Nat)
    (w x wb ace : Bool) (m : Option Mapping) : Trans :=
  let page := va / 2 ^ 16
  match bad loc with
  | some d => .fault 0x15 d
  | none =>
  if acc.writes ∧ !w then .fault 0x16 (transDetail entry acc level)
  else if acc = .fetch ∧ !x then .fault 0x22 (transDetail entry acc level)
  else if acc.writes ∧ wb then .park 1 page none
  else match place with
    | .host a =>
      if hostUsable s core vd a acc.writes then .hit { place := place, loc := loc, ace := ace, page := page, mapping := m }
      else .park 2 page (some (a / 2 ^ 12))
    | .peer port _ _ =>
      if ((s.hub.ports[port]?).map (·.up)).getD false then
        .hit { place := place, loc := loc, ace := ace, page := page, mapping := m }
      else .fault 0x1A (port + 2 ^ 4)
    | _ => .hit { place := place, loc := loc, ace := ace, page := page, mapping := m }

/-- The entry of a self-managed page: its 8 bytes in the level-3 table (R376). -/
def selfEntryAt (m : Mapping) (va : Nat) : Nat :=
  2 ^ 16 * frameAt m.tableRuns ((va - m.va) / 2 ^ 28) + 8 * (va / 2 ^ 16 % 2 ^ 12)

/-- Is a self-managed leaf well formed (R363, R367). -/
def selfLeafOk (m : Mapping) (e : Nat) : Bool :=
  let frame := bitsOf e 16 36
  let loc := bitsOf e 5 3
  bitsOf e 1 1 = 0 && bitsOf e 8 8 = 0 && bitsOf e 52 1 = 0 && bitsOf e 4 1 = 1 && loc < 2 &&
  (if loc = 0 then frame < m.pool
   else m.srca ≤ 2 ^ 16 * frame && 2 ^ 16 * frame < m.srca + m.size)

/-- The TLB entry of a self-managed page on a core (R368). Beyond the rule's words: DEDUCED, log entry 20. -/
def tlbFind (s : State) (core vd page : Nat) : Option TlbEntry :=
  (s.core core).tlb.find? fun e => e.vd == vd && e.gen == (s.vd vd).gen && e.page == page

/-- The leaf of a self-managed entry. -/
def leafOfEntry (e : Nat) : Leaf where
  loc := bitsOf e 5 3
  frame := bitsOf e 16 36
  w := bitsOf e 2 1 = 1
  x := bitsOf e 3 1 = 1
  wb := bitsOf e 53 1 = 1
  ace := bitsOf e 54 1 = 1

/-- The low word of the entry that a leaf was read from. -/
def Leaf.low (l : Leaf) : Nat := leafLow l.frame l.loc l.x l.w

/-- The place of a byte behind a self-managed leaf (R364). -/
def selfPlace (m : Mapping) (vd : Nat) (l : Leaf) (va : Nat) : Loc :=
  if l.loc = 1 then .host (2 ^ 16 * l.frame + va % 2 ^ 16) else .hbm vd (2 ^ 16 * frameAt m.poolRuns l.frame + va % 2 ^ 16)

/-- A system page of a device: writable or not. The error ring of the physical function has no device virtual address (R374, R402,
R447). -/
def sysPage (vd : Nat) (d : VDev) (va : Nat) : Option Bool :=
  let k := (va - sysBase) / 2 ^ 16
  if va < sysBase ∨ sysPages d ≤ k ∨ d.ringSize = 0 ∨ (vd = 0 ∧ 3 ≤ k) then none
  else
    match k with
    | 0 => if d.ctx.isSome then some true else none
    | 1 => if d.ctx.isSome then some false else none
    | 3 => some true
    | _ => some false

/-- A page of a table view or pool view: the HBM address of the byte (R376). -/
def viewPage (d : VDev) (va : Nat) : Option Nat :=
  d.maps.findSome? fun m =>
    if !m.self then none
    else
      let t := tableViewBase + 2 ^ 24 * m.id
      let p := poolViewBase + 2 ^ 26 * m.id
      if t ≤ va ∧ va < t + 2 ^ 16 * m.tables then some (hbmAt m.tableRuns (va - t))
      else if p ≤ va ∧ va < p + 2 ^ 16 * m.pool then some (hbmAt m.poolRuns (va - p))
      else none

/-- The place of a byte of a mapping that the reconciler's leaves map (R364). -/
def mappedPlace (s : State) (vd : Nat) (m : Mapping) (va : Nat) : Loc :=
  let off := va - m.va
  match m.loc with
  | 0 => .hbm vd (hbmAt m.runs off)
  | 1 => .host (m.srca + off)
  | 2 => .peer m.port m.pvd (m.srca + off)
  | _ => match windowOf s vd m.wid with
    | some w => .win w.uid (m.srca + off)
    | none => .win 0 (m.srca + off)

/-- Has the window of a mapping fallen away: its joiner record has not converged again (R489). -/
def windowGone (s : State) (vd : Nat) (m : Mapping) : Bool := m.loc == 3 && (windowOf s vd m.wid).isNone

/-- FRAME of a mapping's leaf: the target of the page's first byte (R364). -/
def mappedFrame (m : Mapping) (va : Nat) : Nat :=
  let off := (va - m.va) / m.pageSize * m.pageSize
  (if m.loc = 0 then hbmAt m.runs off else m.srca + off) / 2 ^ 16

/-- FRAME of a device's own page: those of its notification queue are frames that its context took. -/
def sysFrameOf (d : VDev) (k : Nat) : Nat := if k < 2 then frameAt d.sysRuns k else Config.sysFrame k

/-! ### Lines that fail (R480, R481, R483) -/

/-- The device whose line holds a place, and the line's number: a notification queue lies in its device's HBM; the other pages of a
device's own and the areas are lines of device 0, numbered here past every line of HBM (R335, R374, R447, R481).
Beyond the rules' words: DEDUCED, log entry 55. -/
def lineOf (s : State) : Loc → Option (Nat × Nat)
  | .hbm vd a => some (vd, a / 128)
  | .sys vd off =>
    if off < 2 * 2 ^ 16 then (if (s.vd vd).ctx.isSome then some (vd, hbmAt (s.vd vd).sysRuns off / 128) else none)
    else some (0, 2 ^ 61 + 2 ^ 40 * vd + off / 128)
  | .area dom off => some (0, 2 ^ 60 + 2 ^ 40 * dom + off / 128)
  | _ => none

/-- The failing line that holds a place, with its code and level or channel; every line of a window fails with a node of its tree
(R481, R483). -/
def badLine (s : State) (l : Loc) : Option (Nat × Nat) :=
  match l with
  | .win uid off => (s.hub.windows.find? fun w => w.uid == uid).bind fun w => match w.broken with
    | some level => some (0x17, level)
    | none => (w.bad.find? fun b => b.1 == off / 128).map (·.2)
  | _ => (lineOf s l).bind fun k => ((s.vd k.1).bad.find? fun b => b.1 == k.2).map (·.2)

/-- Has a line been written under its key: only then is it decrypted and checked (R409); the lines of a weight window carry no
check of the memory controllers (R416). -/
def lineChecked (s : State) (l : Loc) : Bool :=
  let written := fun (leaves : List LeafLine) (a : Nat) => leaves.any fun e => e.block == a / 4096 && e.written.getLsbD (a / 128 % 32)
  match l with
  | .hbm vd a => written (s.vd vd).leaves a
  | .win uid off => s.hub.windows.any fun w => w.uid == uid && w.exchange && written w.leaves off
  | _ => (lineOf s l).isSome

/-- A line that fails from now on, until it is written whole (R481, R483). -/
def markBad (s : State) (l : Loc) (code n : Nat) : State :=
  let put := fun (line : Nat) (bad : List (Nat × Nat × Nat)) => (line, code, n) :: bad.filter fun b => b.1 != line
  match l with
  | .win uid off => s.modHub fun h => { h with windows := h.windows.map fun w =>
      if w.uid == uid then { w with bad := put (off / 128) w.bad } else w }
  | _ => match lineOf s l with
    | some k => s.modVd k.1 fun d => { d with bad := put k.2 d.bad }
    | none => s

/-- A line that is written whole fails no more (R481). -/
def clearBad (s : State) (l : Loc) : State :=
  match lineOf s l with
  | some k => s.modVd k.1 fun d => { d with bad := d.bad.filter fun b => b.1 != k.2 }
  | none => s

/-- DETAIL of a memory-integrity or an uncorrectable-HBM fault (R474): the level or the channel, and the agent. -/
def lineDetail (code n agent stack : Nat) : Nat :=
  if code = 0x17 then n + 2 ^ 4 * agent + 2 ^ 12 * stack else n

/-- The channel set that holds a line (R366). -/
def setOf (s : State) (l : Loc) : Nat :=
  let at_ := fun vd a =>
    let sets := ((s.vd vd).part.map fun p => p.chsets).getD []
    sets.getD (a / 128 % max 1 sets.length) 0
  match l with
  | .win uid off => match s.hub.windows.find? fun w => w.uid == uid with
    | some w => at_ w.vd (hbmAt w.runs off)
    | none => 0
  | _ => match lineOf s l with
    | some k => at_ k.1 (128 * k.2)
    | none => 0

/-- The stack that holds a line: its channel set's (R13, R366). -/
def stackOf (s : State) (l : Loc) : Nat := setOf s l / 4

/-- The channel that failed, one of the eight of the line's channel set: which one, `n` says (R13, R366). -/
def channelOf (s : State) (l : Loc) (n : Nat) : Nat := 8 * setOf s l + n % 8

/-- Code and DETAIL of the failing line that holds a place, for a reader that has no group: its AGENT reads 3.
Beyond the rule's words: DESIGN CHOICE, log entry 45. -/
def hubLineBad (s : State) (l : Loc) : Option (Nat × Nat) := (badLine s l).map fun b => (b.1, lineDetail b.1 b.2 3 (stackOf s l))

/-- A fence is asked for: it comes before anything else that happens (R454, R481). -/
def askFence (s : State) (vd code core detail : Nat) : State :=
  s.modHub fun h => { h with fences := h.fences ++ [{ vd := vd, code := code, core := core, detail := detail }] }

/-- A place that the device itself writes or reads, not one of its groups: its failing line fences the line's device, or, in a
window, the device that accesses it (R481). -/
def fenceBad (s : State) (vd core : Nat) (l : Loc) : State :=
  match hubLineBad s l with
  | some b => askFence s (((lineOf s l).map (·.1)).getD vd) b.1 core b.2
  | none => s

/-- A failing line of device 0 that a group meets is the package's (R481). -/
def fenceZero (s : State) (l : Loc) : State :=
  if (lineOf s l).any (fun k => k.1 == 0) then fenceBad s 0 0xFF l else s

/-- The failing line that the walker meets for an address: that of its entry in a self-managed table; the device's other tables lie
in lines that hold nothing else (R368, R481). Beyond the rule's words: DEDUCED, log entry 20. -/
def walkBad (s : State) (vd va : Nat) : Option (Nat × Nat) :=
  ((s.vd vd).maps.find? fun m => m.va ≤ va && va < m.va + m.size).bind fun m =>
    if m.self then hubLineBad s (.hbm vd (selfEntryAt m va)) else none

/-- The walks of an access to `n` bytes: one that meets a failing line of the tables fences the device (R481). -/
def fenceWalks (s : State) (vd core va n : Nat) : State :=
  if n = 0 then s
  else match (walkBad s vd va).or (walkBad s vd (va + n - 1)) with
    | some b => askFence s vd b.1 core b.2
    | none => s

/-- The entry of a page that a walk has found goes to a core's TLB: of 2,048 entries, one makes room when all are held
(R368). -/
def tlbFill (s : State) (core : Nat) (e : TlbEntry) : State :=
  let old := (s.core core).tlb.filter fun t => !(t.vd == e.vd && t.page == e.page)
  if old.length < 2048 then s.modCore core fun k => { k with tlb := e :: old }
  else
    let (n, s1) := s.takeNat
    s1.modCore core fun k => { k with tlb := e :: old.eraseIdx (n % old.length) }

/-- Translate a device virtual address for an access of a device on a core (R367, R369); `bad` is the atomic-location check of
R216. A TLB entry of a self-managed page that differs from its table entry may have been evicted: a free choice. -/
def translateFor (s : State) (core vd va : Nat) (acc : AccKind) (bad : Nat → Option Nat) : Trans × State :=
  let d := s.vd vd
  match d.maps.find? fun m => m.va ≤ va && va < m.va + m.size with
  | some m =>
    if m.self then
      let e := s.natAt (.hbm vd (selfEntryAt m va)) 8
      let page := va / 2 ^ 16
      let walked := leafOfEntry e
      let access := fun (st : State) (l : Leaf) =>
        leafAccess st core vd va 3 l.low acc bad (selfPlace m vd l va) l.loc l.w l.x l.wb l.ace (some m)
      let walk := fun (st : State) =>
        if (walkBad st vd va).isSome then (Trans.park 4 page none, st)
        else if bitsOf e 0 1 = 0 then (Trans.park 3 page none, st)
        else if !selfLeafOk m e then (Trans.fault 0x21 (transDetail e acc 3), st)
        else (access st walked, tlbFill st core { vd := vd, gen := d.gen, page := page, leaf := walked })
      match tlbFind s core vd page with
      | some t =>
        if t.leaf = walked ∧ bitsOf e 0 1 = 1 ∧ selfLeafOk m e then (access s t.leaf, s)
        else
          let (evicted, s1) := s.takeBit
          if evicted then walk s1 else (access s1 t.leaf, s1)
      | none => walk s
    else if windowGone s vd m then (.fault 0x20 (transDetail 0 acc (if m.pg256 then 2 else 3)), s)
    else
      (leafAccess s core vd va (if m.pg256 then 2 else 3) (leafLow (mappedFrame m va) m.loc m.x m.w) acc bad
        (mappedPlace s vd m va) m.loc m.w m.x false m.ace (some m), s)
  | none =>
    match sysPage vd d va, viewPage d va with
    | some w, _ =>
      (leafAccess s core vd va 3 (leafLow (sysFrameOf d ((va - sysBase) / 2 ^ 16)) 0 false w) acc bad
        (.sys vd (va - sysBase)) 0 w false false false none, s)
    | none, some a =>
      (leafAccess s core vd va 3 (leafLow (a / 2 ^ 16) 0 false true) acc bad (.hbm vd a) 0 true false false false none, s)
    | none, none => (.fault 0x20 (transDetail 0 acc (missLevel d va)), s)

/-- Translate an address for an access that every LOC allows (R367, R369). -/
def translate (s : State) (core vd va : Nat) (acc : AccKind) : Trans × State := translateFor s core vd va acc fun _ => none

/-- Translate an address for a transfer that is under way: what the walker cannot read fails the transfer and fences the device (R473,
R481). -/
def translateMoving (s : State) (core vd va : Nat) (acc : AccKind) : Trans × State :=
  match translate s core vd va acc, walkBad s vd va with
  | (.park 4 _ _, s1), some b => (.fault b.1 b.2, fenceWalks s1 vd core va 1)
  | r, _ => r

/-! ### The tables (R362, R363, R367)

The tables of a device lie in frames that no mapping reaches. What the reconciler writes there follows from the device's records;
only the level-3 tables of self-managed mappings hold bytes that software can change. -/

/-- The tables that a range of addresses needs: level 2, and level 3 where its pages are of 64 KiB. -/
def tablesOf (lo n : Nat) (wide : Bool) : List (Nat × Nat) :=
  let span := fun (k : Nat) => if n = 0 then [] else (upto ((lo + n - 1) / 2 ^ k - lo / 2 ^ k + 1)).map fun i => lo / 2 ^ k + i
  ((span 40).map fun i => (2, i)) ++ (if wide then [] else (span 28).map fun i => (3, i))

/-- The tables that a mapping needs, but for its own (R362, R376). -/
def Mapping.needs (m : Mapping) : List (Nat × Nat) :=
  if m.self then tablesOf m.va m.span true ++ tablesOf (tableViewBase + 2 ^ 24 * m.id) (2 ^ 16 * m.tables) false ++
    tablesOf (poolViewBase + 2 ^ 26 * m.id) (2 ^ 16 * m.pool) false
  else tablesOf m.va m.size m.pg256

/-- The tables that a device's records need (R362). -/
def neededTables (d : VDev) : List (Nat × Nat) :=
  ((1, 0) :: (d.maps.flatMap (·.needs) ++ (if d.ctx.isSome then tablesOf sysBase (8 * 2 ^ 16) false else []))).eraseDups

/-- The frame of a table; a self-managed mapping holds its level-3 tables itself (R376). -/
def tableFrame (d : VDev) (level n : Nat) : Option Nat :=
  match d.maps.find? fun m => level == 3 && m.self && decide (m.va / 2 ^ 28 ≤ n) && decide (n < m.va / 2 ^ 28 + m.tables) with
  | some m => some (frameAt m.tableRuns (n - m.va / 2 ^ 28))
  | none => (d.tables.find? fun t => t.1 == level && t.2.1 == n).map (·.2.2)

/-- A pointer entry (R363). -/
def pointerEntry (frame : Nat) : Nat := frame % 2 ^ 36 * 2 ^ 16 + 1

/-- A leaf that the reconciler wrote (R363, R364). -/
def leafEntry (frame loc cnt : Nat) (x w ace : Bool) : Nat :=
  leafLow (frame % 2 ^ 36) loc x w + frame % 2 ^ 36 / 2 ^ 16 * 2 ^ 32 + (if ace then 2 ^ 54 else 0) + cnt * 2 ^ 55

/-- The leaf of a page of a mapping. -/
def Mapping.leafAt (m : Mapping) (va : Nat) : Nat :=
  leafEntry (mappedFrame m va) m.loc (keyGet 0 m.cnt ((va - m.va) / m.pageSize)) m.x m.w m.ace

/-- Entry `ix` of table `n` of a level (R362, R363). -/
def tableEntry (s : State) (vd level n ix : Nat) : Nat :=
  let d := s.vd vd
  let child := 2 ^ 12 * n + ix
  if level < 3 then
    match tableFrame d (level + 1) child with
    | some f => pointerEntry f
    | none =>
      match d.maps.find? fun m => level == 2 && m.pg256 && decide (m.va ≤ 2 ^ 28 * child) && decide (2 ^ 28 * child < m.va + m.size) with
      | some m => if windowGone s vd m then 0 else m.leafAt (2 ^ 28 * child)
      | none => 0
  else
    let va := 2 ^ 16 * child
    match d.maps.find? fun m => m.va ≤ va && va < m.va + m.span with
    | some m =>
      if m.self then s.natAt (.hbm vd (selfEntryAt m va)) 8 else if windowGone s vd m then 0 else m.leafAt va
    | none =>
      match sysPage vd d va, viewPage d va with
      | some w, _ => leafEntry (sysFrameOf d ((va - sysBase) / 2 ^ 16)) 0 0 false w false
      | none, some a => leafEntry (a / 2 ^ 16) 0 0 false true false
      | none, none => 0

/-- The walk of an address: the level at which it ends and the entry that it finds there (R367). -/
def walk (s : State) (vd va : Nat) : Nat × Nat :=
  let e1 := tableEntry s vd 1 0 (va / 2 ^ 40)
  if e1 % 2 = 0 then (1, e1)
  else
    let e2 := tableEntry s vd 2 (va / 2 ^ 40) (va / 2 ^ 28 % 2 ^ 12)
    if e2 % 2 = 0 ∨ e2 / 2 ^ 4 % 2 = 1 then (2, e2) else (3, tableEntry s vd 3 (va / 2 ^ 28) (va / 2 ^ 16 % 2 ^ 12))

/-! ### Notifications and access counters (R373 to R375) -/

/-- A 32-bit word of the device's own pages. -/
def sysWord (s : State) (vd off : Nat) : Nat := s.natAt (.sys vd off) 4
/-- A 32-bit word of the device's own pages written. -/
def setSysWord (s : State) (vd off n : Nat) : State := s.putBytes (.sys vd off) (natLe 4 n)

/-- NOTIFICATION_POST: the entry, then PROD + 1; dropped when the queue is full, or when no context set NOTLOG (R374); a failing line
of the queue fences its device (R481). -/
def postNotification (s : State) (vd kind page cnt mapid : Nat) : State :=
  match (s.vd vd).ctx with
  | none => s
  | some c =>
    let size := 2 ^ (c.notlog + 4)
    let prod := sysWord s vd 0
    let cons := sysWord s vd 8
    if (prod + 2 ^ 32 - cons) % 2 ^ 32 = size then setSysWord s vd 4 (sysWord s vd 4 + 1)
    else
      let entry := kind + 2 ^ 16 * page + 2 ^ 64 * prod + 2 ^ 103 * cnt + 2 ^ 112 * mapid
      let at_ := Loc.sys vd (2 ^ 16 + 16 * (prod % size))
      fenceBad (fenceBad (setSysWord (s.putBytes at_ (natLe 16 entry)) vd 0 (prod + 1)) vd 0xFF at_) vd 0xFF (.sys vd 0)

/-- THRESH of a mapping: 0 means 256 (R355). -/
def Mapping.threshold (m : Mapping) : Nat := if m.thresh = 0 then 256 else m.thresh

/-- One count on a page, with the notification that it causes (R373). -/
def countPage (s : State) (vd : Nat) (h : Hit) : State :=
  match h.mapping with
  | none => s
  | some m =>
    if m.self then
      let a := Loc.hbm vd (selfEntryAt m (2 ^ 16 * h.page) + 4)
      let up := s.natAt a 4
      let cnt := bitsOf up 23 9
      if cnt = 511 ∨ bitsOf up 22 1 = 0 then s
      else
        let s1 := s.putBytes a (natLe 4 (up + 2 ^ 23))
        if cnt + 1 = m.threshold then postNotification s1 vd 0x01 (2 ^ 16 * h.page / m.pageSize * m.pageSize / 2 ^ 16) (cnt + 1) m.id else s1
    else
      let ix := (2 ^ 16 * h.page - m.va) / m.pageSize
      let cnt := keyGet 0 m.cnt ix
      if cnt = 511 ∨ !m.ace then s
      else
        let s1 := s.modVd vd fun d => { d with maps := d.maps.map fun k =>
          if k.id == m.id then { k with cnt := keySet k.cnt ix (cnt + 1) } else k }
        if cnt + 1 = m.threshold then postNotification s1 vd 0x01 (2 ^ 16 * h.page / m.pageSize * m.pageSize / 2 ^ 16) (cnt + 1) m.id else s1

/-- The page, as the counter knows it: a 256 MiB page counts as one. -/
def Hit.countKey (h : Hit) : Nat :=
  match h.mapping with
  | some m => if m.pg256 then h.page / 2 ^ 12 * 2 ^ 12 else h.page
  | none => h.page

/-- A hit inserted by ascending page, once for each page. -/
def insertHit (h : Hit) : List Hit → List Hit
  | [] => [h]
  | k :: l => if h.countKey < k.countKey then h :: k :: l else if h.countKey = k.countKey then k :: l else k :: insertHit h l

/-- The counts of one instruction, in ascending page order (R373). -/
def countAccess (s : State) (vd : Nat) (hits : List Hit) : State :=
  ((hits.filter (·.ace)).foldl (fun acc h => insertHit h acc) []).foldl (fun st h => countPage st vd h) s

/-! ### Parking (R370) -/

/-- Is a fault-buffer entry free for a group slot: its own, or one of the 40 shared ones (R370). -/
def bufferFree (s : State) (core slot : Nat) (copy : Bool) : Bool :=
  let held := s.parks.filter fun p => p.core == core && p.entry
  let own := (held.filter fun p => p.slot == slot && p.copy.isNone).length
  let shared := (held.filter fun p => p.copy.isSome).length +
    ((upto 24).map fun k => (held.filter fun p => p.slot == k && p.copy.isNone).length - 1).sum
  (own = 0 && !copy) || shared < 40

/-- The device page that holds a 64 KiB page: its first 64 KiB page and their number (R362). -/
def devPage (d : VDev) (page : Nat) : Nat × Nat :=
  if d.maps.any fun m => m.pg256 && m.va ≤ 2 ^ 16 * page && 2 ^ 16 * page < m.va + m.size then (page / 2 ^ 12 * 2 ^ 12, 2 ^ 12)
  else (page, 1)

/-- A host page asked for, for a device page: an ATS Translation Request, or a PRI Page Request when the completion that is held
does not grant the access and the host has not answered a Page Request for it since; not while one is outstanding (R372). -/
def askHost (s : State) (core vd : Nat) (ask : Nat × Nat) : State :=
  let (page, hp) := ask
  if s.hostReqs.any fun r => r.core == core && r.vd == vd && r.page == hp then s
  else
    let held := (s.core core).hosts.any fun e =>
      e.vd == vd && e.gen == (s.vd vd).gen && !e.again && decide (e.lo ≤ 4096 * hp) && decide (4096 * hp < e.lo + e.size)
    { s with hostReqs := s.hostReqs ++
        [{ core := core, vd := vd, gen := (s.vd vd).gen, page := hp, dev := devPage (s.vd vd) page, pri := held }] }

/-- The mapping's ID behind a page, for a notification. -/
def mapIdOf (d : VDev) (page : Nat) : Nat :=
  ((d.maps.find? fun m => m.va ≤ 2 ^ 16 * page && 2 ^ 16 * page < m.va + m.span).map (·.id)).getD 0

/-- CNT of a self-managed page's entry. -/
def pageCnt (s : State) (vd page : Nat) : Nat :=
  match (s.vd vd).maps.find? fun m => m.self && m.va ≤ 2 ^ 16 * page && 2 ^ 16 * page < m.va + m.size with
  | some m => bitsOf (s.natAt (.hbm vd (selfEntryAt m (2 ^ 16 * page))) 8) 55 9
  | none => 0

/-- The host page that a device page misses, if it is one. -/
def missOf (page : Nat) (host : Option Nat) : List (Nat × Nat) := (host.map fun hp => (page, hp)).toList

/-- An instruction or transfer parks: it takes a buffer entry if one is free, asks the host for the pages that its device pages
miss (`hosts`: device page and host page of each), or posts its notification (R370, R372, R374); what the walker cannot read fences the device (R481). -/
def parkAt (s : State) (g : Group) (who : Nat) (copy : Option Nat) (pages : List Nat) (why page : Nat) (hosts : List (Nat × Nat))
    (va : Nat) (frec : Option FaultRec) : Nat × State :=
  let (id, s0) := s.takeFresh
  let p : Parked := { id := id, core := g.core, slot := g.slot, vd := g.vd, gen := g.gen, gid := g.gid, who := who,
                      copy := copy, entry := bufferFree s g.core g.slot copy.isSome, pages := pages, hosts := hosts.map (·.2), why := why,
                      va := va, frec := frec, released := false }
  let s1 := hosts.foldl (fun st q => askHost st g.core g.vd q) { s0 with parks := s0.parks ++ [p] }
  (id, if why = 1 then postNotification s1 g.vd 0x02 page (pageCnt s g.vd page) (mapIdOf (s.vd g.vd) page)
       else if why = 3 then postNotification s1 g.vd 0x03 page (pageCnt s g.vd page) (mapIdOf (s.vd g.vd) page)
       else if why = 4 then fenceWalks s1 g.vd g.core (2 ^ 16 * page) 1
       else s1)

/-- Park entries removed; the entries that they free go to the oldest waiting without one (R370). -/
def dropParks (s : State) (gone : Parked → Bool) : State :=
  let keep := s.parks.filter fun p => !gone p
  let s1 := { s with parks := [] }
  { s with parks := keep.foldl (fun acc p =>
      acc ++ [if p.entry then p else { p with entry := bufferFree { s1 with parks := acc } p.core p.slot p.copy.isSome }]) [] }

/-! ### Fetching (R369) -/

/-- The address of a word of scalar code. -/
def scalarCodeAt (g : Group) (ix pc : Nat) : Nat :=
  (if ix = 8 then match g.handler with
    | some h => h.scode
    | none => 0
   else g.launch.scode) + 4 * pc

/-- A fetch: the word or lane word at an address, a fault, or a park: why, page, host pages, all its pages that park, and the
address (R370). -/
inductive Fetch where
  | word (n : Nat)
  | fault (code addr detail : Nat)
  | park (why page : Nat) (hosts : List (Nat × Nat)) (pages : List Nat) (addr : Nat)
  deriving DecidableEq, Repr

/-- The parts of `n` bytes at an address that lie in one 4 KiB page each: a lane word may lie across two (R62, R369). -/
def fetchParts (addr n : Nat) : List (Nat × Nat) :=
  let k := min n (4096 - addr % 4096)
  if k < n then [(addr, k), (addr + k, n - k)] else [(addr, n)]

/-- The parts of a code word fetched, the first at the lowest address: a part that faults decides, else one that parks (R369,
R370). -/
def fetchAll (s : State) (g : Group) : List (Nat × Nat) → Fetch × State
  | [] => (.word 0, s)
  | (addr, n) :: l =>
    match translate s g.core g.vd addr .fetch with
    | (.fault code d, s1) => (.fault code addr d, s1)
    | (.hit h, s1) =>
      match fetchAll s1 g l with
      | (.word w, s2) => (.word (s2.natAt h.place n + 2 ^ (8 * n) * w), s2)
      | r => r
    | (.park why page host, s1) =>
      let mine := missOf page host
      match fetchAll s1 g l with
      | (.word _, s2) => (.park why page mine [page] addr, s2)
      | (.park why2 page2 hosts pages _, s2) =>
        (.park (if why2 = 4 then 4 else why) (if why2 = 4 then page2 else page) (mine ++ hosts) (page :: pages.filter (· != page)) addr, s2)
      | r => r

/-- Fetch `n` bytes of code at an address for a group. -/
def fetchBytes (s : State) (g : Group) (addr n : Nat) : Fetch × State := fetchAll s g (fetchParts addr n)

end Sys2Proof.Machine
end

