-- ==== Sys2Proof/Machine/MemOps.lean ====
section
/-! DEFINITION. The store queues, the ordering points, the port buffers and the points of coherence: what a read finds
(R207, R267 to R271), when an access may be performed (R266, R268, R273, R274), writing bytes where they live with the
counters of encrypted lines (R409 to R411) and window staging (R279), and the completion of counted operations (R208). -/

namespace Sys2Proof.Machine

/-! ### Split order -/

/-- Does the access at `a` come before the one at `b` in split order (R266). -/
def Ord.before (a b : Ord) : Bool :=
  a.split == b.split && a.born == b.born &&
  (if a.lane = b.lane then decide (a.seq < b.seq) else if a.lane then decide (a.ref < b.ref) else decide (a.seq < b.ref))

/-- The place of a lane instruction in split order. -/
def LnIss.ord (x : LnIss) : Ord :=
  { split := x.b.split, born := ((x.g.split? x.b.split).map (·.born)).getD 0, lane := true, seq := x.seq, ref := x.b.seq }
/-- The place of a scalar instruction in split order. -/
def ScIss.ord (x : ScIss) : Ord := { split := x.ix, born := x.sp.born, lane := false, seq := x.seq, ref := x.sp.vsyncSeq }

/-! ### Elements -/

/-- Does the store element hold the byte with a key. -/
def StoreEl.covers (e : StoreEl) (k : Nat) : Bool := e.loc.key ≤ k && k < e.loc.key + e.bytes.length
/-- Does the element share an aligned 4-byte element with `n` bytes at a key (R205). -/
def StoreEl.meets (e : StoreEl) (k n : Nat) : Bool :=
  e.loc.key / 4 ≤ (k + n - 1) / 4 && k / 4 ≤ (e.loc.key + e.bytes.length - 1) / 4
/-- Is the element an atomic. -/
def StoreEl.isAtomic (e : StoreEl) : Bool := match e.kind with
  | .atomic _ _ _ _ => true
  | _ => false
/-- Is the element part of a .fe store. -/
def StoreEl.isFe (e : StoreEl) : Bool := match e.kind with
  | .fe _ => true
  | _ => false
/-- Does the element return a value. -/
def StoreEl.returns (e : StoreEl) : Bool := match e.kind with
  | .atomic _ _ _ (some _) => true
  | _ => false
/-- Do two elements of loads share an aligned 4-byte element. -/
def LoadEl.meets (a b : LoadEl) : Bool :=
  a.loc.key / 4 ≤ (b.loc.key + b.len - 1) / 4 && b.loc.key / 4 ≤ (a.loc.key + a.len - 1) / 4

/-- Is the place in scratchpad. -/
def Loc.isSpad : Loc → Bool
  | .spad _ _ => true
  | _ => false
/-- Is the place one whose accepted stores every party of the device sees (R269). -/
def Loc.isLinked : Loc → Bool
  | .host _ => true
  | .peer _ _ _ => true
  | _ => false
/-- Is the place in a window. -/
def Loc.isWin : Loc → Bool
  | .win _ _ => true
  | _ => false
/-- The 128-byte line of a place, as a key (R20). -/
def Loc.line (l : Loc) : Nat := l.key / 128

/-! ### Reading -/

/-- A byte at its point of coherence as device `vd` reads it: for a window line, the device's own staged store (R279). -/
def State.homeByte (s : State) (vd : Nat) (l : Loc) : Byte :=
  match l with
  | .win uid off => match s.hub.staged.find? fun t => t.uid == uid && t.off == off && t.vd == vd with
    | some t => t.byte
    | none => s.mem.read l.key
  | _ => s.mem.read l.key

/-- A byte as a party of a core reads it through the core's ordering point or port (R268 to R271); a store to a window line that
has not been written there is found by its own device alone (R279). -/
def State.pointByte (s : State) (core vd : Nat) (l : Loc) : Byte :=
  match (s.stores.filter fun e => e.stage == .point && !e.isAtomic && (e.core == core || l.isLinked) &&
      (e.vd == vd || !l.isWin) && e.covers l.key).getLast? with
  | some e => e.bytes.getD (l.key - e.loc.key) 0
  | none => s.homeByte vd l

/-- A byte as a load of a group with issue number `seq` reads it: the group's latest earlier store still in its queue, or
what the ordering point gives (R207). A .fe or .fec load does not see a .fe store that has not been served. -/
def State.loadByte (s : State) (core vd gid seq : Nat) (fe : Bool) (l : Loc) : Byte :=
  match (s.stores.filter fun e => e.stage == .queued && e.gid == gid && decide (e.ord.seq < seq) && !e.isAtomic &&
      !(fe && e.isFe) && e.covers l.key).getLast? with
  | some e => e.bytes.getD (l.key - e.loc.key) 0
  | none => s.pointByte core vd l

/-- The bytes that a group's load reads. -/
def State.loadBytes (s : State) (core vd gid seq : Nat) (fe : Bool) (l : Loc) (n : Nat) : List Byte :=
  (upto n).map fun i => s.loadByte core vd gid seq fe (l.plus i)

/-- The bytes that the porter or the engine of a core reads: scratchpad of its own core through the port, host and peer
memory as accepted, everything else at its point of coherence (R270, R276). -/
def State.agentBytes (s : State) (core vd : Nat) (l : Loc) (n : Nat) : List Byte :=
  (upto n).map fun i =>
    let k := l.plus i
    match k with
    | .spad c _ => if c = core then s.pointByte core vd k else s.homeByte vd k
    | .host _ => s.pointByte core vd k
    | .peer _ _ _ => s.pointByte core vd k
    | _ => s.homeByte vd k

/-! ### Writing where bytes live -/

/-- Levels of the counter tree above the leaves (log entry 11). -/
def treeLevels : Nat := 6

/-- One more in a child counter of an inner node; a counter at 2^28 − 1 adds to the node's MAJOR and clears its counters
(R410, R411). Entries are (level, child, counter); a node's MAJOR stands at level + 16. -/
def bumpChild (inner : List (Nat × Nat × Nat)) (level child : Nat) : List (Nat × Nat × Nat) :=
  let val := fun (lv ix : Nat) => ((inner.find? fun e => e.1 == lv && e.2.1 == ix).map (·.2.2)).getD 0
  let put := fun (l : List (Nat × Nat × Nat)) (lv ix v : Nat) => (lv, ix, v) :: l.filter fun e => !(e.1 == lv && e.2.1 == ix)
  if val level child = 2 ^ 28 - 1 then
    put (inner.filter fun e => !(e.1 == level && e.2.1 / 32 == child / 32)) (level + 16) (child / 32)
      (val (level + 16) (child / 32) + 1)
  else put inner level child (val level child + 1)

/-- The leaf of a block with no line written. -/
def LeafLine.fresh (block : Nat) : LeafLine :=
  { block := block, major := 0, minors := List.replicate 32 0, written := 0 }

/-- The leaf after a write of line `i` (R409, R411). -/
def LeafLine.bump (l : LeafLine) (i : Nat) : LeafLine :=
  let w := l.written ||| BitVec.ofNat 32 (2 ^ i)
  if l.minors.getD i 0 = 127 then { l with major := l.major + 1, minors := List.replicate 32 0, written := w }
  else { l with minors := listSet l.minors i (l.minors.getD i 0 + 1), written := w }

/-- The tree of a space after a write of the line that holds an address. -/
def bumpTree (leaves : List LeafLine) (inner : List (Nat × Nat × Nat)) (a : Nat) : List LeafLine × List (Nat × Nat × Nat) :=
  let block := a / 4096
  let l := (leaves.find? fun l => l.block == block).getD (LeafLine.fresh block)
  (l.bump (a / 128 % 32) :: leaves.filter (fun l => l.block != block),
   (upto treeLevels).foldl (fun inn k => bumpChild inn (k + 1) (block / 32 ^ k)) inner)

/-- The counters of the line that holds a place are incremented, if it is an encrypted line (R411, R417). -/
def State.bumpLine (s : State) (l : Loc) : State :=
  match l with
  | .hbm vd a => s.modVd vd fun d =>
      { d with leaves := (bumpTree d.leaves d.inner a).1, inner := (bumpTree d.leaves d.inner a).2 }
  | .win uid off => s.modHub fun h =>
      { h with windows := h.windows.map fun w => if w.uid == uid then
          { w with leaves := (bumpTree w.leaves w.inner off).1, inner := (bumpTree w.leaves w.inner off).2 } else w }
  | _ => s

/-- A write of any byte of a stopped record lets its queue parse it again (R497). -/
def State.unstop (s : State) (key n : Nat) : State :=
  if s.hub.stops = [] then s
  else s.modHub fun h => { h with stops := h.stops.filter fun q => !(decide (q.2.2 < key + n) && decide (key < q.2.2 + 64)) }

/-- Bytes written to a place that is no staged window line; a full 4-byte write clears the poison of a scratchpad element
(R483). -/
def State.land (s : State) (l : Loc) (bs : List Byte) : State :=
  let s1 := (s.putBytes l bs).unstop l.key bs.length
  match l with
  | .spad core a =>
    if (s1.core core).poison = [] then s1
    else s1.modCore core fun k => { k with poison := k.poison.filter fun p =>
      !(p.1 == 2 && a ≤ 384 * p.2.1 + 4 * p.2.2 && 384 * p.2.1 + 4 * p.2.2 + 4 ≤ a + bs.length) }
  | _ => s1

/-- A byte staged for a window line by a device's group or hart (R279); the newest stands first. -/
def State.stageBytes (s : State) (vd writer : Nat) (l : Loc) (bs : List Byte) : State :=
  match l with
  | .win uid off => s.modHub fun h => { h with
      staged := ((upto bs.length).map fun i => { uid := uid, off := off + i, byte := bs.getD i 0, vd := vd, writer := writer : Staged }) ++
      h.staged.filter (fun t =>
        !(t.uid == uid && t.vd == vd && t.writer == writer && decide (off ≤ t.off) && decide (t.off < off + bs.length))) }
  | _ => s

/-- Bytes written by a device's group: staged for a window line, at their place otherwise. -/
def State.store (s : State) (vd gid : Nat) (l : Loc) (bs : List Byte) : State :=
  match l with
  | .win _ _ => s.stageBytes vd gid l bs
  | _ => s.land l bs

/-- One staged byte goes to its window line; older staged bytes of the device there are overtaken. -/
def writebackByte (s : State) (t : Staged) : State :=
  let older := (s.hub.staged.dropWhile fun u => u != t)
  if older = [] then s
  else
    let s1 := s.land (.win t.uid t.off) [t.byte]
    s1.modHub fun h => { h with
      staged := (h.staged.takeWhile fun u => u != t) ++ older.filter (fun u => !(u.uid == t.uid && u.off == t.off && u.vd == t.vd)) }

/-- The window lines that hold staged stores of one writer of a device: window and offset. -/
def State.stagedLines (s : State) (vd writer : Nat) : List (Nat × Nat) :=
  ((s.hub.staged.filter fun t => t.vd == vd && t.writer == writer).map fun t => (t.uid, t.off / 128 * 128)).eraseDups

/-- WINDOW_WRITEBACK of one line: a writer's staged stores to it are written to the window line (R279); a line written whole does
not fail any more (R481). -/
def State.writeLine (s : State) (vd writer : Nat) (l : Nat × Nat) : State :=
  let mine := s.hub.staged.filter fun t => t.vd == vd && t.writer == writer && t.uid == l.1 && t.off / 128 * 128 == l.2
  let heal (w : Window) : Window := if w.uid == l.1 && mine.length == 128 then { w with bad := w.bad.filter fun b => 128 * b.1 != l.2 } else w
  ((mine.foldl writebackByte s).bumpLine (.win l.1 l.2)).modHub fun h => { h with windows := h.windows.map heal }

/-- The staged stores of one writer of a device are written to the window lines (R279). -/
def State.writeback (s : State) (vd writer : Nat) : State :=
  (s.stagedLines vd writer).foldl (fun st l => st.writeLine vd writer l) s

/-- One of the lines that hold staged stores of a writer is written; the order of the lines is not fixed (R279, R292). -/
def State.writebackSome (s : State) (vd writer : Nat) : Option State :=
  match s.stagedLines vd writer with
  | [] => none
  | l :: ls =>
    let (n, s1) := s.takeNat
    some (s1.writeLine vd writer ((l :: ls).getD (n % (ls.length + 1)) l))

/-! ### When an access may be performed -/

/-- Does an acquire at a scope hold a later access: every one, but a load of a window line is held at .win only (R274, R279). -/
def acqHolds (acq : Option Nat) (win : Bool) : Bool :=
  match acq with
  | some scope => !win || scope == 6
  | none => false

/-- An acquire before a place in split order that does not hold its value and that holds the access there; `win`: the access
is a load of a window line (R274, R279, R434). -/
def acqPending (s : State) (gid vd : Nat) (o : Ord) (win : Bool) : Bool :=
  (s.loads.any fun l => l.gid == gid && acqHolds l.acq win && l.els != [] && l.ord.before o) ||
  (s.stores.any fun e => e.gid == gid && acqHolds e.acq win && e.returns && e.ord.before o) ||
  (!win && (s.vd vd).waiters.any fun w => w.gid == gid && w.ord.before o)

/-- A load that a FENCE.st of the split came after and that does not hold its value: a store after that fence waits for it
(R273, R274). -/
def fencedLoad (s : State) (gid : Nat) (o : Ord) : Bool :=
  s.loads.any fun l => l.gid == gid && l.els != [] && l.ord.split == o.split && l.ord.born == o.born &&
    l.fenced.any fun q => decide (q < o.seq)

/-- Is an element of a load held: in a scratchpad that its device is not resident in (R399), by an acquire before it (a lower
lane of its own instruction comes before it too, R266), by an older load of the group of the same element (R267), or by an
atomic on the element that has not been performed (R511, R268). -/
def loadHeld (s : State) (o : LoadOp) (p : Nat × LoadEl) : Bool :=
  acqPending s o.gid o.vd o.ord p.2.loc.isWin || (p.2.loc.isSpad && !residentOn s o.core o.vd) ||
  (acqHolds o.acq p.2.loc.isWin && o.els.any fun e => decide (e.2.lane < p.2.lane)) ||
  (s.loads.any fun q => q.gid == o.gid && q.els.any fun e =>
    (decide (q.ord.seq < o.ord.seq) || (q.op == o.op && decide (e.1 < p.1))) && e.2.meets p.2) ||
  (s.stores.any fun e => e.isAtomic && e.meets p.2.loc.key p.2.len &&
    ((e.gid == o.gid && decide (e.ord.seq < o.ord.seq)) || (e.stage == .point && e.core == o.core)))

/-- May everything that a group loads before a place be performed now. -/
def earlierFree (s : State) (gid : Nat) (o : Ord) : Bool :=
  s.loads.all fun l => !(l.gid == gid && l.ord.before o) || l.els.all fun p => !loadHeld s l p

/-- The group's loads before a place in split order have been passed: until they are performed, no other store of the core
reaches the ordering point, so that the core sees total store order (R268). -/
def passLoads (s : State) (gid : Nat) (o : Ord) : State :=
  { s with loads := s.loads.map fun l =>
      if l.gid == gid && l.ord.before o && l.els != [] then { l with passed := true } else l }

/-- Is a store, or an atomic, kept from its core's ordering point by a load that was passed. -/
def passedBlocks (s : State) (core gid : Nat) (o : Ord) : Bool :=
  s.loads.any fun l => l.core == core && l.passed && l.els != [] && !(l.gid == gid && l.ord.before o)

/-- Is one store element performed at a scope by standing where it does (R269). -/
def StoreEl.performedAt (e : StoreEl) (scope : Nat) : Bool :=
  e.stage == .point && (decide (scope < 2) || (decide (scope < 5) && e.loc.isLinked)) && !e.isAtomic

/-- Is every store and atomic of a group with an issue number below `seq` performed at a scope (R273). -/
def storesDone (s : State) (gid seq scope : Nat) : Bool :=
  s.stores.all fun e => !(e.gid == gid && decide (e.ord.seq < seq)) || e.performedAt scope

/-- Does every load and returning atomic before a place in split order hold its value (R273). -/
def loadsDone (s : State) (gid : Nat) (o : Ord) : Bool :=
  (s.loads.all fun l => !(l.gid == gid && l.ord.before o) || l.els == []) &&
  (s.feqs.all fun q => !(q.gid == gid && !q.store && q.ord.before o)) &&
  (s.stores.all fun e => !(e.gid == gid && e.returns && e.ord.before o))

/-- May a release be performed: everything before it is performed at its scope, as a full fence would wait; the earlier
lanes of its own instruction come before it (R274), but for those that one .fe access takes with it (R211). -/
def releaseReady (s : State) (e : StoreEl) : Bool :=
  match e.rel with
  | none => true
  | some scope => storesDone s e.gid e.ord.seq scope && loadsDone s e.gid e.ord &&
      ((s.stores.takeWhile fun f => f.id != e.id).all fun f => f.op != e.op || (e.isFe && f.kind == e.kind) || f.performedAt scope)

/-- Is the element at the head of its group's store queue. -/
def atHead (s : State) (e : StoreEl) : Bool :=
  (s.stores.find? fun f => f.gid == e.gid && f.stage == .queued).map (·.op) == some e.op &&
  (e.isFe || (s.stores.find? fun f => f.gid == e.gid && f.stage == .queued).map (·.id) == some e.id)

/-- May an element at the head of its queue reach the ordering point (R268, R274). -/
def mayReach (s : State) (e : StoreEl) : Bool :=
  e.stage == .queued && (!e.loc.isSpad || residentOn s e.core e.vd) && atHead s e && !passedBlocks s e.core e.gid e.ord && !acqPending s e.gid e.vd e.ord false &&
  !fencedLoad s e.gid e.ord && !(e.acq.isSome && s.stores.any fun f => f.op == e.op && f.returns && decide (f.lane < e.lane)) &&
  releaseReady s e && earlierFree s e.gid e.ord &&
  !(s.loads.any fun l => l.gid == e.gid && l.ord.before e.ord && l.els.any fun p => e.meets p.2.loc.key p.2.len)

/-- Has an element at the ordering point an older one of the same place before it; elements of its own store, which go
with it, aside. -/
def pointBehind (s : State) (e : StoreEl) : Bool :=
  (s.stores.takeWhile fun f => f.id != e.id).any fun f =>
    f.stage == .point && (e.isAtomic || f.op != e.op) && (f.core == e.core || e.loc.isLinked) && f.meets e.loc.key e.bytes.length

/-! ### Completion -/

/-- `n` elements of a counted operation have completed (R54, R208). -/
def opDone (s : State) (op n : Nat) : State :=
  match s.ops.find? fun r => r.op == op with
  | none => s
  | some r =>
    if r.left ≤ n then { s with ops := s.ops.filter fun q => q.op != op }.modGroup r.gid fun g => g.wcDec r.wc
    else { s with ops := replaceBy (fun q => q.op == op) { r with left := r.left - n } s.ops }

/-- A fault of a counted operation, found after issue (R473). -/
def opFault (s : State) (op lane code addr detail : Nat) : State :=
  match s.ops.find? fun r => r.op == op with
  | none => s
  | some r =>
    match s.group? r.gid with
    | none => s
    | some g => raiseFault s r.gid (s.now g.core)
        { who := r.who, code := code, addr := addr, detail := detail, insn := r.insn, laneIns := r.laneIns,
          lane := if r.laneIns then lane else 127, spc := r.spc, lpc := r.lpc, low := r.low }

/-- The flags of a number as SAVEG.p lays them out, `n` lanes (R395). -/
def natFlags : Nat → Nat → List Flags
  | 0, _ => []
  | n + 1, x => BitVec.ofNat 5 x :: natFlags n (x / 32)

/-- Word `w` of a .p block restored: predicates in words 0 to 71, flags in words 72 to 86 (R395). -/
def Group.setPredWord (g : Group) (w : Nat) (x : Word) : Group :=
  if w < 72 then
    let m := g.preds.getD (w / 3) 0
    let pick := fun i => if w % 3 = i then x else maskWord m i
    { g with preds := padSet 0 g.preds (w / 3) (maskOf3 (pick 0) (pick 1) (pick 2)) }
  else if w < 87 then
    let n := flagsNat g.flags
    let sh := 2 ^ (32 * (w - 72))
    { g with flags := natFlags 96 (n / (sh * 2 ^ 32) * (sh * 2 ^ 32) + x.toNat * sh + n % sh) }
  else g

/-- A loaded or returned value written to its destination (R204); `born` tells which split the access came from. -/
def Group.writeDst (g : Group) (born : Nat) (d : LoadDst) (n : Nat) : Group :=
  match d with
  | .none => g
  | .sreg sp r => g.ssetLate sp born r (BitVec.ofNat 32 n)
  | .lane spec lane bits signed => g.vsetLane spec lane (BitVec.ofNat 32 (if signed then wrapN (sInt bits n) 32 else n))
  | .predWord w => g.setPredWord w (BitVec.ofNat 32 n)
  | .sregs4 sp r => (upto 4).foldl (fun h i => h.ssetLate sp born (r + i) (BitVec.ofNat 32 (n / 2 ^ (32 * i)))) g

/-- A value written to its destination, which clears the element's poison (R483). -/
def writeDst (s : State) (gid born : Nat) (d : LoadDst) (n : Nat) : State :=
  match s.group? gid with
  | none => s
  | some g =>
    let s1 := s.setGroup (g.writeDst born d n)
    match d with
    | .lane spec lane _ _ => unpoison s1 g (laneRegs spec 1) (BitVec.ofNat 96 (2 ^ lane))
    | _ => s1

/-! ### Granules -/

/-- The absolute granule of an absolute scratchpad byte. -/
def granuleOf (a : Nat) : Nat := a / 384 * 24 + a % 384 / 16
/-- Is a granule of a core empty (R209). -/
def granuleEmpty (s : State) (core n : Nat) : Bool := (s.core core).empties.contains n
/-- Granules set full. -/
def setFull (s : State) (core : Nat) (ns : List Nat) : State :=
  s.modCore core fun k => { k with empties := k.empties.filter (fun n => !ns.contains n),
                                   poison := k.poison.filter fun p => !(p.1 == 3 && ns.contains (24 * p.2.1 + p.2.2)) }
/-- Granules set empty. -/
def setEmpty (s : State) (core : Nat) (ns : List Nat) : State :=
  s.modCore core fun k => { k with empties := ns.foldl (fun l n => insertNat n l) k.empties }

end Sys2Proof.Machine
end

