-- ==== Sys2Proof/Machine/MemAccess.lean ====
section
/-! DEFINITION. The load, store and atomic instructions with their checks (R201 to R217, R457), the state-save accesses
(R394, R395), and the steps that perform them: LOAD_COMPLETE, STORE_ACCEPT, SPAD_ARRAY_WRITE, ATOMIC_PERFORM and
FE_ACCESS_SERVE. -/

namespace Sys2Proof.Machine

/-! ### The checks of an access (R209, R212, R213, R216) -/

/-- How an instruction uses memory: its space (0 device, 1 scratchpad, 2 by the address tag), its kind, its full/empty
qualifier, its width in bytes, the field that holds its address and the operation of an atomic. -/
structure MemUse where
  space : Nat
  kind : AccKind
  fe : Nat
  width : Nat
  fid : Nat
  op : Nat := 0

/-- Is the access one to scratchpad (R202). -/
def MemUse.spad (u : MemUse) (addr : Nat) : Bool := u.space = 1 || (u.space = 2 && decide (2 ^ 63 ≤ addr))

/-- The byte offset of a scratchpad address (R202). -/
def spadOff (addr : Nat) : Nat := addr % 2 ^ 32

/-- The address-form check: its subcode (R474). -/
def formBreach (u : MemUse) (addr : Nat) : Option Nat :=
  if u.spad addr then if addr / 2 ^ 32 % 2 ^ 31 ≠ 0 then some 3 else none
  else if u.space = 0 ∧ 2 ^ 63 ≤ addr then some 2
  else if addr / 2 ^ 52 ≠ 0 then some 1
  else if u.fe ≠ 0 then some 4
  else none

/-- A seal of a group's core that meets bytes it stores to (R212, R230); a copy that issued in the present cycle from a higher slot
comes after the store (R233). -/
def sealMeets (s : State) (g : Group) (spad : Bool) (lo len : Nat) : Option Seal :=
  (s.core g.core).seals.find? fun e =>
    e.vd == g.vd && e.gen == g.gen && e.spad == spad && decide (e.lo < lo + len) && decide (lo < e.lo + e.len) &&
    !(e.issued == s.now g.core && decide (g.slot < e.slot))

/-- First pannier of a device's grant on a core: the number that programs know an entry by is counted from it (R219). -/
def panFirst (s : State) (vd : Nat) : Nat := ((s.vd vd).part.map (·.pfirst)).getD 0

/-- DETAIL of a seal fault for a group of a core (R474). Beyond the rule's words: DEDUCED, log entry 17. -/
def sealDetail (s : State) (core : Nat) (e : Seal) (at_ : Nat) : Nat :=
  (e.pan - panFirst s e.vd) + 2 ^ 8 * e.share + (if e.dest then 2 ^ 12 else 0) + (if at_ = core then 0 else 2 ^ 13) +
  2 ^ 16 * at_ + 2 ^ 32 * min e.len (2 ^ 32 - 1)

/-- DETAIL of an empty-granule fault: row and granule of the team's allocation, and the source (R474). -/
def emptyDetail (off source : Nat) : Nat := off / 384 + 2 ^ 16 * (off % 384 / 16) + 2 ^ 24 * source

/-- DETAIL of an uncorrectable SRAM error (R474). -/
def poisonDetail (structure_ core row elem : Nat) : Nat := structure_ + 2 ^ 8 * core + 2 ^ 16 * row + 2 ^ 32 * elem

/-- The checks of one address, in order: code, ADDR and DETAIL of the first that fails (R213). -/
def accBreach (s : State) (g : Group) (u : MemUse) (addr : Nat) : Option (Nat × Nat × Nat) :=
  match formBreach u addr with
  | some sub => some (0x10, addr, sub + 2 ^ 8 * u.fid)
  | none =>
    let spad := u.spad addr
    let off := spadOff addr
    let abs := 384 * g.spBase + off
    if spad ∧ 384 * g.spRows ≤ off then some (0x12, addr, off + 2 ^ 32 * g.spRows)
    else if addr % u.width ≠ 0 then some (0x11, addr, u.width + 2 ^ 16 * u.fid)
    else if spad ∧ (s.core g.core).poison.contains (3, abs / 384, abs % 384 / 16) then
      some (0x18, addr, poisonDetail 3 g.core (abs / 384) (abs % 384 / 16))
    else if spad ∧ u.fe = 0 ∧ u.kind ≠ .write ∧ granuleEmpty s g.core (granuleOf abs) then
      some (0x13, addr, emptyDetail off (if u.kind = .atomic then 1 else 0))
    else if u.kind.writes then
      (sealMeets s g spad (if spad then abs else addr) u.width).map fun e =>
        (0x14, addr, sealDetail s g.core e g.core)
    else none

/-- The first failing lane of an instruction, with the code, ADDR and DETAIL. -/
def firstBreach (s : State) (g : Group) (u : MemUse) : List (Nat × Nat) → Option (Nat × Nat × Nat × Nat)
  | [] => none
  | (lane, addr) :: l =>
    match accBreach s g u addr with
    | some (c, a, d) => some (lane, c, a, d)
    | none => firstBreach s g u l

/-- The atomic-location check of an access: DETAIL where its operation is not done at a LOC (R216, R474). -/
def badAtomic (u : MemUse) (loc : Nat) : Option Nat :=
  let done := loc = 0 ∨ loc = 2 ∨ (loc = 1 ∧ (u.op = 0 ∨ u.op = 6 ∨ u.op = 7) ∧ (u.width = 4 ∨ u.width = 8))
  if u.kind ≠ .atomic ∨ done then none else some (u.op + 2 ^ 4 * loc + 2 ^ 8 * u.width)

/-- An access that its instruction may make. -/
structure Reached where
  lane : Nat
  addr : Nat
  place : Loc
  page : Nat
  hit : Option Hit
  deriving DecidableEq, Repr

/-- What comes of an instruction's checks and translations. -/
inductive Plan where
  | fault (lane code addr detail : Nat)
  /-- It parks: why, page, the host pages that it misses with their device pages, all its pages that park (R370). -/
  | park (s : State) (why page : Nat) (hosts : List (Nat × Nat)) (pages : List Nat) (lane addr : Nat)
  | go (s : State) (rs : List Reached)

/-- Translate the accesses of an instruction in lane order (R369): a fault of the lowest lane that has one, else a park of
the first that parks. -/
def reachAll (s : State) (g : Group) (u : MemUse) :
    List (Nat × Nat) → List Reached → Option (Nat × Nat × Nat × Nat) → List (Nat × Nat) → List Nat → Plan
  | [], rs, none, _, _ => .go s rs.reverse
  | [], _, some (why, page, lane, addr), hosts, pages => .park s why page hosts.reverse pages.reverse lane addr
  | (lane, addr) :: l, rs, parked, hosts, pages =>
    if u.spad addr then
      reachAll s g u l ({ lane := lane, addr := addr, place := .spad g.core (384 * g.spBase + spadOff addr), page := 0,
                          hit := none } :: rs) parked hosts pages
    else
      match translateFor s g.core g.vd addr u.kind (badAtomic u) with
      | (.hit h, s1) =>
        reachAll s1 g u l ({ lane := lane, addr := addr, place := h.place, page := h.page, hit := some h } :: rs) parked hosts pages
      | (.fault code d, _) => .fault lane code addr d
      | (.park why page host, s1) =>
        reachAll s1 g u l rs (if why = 4 then some (why, page, lane, addr) else parked.or (some (why, page, lane, addr))) ((missOf page host).filter (fun q => !hosts.contains q) ++ hosts)
          (if pages.contains page then pages else page :: pages)

/-- The checks of an instruction's accesses, then their translations (R213, R457).
Beyond the rule's words: DEDUCED, log entry 16. -/
def planAccess (s : State) (g : Group) (u : MemUse) (accs : List (Nat × Nat)) : Plan :=
  match firstBreach s g u accs with
  | some (lane, c, a, d) => .fault lane c a d
  | none => reachAll s g u accs [] none [] []

/-- The counts of R373 for the accesses of an instruction that issues. -/
def countReached (s : State) (vd : Nat) (rs : List Reached) : State := countAccess s vd (rs.filterMap (·.hit))

/-! ### Elements in flight -/

/-- A counted operation begins (R54): its record, and the counter one higher; with no element it is complete at once. -/
def startOp (s : State) (gid wc n : Nat) (r : OpRec) : State :=
  if n = 0 then s
  else { s with ops := s.ops ++ [{ r with wc := wc, left := n }] }.modGroup gid fun g => g.wcInc wc

/-- The record of a lane instruction's operation. -/
def LnIss.opRec (x : LnIss) (op : Nat) : OpRec :=
  { op := op, gid := x.g.gid, wc := 0, left := 0, insn := laneWord x.op x.l, laneIns := true, spc := x.b.spc,
    lpc := x.b.first + x.b.next, who := x.b.split, low := lowestLane x.b.mask }
/-- The record of a scalar instruction's operation. -/
def ScIss.opRec (x : ScIss) (op : Nat) : OpRec :=
  { op := op, gid := x.g.gid, wc := 0, left := 0, insn := x.word, laneIns := false, spc := x.sp.pc, lpc := 0, who := x.ix,
    low := issuerLow x.g x.ix none }

/-- The 4-byte pieces of an access (R205): offset and length. -/
def pieces (width : Nat) : List (Nat × Nat) :=
  if width < 4 then [(0, width)] else (upto (width / 4)).map fun i => (4 * i, 4)

/-- The elements of a load; `dst` gives the destination of word `i` of a lane. -/
def loadEls (rs : List Reached) (width : Nat) (dst : Nat → Nat → LoadDst) : List LoadEl :=
  rs.flatMap fun r => (pieces width).map fun p =>
    { loc := r.place.plus p.1, len := p.2, dst := dst r.lane (p.1 / 4), page := r.page, va := r.addr + p.1, lane := r.lane }

/-- A load enters flight. -/
def startLoad (s : State) (g : Group) (ord : Ord) (acq : Option Nat) (wc : Nat) (r : OpRec) (els : List LoadEl) : State :=
  if els = [] then s
  else
    { startOp s g.gid wc els.length r with
      loads := s.loads ++ [{ op := r.op, gid := g.gid, core := g.core, vd := g.vd, gen := g.gen, ord := ord, acq := acq,
                             els := (els.zipIdx).map fun p => (p.2, p.1), passed := false, fenced := none }] }

/-- The elements of a store or atomic: place, bytes, kind, page, address and lane of each. -/
structure StoreSpec where
  loc : Loc
  bytes : List Byte
  kind : StoreKind
  page : Nat
  va : Nat
  lane : Nat

/-- The elements of a plain store; `data` gives the bytes of a lane's access. -/
def storeSpecs (rs : List Reached) (width : Nat) (data : Nat → List Byte) (fe : Bool) : List StoreSpec :=
  rs.flatMap fun r => (pieces width).map fun p =>
    let l := r.place.plus p.1
    { loc := l, bytes := ((data r.lane).drop p.1).take p.2,
      kind := match l, fe with
        | .spad _ a, true => .fe (granuleOf a)
        | _, _ => .plain,
      page := r.page, va := r.addr + p.1, lane := r.lane }

/-- Elements enter the group's store queue together, in lane order (R206). -/
def startStore (s : State) (g : Group) (ord : Ord) (rel acq : Option Nat) (wc : Nat) (r : OpRec) (els : List StoreSpec) :
    State :=
  if els = [] then s
  else
    let s1 := startOp s g.gid wc els.length r
    { s1 with
      fresh := s1.fresh + els.length
      stores := s1.stores ++ (els.zipIdx).map fun p =>
        { id := s1.fresh + p.2, op := r.op, gid := g.gid, core := g.core, vd := g.vd, gen := g.gen, loc := p.1.loc,
          bytes := p.1.bytes, kind := p.1.kind, stage := .queued, rel := rel, acq := acq, ord := ord, page := p.1.page,
          va := p.1.va, lane := p.1.lane } }

/-- The accesses of a .fe or .fec load grouped by granule, in order of the first lane that names it (R211). -/
def feGroups : List LoadEl → List (Nat × List (Nat × Nat × LoadDst))
  | [] => []
  | e :: l =>
    match e.loc with
    | .spad _ a => (feGroups l).foldr (fun p acc => if p.1 = granuleOf a then acc else p :: acc) []
        |> fun rest => (granuleOf a, (a, e.len, e.dst) ::
            (((feGroups l).find? fun p => p.1 == granuleOf a).map (·.2)).getD []) :: rest
    | _ => feGroups l

/-- A .fe or .fec load reaches the port: one waiting access for each granule.
Beyond the rule's words: DEDUCED, log entry 21. -/
def startFeLoad (s : State) (g : Group) (ord : Ord) (take : Bool) (r : OpRec) (els : List LoadEl) : State :=
  if els = [] then s
  else
    let s1 := startOp (passLoads s g.gid ord) g.gid 1 els.length r
    let reqs := feGroups els
    { s1 with
      fresh := s1.fresh + reqs.length
      feqs := s1.feqs ++ (reqs.zipIdx).map fun p =>
        { id := s1.fresh + p.2, op := r.op, gid := g.gid, core := g.core, slot := g.slot, granule := p.1.1, store := false,
          take := take, since := s.now g.core, ord := ord, parts := p.1.2 } }

/-- A .fe store that stands at the head of its group's queue has reached the port (R210). -/
def portArrivals (s : State) : State :=
  s.groups.foldl (fun st g =>
    match st.stores.find? fun e => e.gid == g.gid && e.stage == .queued with
    | none => st
    | some e =>
      if !e.isFe || (st.feqs.any fun q => q.op == e.op) then st
      else
        let gs := (st.stores.filterMap fun f => match f.op == e.op, f.kind with
          | true, .fe n => some n
          | _, _ => none).eraseDups
        { st with
          fresh := st.fresh + gs.length
          feqs := st.feqs ++ (gs.zipIdx).map fun p =>
            { id := st.fresh + p.2, op := e.op, gid := g.gid, core := g.core, slot := g.slot, granule := p.1, store := true,
              take := false, since := st.now g.core, ord := e.ord, parts := [] } }) s

/-- Do accesses of a .fe or .fec operation still wait. -/
def feWaits (s : State) (op : Nat) : Bool :=
  (s.feqs.any fun q => q.op == op) || (s.stores.any fun e => e.op == op && e.isFe)

/-! ### Lane instructions -/

/-- Word `i` of a field's registers in a lane. -/
def laneWordAt (f : List (List Word)) (i lane : Nat) : Nat := ((f.getD i []).getD lane 0).toNat

/-- The address of a lane (R201). -/
def laneAddr (v : LaneVals) (lane : Nat) : Nat :=
  (laneWordAt v.a 0 lane + 2 ^ 32 * laneWordAt v.a 1 lane + laneWordAt v.b 0 lane) % 2 ^ 64

/-- The active lanes with their addresses. -/
def laneAccs (v : LaneVals) : List (Nat × Nat) := (maskLanes v.act).map fun l => (l, laneAddr v l)

/-- The width of a lane access in bytes (R204). -/
def memWidth (t e : Nat) : Nat := if isWideTy t then 8 else if t = tyB32 then 4 * memRegs t e else tyBits t / 8

/-- The scope of a lane access when its order bits ask for one (R213). -/
def laneScope (l : LaneF) (bit : Nat) : Option Nat :=
  if l.mode.toNat / 4 / bit % 2 = 1 then some (l.ext.toNat / 16 % 8) else none

/-- A lane access: its checks and translations, then what it does; a suspended .fe access that has been served is done. -/
def laneMem (s : State) (x : LnIss) (v : LaneVals) (u : MemUse) (go : State → List Reached → LnRes) : LnRes :=
  match x.b.block with
  | .fe op => if feWaits s op then .wait s (.fe op) else .out s { counted := true }
  | _ =>
    match planAccess s x.g u (laneAccs v) with
    | .fault lane c a d => .fault lane c a d
    | .park s1 why page hosts pages lane addr =>
      let (id, s2) := parkAt s1 x.g (16 + x.b.bid) none pages why page hosts addr (some (lnFaultRec x lane 0x23 addr 0))
      .wait s2 (.park id)
    | .go s1 rs => go s1 rs

/-- The destination of word `i` of a lane's load (R204). -/
def laneDst (l : LaneF) (lane i : Nat) : LoadDst :=
  let t := l.ty.toNat
  if l.dst.toNat = 0x3FE then .none
  else .lane (l.dst.toNat + i) lane (min 32 (tyBits t)) (t == tyI8 || t == tyI16)

/-- VLD and VLDS (R213). -/
def laneLoad (op space : Nat) (l : LaneF) (s : State) : Out :=
  laneIssue op l (fun s x v =>
    let w := memWidth l.ty.toNat l.ext.toNat
    let fe := l.mode.toNat % 4
    laneMem s x v { space := space, kind := .read, fe := fe, width := w, fid := 0x14 } fun s1 rs =>
      let wc := if space = 1 then 1 else 0
      if 255 ≤ x.g.wcGet wc ∧ rs ≠ [] then .hold
      else
        let s2 := countReached s1 x.g.vd rs
        let r := x.opRec s2.fresh
        let s3 := { s2 with fresh := s2.fresh + 1 }
        let els := loadEls rs w (laneDst l)
        if fe = 0 then .out (startLoad s3 x.g x.ord (laneScope l 1) wc r els) { counted := true }
        else if els = [] then .out s3 { counted := true }
        else .wait (startFeLoad s3 x.g x.ord (fe == 2) r els) (.fe r.op)) s

/-- The bytes that a lane stores: `width` bytes of its data words. -/
def laneData (v : LaneVals) (width lane : Nat) : List Byte :=
  ((upto (max 1 (width / 4))).flatMap fun i => natLe 4 (laneWordAt v.c i lane)).take width

/-- VST and VSTS (R213). -/
def laneStore (op space : Nat) (l : LaneF) (s : State) : Out :=
  laneIssue op l (fun s x v =>
    let w := memWidth l.ty.toNat l.ext.toNat
    let fe := l.mode.toNat % 4
    laneMem s x v { space := space, kind := .write, fe := fe, width := w, fid := 0x14 } fun s1 rs =>
      if 255 ≤ x.g.wcGet 2 ∧ rs ≠ [] then .hold
      else
        let s2 := countReached s1 x.g.vd rs
        let r := x.opRec s2.fresh
        let s3 := startStore { s2 with fresh := s2.fresh + 1 } x.g x.ord (laneScope l 2) none 2 r
          (storeSpecs rs w (laneData v w) (fe == 1))
        if fe = 0 ∨ rs = [] then .out s3 {} else .wait (portArrivals s3) (.fe r.op)) s

/-- VLD (R213). -/
def execVld (l : LaneF) (s : State) : Out := laneLoad 0x0C0 0 l s
/-- VST (R213). -/
def execVst (l : LaneF) (s : State) : Out := laneStore 0x0C1 0 l s
/-- VLDS (R213). -/
def execVlds (l : LaneF) (s : State) : Out := laneLoad 0x0C2 1 l s
/-- VSTS (R213). -/
def execVsts (l : LaneF) (s : State) : Out := laneStore 0x0C3 1 l s

/-- VATOM (R215). -/
def execVatom (l : LaneF) (s : State) : Out :=
  laneIssue 0x0C4 l (fun s x v =>
    let op := l.ext.toNat % 16
    let t := l.ty.toNat
    let w := if isWideTy t then 8 else 4
    laneMem s x v { space := 2, kind := .atomic, fe := 0, width := w, fid := 0x14, op := op } fun s1 rs =>
      let returns := l.dst.toNat ≠ 0x3FE
      let wc := if !returns then 2 else if rs.all fun r => r.place.isSpad then 1 else 0
      if 255 ≤ x.g.wcGet wc ∧ rs ≠ [] then .hold
      else
        let s2 := countReached s1 x.g.vd rs
        let r := x.opRec s2.fresh
        let cmp := fun lane => laneWordAt v.d 0 lane + 2 ^ 32 * (if w = 8 then laneWordAt v.d 1 lane else 0)
        let els := rs.map fun a =>
          { loc := a.place, bytes := laneData v w a.lane,
            kind := .atomic op (t == tyI32 || t == tyI64) (cmp a.lane) (if returns then some l.dst.toNat else none),
            page := a.page, va := a.addr, lane := a.lane : StoreSpec }
        .out (startStore { s2 with fresh := s2.fresh + 1 } x.g x.ord (laneScope l 2) (laneScope l 1) wc r els)
          { counted := true }) s

/-- Lane words of the hint space: they read no register, raise no fault and have no effect but their stall field's (R77). -/
def execLaneHint (op : BitVec 4) (l : LaneF) (s : State) : Out :=
  match issuingBatch s with
  | none => .fault .noIssuer
  | some (g, b) =>
    let x := laneIssOf (0x3F0 + op.toNat) l s g b
    .next (batchNext x 0 .noResult (laneStart s x))

/-! ### Scalar instructions -/

/-- The address of a scalar access: a base pair and an offset (R201). -/
def scAddr (v : List Word) : Nat := ((v.getD 0 0).toNat + 2 ^ 32 * (v.getD 1 0).toNat + (v.getD 2 0).toNat) % 2 ^ 64

/-- A forbidden write of scratchpad by a handler split (R393, R471). -/
def handlerSpad (x : ScIss) (u : MemUse) (addr : Nat) : Option Nat :=
  if x.ix = 8 ∧ u.spad addr ∧ u.kind.writes then
    some (1 + (if (x.g.handler.map (·.resume)).getD false then 2 ^ 8 else 0) + 2 ^ 16 * u.fid)
  else none

/-- A scalar access: its checks and translations, then what it does. -/
def scalarMem (s : State) (x : ScIss) (u : MemUse) (addrs : List Nat) (go : State → List Reached → ScRes) : ScRes :=
  match handlerSpad x u (addrs.headD 0) with
  | some d => .fault 0x0B 0 d
  | none =>
    match planAccess s x.g u (addrs.map fun a => (127, a)) with
    | .fault _ c a d => .fault c a d
    | .park s1 why page hosts pages _ addr =>
      let (id, s2) := parkAt s1 x.g x.ix none pages why page hosts addr (some (scFaultRec x 0x23 addr 0))
      .stay (s2.modGroup x.g.gid fun g => g.modSplit x.ix fun sp => { sp with block := .park id })
    | .go s1 rs => go s1 rs

/-- A scalar .fe or .fec access holds its split until it is served (R211). -/
def stayFe (s : State) (x : ScIss) (op : Nat) : ScRes :=
  .stay (s.modGroup x.g.gid fun g => g.modSplit x.ix fun sp => { sp with block := .fe op })

/-- SLD (R214). -/
def execSld (d : BitVec 6) (a b : BitVec 7) (f : BitVec 4) (t : BitVec 2) (s : State) : Out :=
  let fn := f.toNat % 4
  let w := if fn = 1 then 8 else 4
  let fe := if fn = 2 then 1 else if fn = 3 then 2 else 0
  let writes := if fn = 1 then [(0x02, d.toNat), (0x02, d.toNat + 1)] else [(0x02, d.toNat)]
  scalarIssue (.sld d a b f t) { reads := [a.toNat, a.toNat + 1, b.toNat], writes := writes } (fun s x v =>
    scalarMem s x { space := 2, kind := .read, fe := fe, width := w, fid := 0x03 } [scAddr v] fun s1 rs =>
      let wc := if 2 ^ 63 ≤ scAddr v then 1 else 0
      if 255 ≤ x.g.wcGet wc then .hold
      else
        let s2 := countReached s1 x.g.vd rs
        let r := x.opRec s2.fresh
        let s3 := { s2 with fresh := s2.fresh + 1 }
        let els := loadEls rs w (fun _ i => .sreg x.ix (d.toNat + i))
        if fe = 0 then .done (startLoad s3 x.g x.ord (if f.toNat / 4 = 1 then some 5 else none) wc r els)
        else stayFe (startFeLoad s3 x.g x.ord (fe == 2) r els) x r.op) s

/-- SST (R214). -/
def execSst (d : BitVec 6) (a b : BitVec 7) (f : BitVec 4) (t : BitVec 2) (s : State) : Out :=
  let fn := f.toNat % 4
  let w := if fn = 1 then 8 else 4
  let data := if fn = 1 then [d.toNat, d.toNat + 1] else [d.toNat]
  scalarIssue (.sst d a b f t) { reads := [a.toNat, a.toNat + 1, b.toNat] ++ data } (fun s x v =>
    scalarMem s x { space := 2, kind := .write, fe := if fn = 2 then 1 else 0, width := w, fid := 0x03 } [scAddr v] fun s1 rs =>
      if 255 ≤ x.g.wcGet 2 then .hold
      else
        let s2 := countReached s1 x.g.vd rs
        let r := x.opRec s2.fresh
        let s3 := startStore { s2 with fresh := s2.fresh + 1 } x.g x.ord (if f.toNat / 4 = 2 then some 5 else none) none 2 r
          (storeSpecs rs w (fun _ => (v.drop 3).flatMap fun z => natLe 4 z.toNat) (fn == 2))
        if fn = 2 then stayFe (portArrivals s3) x r.op else .done s3) s

/-- SATOM (R215): its address is a pair, with no offset. -/
def execSatom (d : BitVec 6) (a b : BitVec 7) (f : BitVec 4) (t : BitVec 2) (s : State) : Out :=
  let op := f.toNat % 8
  let nr := f.toNat / 8 = 1
  scalarIssue (.satom d a b f t)
    { reads := [a.toNat, a.toNat + 1, b.toNat] ++ (if op = 7 then [b.toNat + 1] else []),
      writes := if nr then [] else [(0x02, d.toNat)] } (fun s x v =>
    let addr := scAddr (v.take 2)
    scalarMem s x { space := 2, kind := .atomic, fe := 0, width := 4, fid := 0x03, op := op } [addr] fun s1 rs =>
      let wc := if nr then 2 else if 2 ^ 63 ≤ addr then 1 else 0
      if 255 ≤ x.g.wcGet wc then .hold
      else
        let s2 := countReached s1 x.g.vd rs
        let r := x.opRec s2.fresh
        let els := rs.map fun a =>
          { loc := a.place, bytes := natLe 4 (v.getD 2 0).toNat,
            kind := .atomic op true (v.getD 3 0).toNat (if nr then none else some (0x340 + d.toNat)), page := a.page,
            va := a.addr, lane := 127 : StoreSpec }
        .done (startStore { s2 with fresh := s2.fresh + 1 } x.g x.ord none none wc r els)) s

/-! ### SAVEG and LOADG (R392, R394, R395) -/

/-- A handler record that is in order (R392). -/
structure HandlerRec where
  scode : Nat
  slen : Nat
  save : Nat
  resume : Nat
  size : Nat
  base : Nat
  deriving DecidableEq, Repr

/-- The place of a byte of a converged mapping, as the hardware reads it for itself; none where nothing is mapped. -/
def plainPlace (s : State) (vd va : Nat) : Option Loc :=
  ((s.vd vd).maps.find? fun m => m.va ≤ va && va < m.va + m.size).bind fun m =>
    if m.self then
      let e := s.natAt (.hbm vd (selfEntryAt m va)) 8
      if bitsOf e 0 1 = 1 ∧ selfLeafOk m e then some (selfPlace m vd (leafOfEntry e) va) else none
    else if windowGone s vd m then none else some (mappedPlace s vd m va)

/-- Is the code of a handler in pages with X. -/
def codePages (s : State) (vd lo len : Nat) (needX : Bool) : Bool :=
  (upto (len / 2 ^ 16 + 2)).all fun i =>
    let va := if i = 0 then lo else lo / 2 ^ 16 * 2 ^ 16 + 2 ^ 16 * i
    lo + len ≤ va || (s.vd vd).maps.any fun m => m.va ≤ va && va < m.va + m.size &&
      (if m.self then
         let e := s.natAt (.hbm vd (selfEntryAt m va)) 8
         bitsOf e 0 1 = 1 && selfLeafOk m e && (if needX then bitsOf e 3 1 = 1 else bitsOf e 2 1 = 1)
       else if needX then m.x else m.w)

/-- A port. -/
def portOf (s : State) (n : Nat) : Port := (s.hub.ports[n]?).getD { up := false, retries := 0, seq := 0 }

/-- The 64 bytes of a handler record; none where it cannot be read: a byte is not mapped, its line fails, or it lies behind a
port that is down (R392, R481, R484). -/
def handlerBytes (s : State) (vd va : Nat) : Option (List Byte) :=
  (upto 64).mapM fun i => (plainPlace s vd (va + i)).bind fun l =>
    if (badLine s l).isSome then none
    else match l with
      | .peer q _ _ => if (portOf s q).up then some (s.homeByte vd l) else none
      | _ => some (s.homeByte vd l)

/-- The handler record of a device, if it is valid (R392). -/
def handlerRec (s : State) (vd : Nat) : Option HandlerRec :=
  match (s.vd vd).ctx with
  | none => none
  | some c =>
    if c.handler = 0 then none
    else (handlerBytes s vd c.handler).bind fun bs =>
      let w := fun off n => leNat ((bs.drop off).take n)
      let r : HandlerRec := { scode := w 0 8, slen := w 8 4, save := w 12 4, resume := w 16 4, size := w 20 4, base := w 24 8 }
      if r.scode % 128 = 0 ∧ 1 ≤ r.slen ∧ r.slen ≤ 2 ^ 20 ∧ r.save < r.slen ∧ r.resume < r.slen ∧ r.size % 384 = 0 ∧
          384 ≤ r.size ∧ r.size ≤ 1048320 ∧ r.base % 128 = 0 ∧ w 32 32 = 0 ∧ codePages s vd r.scode (4 * r.slen) true ∧
          codePages s vd r.base 1 false then some r
      else none

/-- The start of a group's save area (R394). -/
def saveArea (s : State) (g : Group) (r : HandlerRec) : Nat :=
  let cores := ((s.vd g.vd).part.map (·.cores)).getD []
  r.base + r.size * (24 * (cores.filter fun c => c < g.core).length + g.slot)

/-- The words of a register block as they stand at issue; a lane result that comes early may be seen either way. -/
def blockWords (s : State) (x : ScIss) (r : PReg) : List Word × State :=
  readReg s x.g x.ix (·.seenBy x.ix x.t) r (x.g.vval r.spec)

/-- The .p block: predicates, then flags, then zeros (R395). -/
def predBlock (g : Group) : List Byte :=
  (g.preds.flatMap fun m => natLe 12 m.toNat) ++ natLe 60 (flagsNat g.settleAll.flags) ++ List.replicate 36 0

/-- The checks that SAVEG and LOADG share, and the addresses of their 4-byte elements. -/
def saveAccess (s : State) (x : ScIss) (size off : Nat) (u : MemUse) (go : State → List Reached → ScRes) : ScRes :=
  match handlerRec s x.g.vd with
  | none => .fault 0x0C 0 off
  | some r =>
    if off % (if size = 4 then 4 else 16) ≠ 0 ∨ r.size < off + size then .fault 0x0C 0 (off + 2 ^ 32 * r.size)
    else scalarMem s x u ((upto (size / 4)).map fun i => (saveArea s x.g r + off + 4 * i) % 2 ^ 64) go

/-- Why a lane register that SAVEG or LOADG names keeps it from going on: DETAIL of the register-out-of-allocation fault (R46), or
the scoreboard holds the register (R55). -/
def laneRegBreach (x : ScIss) : Option PReg → Option Nat
  | some (.v n) => if x.g.launch.vregs ≤ n then some (n + 2 ^ 16 * x.g.launch.vregs + 2 ^ 32 * 0x02) else none
  | _ => none

/-- SAVEG of a block whose bytes `data` gives, of the lane register `lreg` if it saves one: it stores like an SST (R395). -/
def execSaveg (i : Instr) (a : BitVec 7) (reads : List Nat) (lreg : Option PReg) (size : Nat)
    (data : State → ScIss → List Word → List Byte × State) (s : State) : Out :=
  scalarIssue i { reads := a.toNat :: reads } (fun s x v =>
    match laneRegBreach x lreg with
    | some d => .fault 0x05 0 d
    | none => if lreg.any (lnLocked x.g x.ix false) then .hold else saveBody s x v) s
where
  saveBody (s : State) (x : ScIss) (v : List Word) : ScRes :=
    saveAccess s x size (v.getD 0 0).toNat { space := 2, kind := .write, fe := 0, width := 4, fid := 0x03 } fun s1 rs =>
      if 255 ≤ x.g.wcGet 2 then .hold
      else
        let (bytes, s2) := data (countReached s1 x.g.vd rs) x (v.drop 1)
        let r := x.opRec s2.fresh
        let els := (rs.zipIdx).map fun p =>
          { loc := p.1.place, bytes := (bytes.drop (4 * p.2)).take 4, kind := .plain, page := p.1.page, va := p.1.addr,
            lane := 127 : StoreSpec }
        .done (startStore { s2 with fresh := s2.fresh + 1 } x.g x.ord none none 2 r els)

/-- SAVEG.s (R395). -/
def execSavegS (d : BitVec 6) (a : BitVec 7) (t : BitVec 2) (s : State) : Out :=
  execSaveg (.savegS d a t) a [d.toNat] none 4 (fun s _ v => (natLe 4 (v.getD 0 0).toNat, s)) s

/-- SAVEG.v (R395). -/
def execSavegV (d : BitVec 6) (a : BitVec 7) (v : BitVec 2) (t : BitVec 2) (s : State) : Out :=
  let n := d.toNat + 64 * v.toNat
  execSaveg (.savegV d a v t) a [] (some (.v n)) 384 (fun s x _ =>
    let (ws, s1) := blockWords s x (.v n)
    (ws.flatMap fun w => natLe 4 w.toNat, s1)) s

/-- SAVEG.o (R395). -/
def execSavegO (d : BitVec 6) (a : BitVec 7) (t : BitVec 2) (s : State) : Out :=
  execSaveg (.savegO d a t) a [] (some (.o d.toNat)) 384 (fun s x _ =>
    let (ws, s1) := blockWords s x (.o d.toNat)
    (ws.flatMap fun w => natLe 4 w.toNat, s1)) s

/-- SAVEG.p (R395). -/
def execSavegP (a : BitVec 7) (t : BitVec 2) (s : State) : Out :=
  execSaveg (.savegP a t) a [] none 384 (fun s x _ => (predBlock x.g, s)) s

/-- LOADG of a block, to the lane register `lreg` or the scalar register `sreg` if it is one's: word `i` goes to `dst i` when it
arrives; the last words of a .p block are not restored (R395). -/
def execLoadg (i : Instr) (a : BitVec 7) (lreg : Option PReg) (sreg : Option Nat) (size words : Nat)
    (dst : Nat → Nat → LoadDst) (s : State) : Out :=
  scalarIssue i { reads := [a.toNat], ban := 1 } (fun s x v =>
    match laneRegBreach x lreg with
    | some d => .fault 0x05 0 d
    | none => if lreg.any (lnLocked x.g x.ix true) then .hold else loadBody s x v) s
where
  loadBody (s : State) (x : ScIss) (v : List Word) : ScRes :=
    saveAccess s x size (v.getD 0 0).toNat { space := 2, kind := .read, fe := 0, width := 4, fid := 0x03 } fun s1 rs =>
      if 255 ≤ x.g.wcGet 0 ∨ (sreg.map fun n => scLocked x.g x.ix n).getD false then .hold
      else
        let s2 := countReached s1 x.g.vd rs
        let r := x.opRec s2.fresh
        let els := (((rs.take words).zipIdx).map fun p =>
          { loc := p.1.place, len := 4, dst := dst x.ix p.2, page := p.1.page, va := p.1.addr, lane := 127 : LoadEl })
        .done (startLoad { s2 with fresh := s2.fresh + 1 } x.g x.ord none 0 r els)

/-- LOADG.s (R395). -/
def execLoadgS (d : BitVec 6) (a : BitVec 7) (t : BitVec 2) (s : State) : Out :=
  execLoadg (.loadgS d a t) a none (some d.toNat) 4 1 (fun ix _ => .sreg ix d.toNat) s

/-- LOADG.v (R395). -/
def execLoadgV (d : BitVec 6) (a : BitVec 7) (v : BitVec 2) (t : BitVec 2) (s : State) : Out :=
  let n := d.toNat + 64 * v.toNat
  execLoadg (.loadgV d a v t) a (some (.v n)) none 384 96 (fun _ i => .lane n i 32 false) s

/-- LOADG.o (R395). -/
def execLoadgO (d : BitVec 6) (a : BitVec 7) (t : BitVec 2) (s : State) : Out :=
  execLoadg (.loadgO d a t) a (some (.o d.toNat)) none 384 96 (fun _ i => .lane (0x100 + d.toNat) i 32 false) s

/-- LOADG.p (R395). -/
def execLoadgP (a : BitVec 7) (t : BitVec 2) (s : State) : Out :=
  execLoadg (.loadgP a t) a none none 384 87 (fun _ i => .predWord i) s

/-! ### The steps of memory -/

/-- An element of a load is performed: its value goes to its destination, or its line fails and its group faults (R208,
R473, R483). -/
def performLoad (s : State) (o : LoadOp) (p : Nat × LoadEl) (fail : Option (Nat × Nat × Nat)) : State :=
  let e := p.2
  let s0 := passLoads s o.gid o.ord
  let goes := fun (q : Nat × LoadEl) => q.1 == p.1 || (fail.isSome && q.2.loc.line == e.loc.line)
  let n := (o.els.filter goes).length
  let rest := fun (l : LoadOp) =>
    let left := l.els.filter fun q => !goes q
    if l.op != o.op then some l
    else if left = [] then none
    else some { l with els := left, passed := l.passed || left.any fun q => decide (q.1 < p.1) }
  let s1 := { s0 with loads := s0.loads.filterMap rest }
  let spadPoison : Option (Nat × Nat × Nat) := match e.loc with
    | .spad core a => (s.core core).poison.find? fun q => q.1 == 2 && q.2.1 == a / 384 && q.2.2 == a % 384 / 4
    | _ => none
  match fail, spadPoison with
  | some (code, addr, d), _ =>
    opDone (opFault (fenceZero s1 e.loc) o.op (((o.els.filter goes).map fun q => q.2.lane).foldl min 127) code addr d) o.op n
  | none, some q => opDone (opFault s1 o.op e.lane 0x18 e.va (poisonDetail 2 o.core q.2.1 q.2.2)) o.op 1
  | none, none =>
    opDone (writeDst s1 o.gid o.ord.born e.dst (leNat (s.loadBytes o.core o.vd o.gid o.ord.seq false e.loc e.len))) o.op 1

/-- The fault of a line that is known to fail, for an access at an address (R481). -/
def lineFault (s : State) (l : Loc) (va agent : Nat) : Option (Nat × Nat × Nat) :=
  (badLine s l).map fun b =>
    (b.1, va / 128 * 128, lineDetail b.1 b.2 agent (stackOf s l) + if l.isWin && b.1 == 0x17 then 2 ^ 8 else 0)

/-- The failing line that a store meets where it lands; a store to a window line is staged (R279). -/
def storeBad (s : State) (l : Loc) : Option (Nat × Nat) := if l.isWin then none else badLine s l

/-- May the elements of loads before this one in its own instruction be passed by it. -/
def ownEarlierFree (s : State) (o : LoadOp) (ix : Nat) : Bool :=
  o.els.all fun q => decide (ix ≤ q.1) || !loadHeld s o q

/-- LOAD_COMPLETE (R207, R208, R268, R274). -/
def execLoadComplete (id el : Nat) (s : State) : Out :=
  match s.loads.find? fun o => o.op == id with
  | none => .next s
  | some o =>
    match o.els.find? fun p => p.1 == el with
    | none => .next s
    | some p =>
      if loadHeld s o p || !earlierFree s o.gid o.ord || !ownEarlierFree s o el then .next s
      else .next (performLoad s o p (lineFault s p.2.loc p.2.va 0))

/-- An element leaves its queue for the ordering point: it stands after everything accepted before it (R268). -/
def acceptEl (s : State) (e : StoreEl) : State :=
  let s1 := passLoads s e.gid e.ord
  { s1 with stores := (s1.stores.filter fun f => f.id != e.id) ++ [{ e with stage := .point }] }

/-- The staged stores that a release at .win finds are written before it is performed, a line at a time (R279). -/
def releaseWin (s : State) (e : StoreEl) : Option State := if e.rel = some 6 then s.writebackSome e.vd e.gid else none

/-- The value that a release at .win stores in a window line goes on to the line (R279). -/
def releaseOwn (s : State) (e : StoreEl) : State :=
  match e.rel, e.loc with
  | some 6, .win uid off => s.writeLine e.vd e.gid (uid, off / 128 * 128)
  | _, _ => s

/-- The 128 bytes of a line are all among the elements. -/
def coversLine (line : Nat) (els : List StoreEl) : Bool :=
  (upto 128).all fun i => els.any fun e => e.covers (128 * line + i)

/-- One transaction of a store's elements to their line arrives where the line lives (R206, R269). -/
def landLine (s : State) (e : StoreEl) (els : List StoreEl) : State :=
  let ids := els.map (·.id)
  let gone := { s with stores := s.stores.filter fun f => !ids.contains f.id }
  let count := match e.loc with
    | .host _ => 0
    | _ => els.length
  match storeBad s e.loc with
  | some b =>
    if coversLine e.loc.line els then
      let s1 := clearBad (els.foldl (fun st f => st.store f.vd f.gid f.loc f.bytes) gone) e.loc
      opDone (s1.bumpLine e.loc) e.op count
    else
      opDone (opFault (fenceZero gone e.loc) e.op ((els.map (·.lane)).foldl min 127) b.1 (e.va / 128 * 128)
        (lineDetail b.1 b.2 0 (stackOf s e.loc))) e.op count
  | none =>
    let s1 := els.foldl (fun st f => st.store f.vd f.gid f.loc f.bytes) gone
    let s2 := match e.loc with
      | .win _ _ => s1
      | _ => s1.bumpLine e.loc
    opDone (releaseOwn s2 e) e.op count

/-- A split that waits for its one store, CANCEL's, goes on (R325). -/
def wakeWrite (s : State) (gid op : Nat) : State :=
  if s.ops.any fun r => r.op == op then s
  else s.modGroup gid fun g => { g with
    splits := g.splits.map fun sp => if sp.block == Block.write op then { sp with block := .none, pc := sp.pc + 1 } else sp }

/-- A peer device refuses a store or an atomic: its bytes are written nowhere, and the sender faults (R365, R484). -/
def peerRefuses (s : State) (e : StoreEl) (els : List StoreEl) (port : Nat) : State :=
  let ids := els.map (·.id)
  let gone := { s with stores := s.stores.filter fun f => !ids.contains f.id }
  wakeWrite (opDone (opFault gone e.op ((els.map (·.lane)).foldl min 127) 0x1A e.va (port + 2 ^ 5)) e.op els.length) e.gid e.op

/-- Elements arrive where they live; a peer device admits them or not, which its own records decide (R365). -/
def landing (s : State) (e : StoreEl) (els : List StoreEl) (go : State → State) : State :=
  match e.loc with
  | .peer port _ _ =>
    let (refused, s1) := s.takeBit
    if refused then peerRefuses s1 e els port else go s1
  | _ => go s

/-- STORE_ACCEPT: an element at the head of its queue is accepted at the ordering point or the port; one at the ordering
point goes with its line's other elements to the point of coherence (R208, R268, R269, R271). -/
def execStoreAccept (id : Nat) (s : State) : Out :=
  match s.stores.find? fun e => e.id == id with
  | none => .next s
  | some e =>
    if e.stage = .queued then
      if e.isFe || (e.isAtomic && e.loc.isSpad) || !mayReach s e then .next s
      else match releaseWin s e with
        | some s1 => .next s1
        | none =>
          let s1 := acceptEl s e
          .next (portArrivals (match e.loc, e.isAtomic with
            | .spad _ _, false => opDone s1 e.op 1
            | .host _, false => opDone s1 e.op 1
            | _, _ => s1))
    else if e.loc.isSpad || e.isAtomic then .next s
    else
      let els := s.stores.filter fun f => f.op == e.op && f.stage == .point && f.loc.line == e.loc.line
      let rest := s.stores.any fun f => f.op == e.op && f.stage == .queued && f.rel.isNone && f.loc.line == e.loc.line
      if (els.any fun f => pointBehind s f) || ((storeBad s e.loc).isSome && rest) then .next s
      else .next (landing s e els fun st => landLine st e els)

/-- SPAD_ARRAY_WRITE: the oldest store in a core's port buffer is written to the array (R270). -/
def execSpadArrayWrite (core : Nat) (s : State) : Out :=
  match s.stores.find? fun e => e.core == core && e.stage == .point && e.loc.isSpad with
  | none => .next s
  | some e => .next ({ s with stores := s.stores.filter fun f => f.id != e.id }.land e.loc e.bytes)

/-- The new value of an atomic's element (R215), `w` bits wide. -/
def atomicNew (op w : Nat) (signed : Bool) (cmp old d : Nat) : Nat :=
  match op with
  | 0 => (old + d) % 2 ^ w
  | 1 => Nat.land old d
  | 2 => Nat.lor old d
  | 3 => Nat.xor old d
  | 4 => if signed then (if sInt w d < sInt w old then d else old) else min old d
  | 5 => if signed then (if sInt w old < sInt w d then d else old) else max old d
  | 6 => d
  | 7 => if old = cmp then d else old
  | _ => (enc fmtF32 (xAdd (dec fmtF32 old false) (dec fmtF32 d false) .rne) .rne false false).1

/-- The old value of an atomic goes to its destination register or pair. -/
def writeReturn (s : State) (e : StoreEl) (ret : Option Nat) (old : Nat) : State :=
  match ret with
  | none => s
  | some spec =>
    if 0x340 ≤ spec then writeDst s e.gid e.ord.born (.sreg e.ord.split (spec - 0x340)) old
    else
      let s1 := writeDst s e.gid e.ord.born (.lane spec e.lane 32 false) old
      if e.bytes.length = 8 then writeDst s1 e.gid e.ord.born (.lane (spec + 1) e.lane 32 false) (old / 2 ^ 32) else s1

/-- An atomic is performed where its element lives (R216). -/
def performAtomic (s : State) (e : StoreEl) : State :=
  let gone := { s with stores := s.stores.filter fun f => f.id != e.id }
  match e.kind with
  | .atomic op signed cmp ret =>
    match lineFault s e.loc e.va 0 with
    | some (code, addr, d) => opDone (opFault (fenceZero gone e.loc) e.op e.lane code addr d) e.op 1
    | none =>
      let n := e.bytes.length
      let old := leNat ((upto n).map fun i => s.homeByte e.vd (e.loc.plus i))
      let new := atomicNew op (8 * n) signed cmp old (leNat e.bytes)
      opDone (writeReturn ((gone.land e.loc (natLe n new)).bumpLine e.loc) e ret old) e.op 1
  | _ => s

/-- Does the port buffer of a core hold an older store of the element. -/
def buffered (s : State) (e : StoreEl) : Bool :=
  s.stores.any fun f => f.stage == .point && f.core == e.core && f.meets e.loc.key e.bytes.length

/-- ATOMIC_PERFORM (R216, R511). -/
def execAtomicPerform (id : Nat) (s : State) : Out :=
  match s.stores.find? fun e => e.id == id with
  | none => .next s
  | some e =>
    if !e.isAtomic then .next s
    else if e.loc.isSpad then
      if !mayReach s e || buffered s e then .next s
      else match releaseWin s e with
        | some s1 => .next s1
        | none => .next (portArrivals (performAtomic (passLoads s e.gid e.ord) e))
    else if e.stage = .point ∧ !pointBehind s e then .next (landing s e [e] fun st => performAtomic st e)
    else .next s

/-! ### Full/empty accesses (R209 to R211) -/

/-- Which of two waiting accesses reached the port first (R210). -/
def FeReq.earlier (a b : FeReq) : Bool :=
  decide (a.since < b.since) || (a.since == b.since && (decide (a.slot < b.slot) || (a.slot == b.slot && decide (a.id < b.id))))

/-- A .fe or .fec load of a granule is served: its bytes are read in one step. -/
def serveLoad (s : State) (q : FeReq) : State :=
  match s.group? q.gid with
  | none => s
  | some g =>
    let s1 := q.parts.foldl (fun st p =>
      writeDst st q.gid q.ord.born p.2.2 (leNat (s.loadBytes q.core g.vd q.gid q.ord.seq true (.spad q.core p.1) p.2.1)))
      { s with feqs := s.feqs.filter fun r => r.id != q.id }
    opDone (if q.take then setEmpty s1 q.core [q.granule] else s1) q.op q.parts.length

/-- The elements of a .fe store's granule. -/
def feEls (s : State) (q : FeReq) : List StoreEl :=
  s.stores.filter fun e => e.op == q.op && e.kind == .fe q.granule

/-- A .fe store of a granule is served: its bytes enter the port buffer and the granule is set full. -/
def serveStore (s : State) (q : FeReq) : State :=
  let els := feEls s q
  let s1 := els.foldl acceptEl { s with feqs := s.feqs.filter fun r => r.id != q.id }
  let s2 := { s1 with stores := s1.stores.map fun e => if e.op == q.op && e.stage == .point then { e with kind := .plain } else e }
  portArrivals (opDone (setFull s2 q.core [q.granule]) q.op els.length)

/-- A split whose .fe or .fec access has been served in full goes on. -/
def wakeFe (s : State) (gid op : Nat) : State :=
  if feWaits s op then s
  else s.modGroup gid fun g =>
    (upto 9).foldl (fun h i => h.modSplit i fun sp =>
      if sp.block == Block.fe op then { sp with block := .none, pc := sp.pc + 1 } else sp) g

/-- May a waiting load be served now. -/
def feLoadReady (s : State) (q : FeReq) : Bool :=
  match s.group? q.gid with
  | none => false
  | some g => !q.store && (q.ord.split == 8 || !g.frozen) && residentOn s q.core g.vd && !granuleEmpty s q.core q.granule && !acqPending s q.gid g.vd q.ord false && earlierFree s q.gid q.ord &&
      !(s.stores.any fun e => e.isAtomic && q.parts.any fun p => e.meets (Loc.spad q.core p.1).key p.2.1 &&
        (e.gid == q.gid && decide (e.ord.seq < q.ord.seq)))

/-- May a waiting .fe store be served now. -/
def feStoreReady (s : State) (q : FeReq) : Bool :=
  q.store && granuleEmpty s q.core q.granule && (feEls s q != []) && (feEls s q).all fun e => mayReach s e

/-- Does a waiting access that can be served now come before another of its granule (R210). -/
def feBehind (s : State) (q : FeReq) : Bool :=
  s.feqs.any fun r => r.core == q.core && r.granule == q.granule && r.earlier q &&
    (if q.store then feStoreReady s r else r.take && feLoadReady s r)

/-- Can a waiting access be served now (R210). -/
def feDue (s : State) (q : FeReq) : Bool :=
  if q.store then feStoreReady s q && !feBehind s q else feLoadReady s q && !(q.take && feBehind s q)

/-- FE_ACCESS_SERVE: the access is served at a state of its granule that meets its condition; .fe loads together, and of
.fec loads and .fe stores the one that reached the port first (R210). -/
def execFeAccessServe (id : Nat) (s : State) : Out :=
  match s.feqs.find? fun q => q.id == id with
  | none => .next s
  | some q =>
    if !feDue s q then .next s
    else if q.store then
      match (feEls s q).findSome? (releaseWin s) with
      | some s1 => .next s1
      | none => .next (wakeFe (serveStore s q) q.gid q.op)
    else
      let plain := s.feqs.filter fun r => r.core == q.core && r.granule == q.granule && !r.store && !r.take && feLoadReady s r
      let s1 := plain.foldl (fun st r => wakeFe (serveLoad st r) r.gid r.op) s
      .next (if q.take then wakeFe (serveLoad s1 q) q.gid q.op else s1)

end Sys2Proof.Machine
end

