-- ==== Sys2Proof/Machine/Rings.lean ====
section
/-! DEFINITION. Records, rings and the DVSEC status of a function (R445 to R449, R452, R507), fences (R454, R455), and the
outcome of a line that fails (R480, R481). -/

namespace Sys2Proof.Machine

/-- A ring entry, field by field (R446). -/
structure RingRec where
  type : Nat
  code : Nat
  vd : Nat
  gen : Nat := 0
  core : Nat := 0
  slot : Nat := 0
  lid : Nat := 0
  spc : Nat := 0
  /-- LANEINS, NSPL, LANE and LPC. -/
  w14 : Nat := 0
  splits : Nat := 0
  w1c : Nat := 0
  addr : Nat := 0
  detail : Nat := 0
  insn : Nat := 0
  deriving DecidableEq, Repr

/-- The 64 bytes of an entry (R446). -/
def RingRec.bytes (r : RingRec) (seq : Nat) : List Byte :=
  natLe 4 (r.type * 2 ^ 28 + r.code * 2 ^ 16 + r.vd) ++ natLe 4 seq ++
  natLe 4 (r.gen % 2 ^ 16 * 2 ^ 16 + r.core * 2 ^ 8 + r.slot) ++ natLe 4 r.lid ++ natLe 4 r.spc ++ natLe 4 r.w14 ++
  natLe 4 r.splits ++ natLe 4 r.w1c ++ natLe 8 r.addr ++ natLe 8 r.detail ++ natLe 12 r.insn ++ natLe 4 0

/-- What a mirror keeps when the device's VISMASK hides it (R449). -/
def RingRec.hidden (r : RingRec) : RingRec := { type := r.type, code := r.code, vd := r.vd }

/-- Offset of a ring's control words in the device's own pages (R447). -/
def ringCtl : Nat := 0x30000
/-- Offset of its entries. -/
def ringEntries : Nat := 0x40000

/-- The status bits of R452. -/
def stGroup : Nat := 1
def stRecord : Nat := 2
def stConflict : Nat := 4
def stOverflow : Nat := 8
def stIntegrity : Nat := 16
def stReset : Nat := 32
def stFenced : Nat := 64
def stCorrected : Nat := 128

/-- Status bits of a function set (R452). -/
def setStatus (s : State) (f bits : Nat) : State :=
  s.modVd f fun d => { d with status := d.status ||| BitVec.ofNat 32 bits }

/-- RING_POST: the entry, then PROD + 1; dropped when the ring is full; a failing line of the ring fences (R447, R452, R481). -/
def ringPost (s : State) (f bits : Nat) (r : RingRec) : State :=
  let size := (s.vd f).ringSize
  if size = 0 then s
  else
    let prod := sysWord s f ringCtl
    let cons := sysWord s f (ringCtl + 8)
    let bs := r.bytes prod
    let full := (prod + 2 ^ 32 - cons) % 2 ^ 32 = size
    let s1 := (setStatus s f (bits + if full then stOverflow else 0)).modVd f fun d =>
      { d with hdrlog := BitVec.ofNat 128 (leNat (bs.take 16)) }
    if full then setSysWord s1 f (ringCtl + 4) (sysWord s1 f (ringCtl + 4) + 1)
    else
      let at_ := Loc.sys f (ringEntries + 64 * (prod % size))
      fenceBad (fenceBad (setSysWord (s1.putBytes at_ bs) f ringCtl (prod + 1)) f 0xFF at_) f 0xFF (.sys f ringCtl)

/-- A record of a device in its own ring and, as a mirror, in the physical function's ring (R449). -/
def postMirrored (s : State) (vd bits : Nat) (r : RingRec) : State :=
  if vd = 0 then ringPost s 0 bits r
  else
    let seen : Bool := match (s.vd vd).ctx with
      | some c => c.effMask.testBit 2
      | none => false
    ringPost (ringPost s vd bits r) 0 bits (if seen then r else r.hidden)

/-- A device event (R445, R449, R507). -/
def postEvent (s : State) (code vd gen detail : Nat) : State :=
  let r : RingRec := { type := 3, code := code, vd := vd, gen := gen, detail := detail }
  let s1 := if (code = 0x02 ∨ code = 0x07) ∧ vd ≠ 0 then ringPost s vd 0 r else s
  ringPost s1 0 0 r

/-! ### The record of a group (R442, R446) -/

/-- The fault record of a group from the splits that faulted in one cycle. -/
def groupRecord (g : Group) : RingRec :=
  match g.faults with
  | [] => { type := 1, code := 0, vd := g.vd }
  | f :: _ =>
    let n := g.faults.length
    { type := 1, code := f.code, vd := g.vd, gen := g.gen, core := g.core, slot := g.slot, lid := g.launch.lid.toNat,
      spc := f.spc, w14 := (if f.laneIns then 2 ^ 31 else 0) + n * 2 ^ 27 + f.lane * 2 ^ 20 + f.lpc % 2 ^ 20,
      splits := ((g.faults.zipIdx).map fun p => p.1.who * 2 ^ (4 * p.2)).sum, addr := f.addr, detail := f.detail,
      insn := f.insn }

/-- The bits that a group fault sets (R452). -/
def faultBits (code : Nat) : Nat := stGroup + if code = 0x17 ∨ code = 0x36 then stIntegrity else 0

/-- The record of a halted group is posted, kept for its summary, and counted (R440, R447, R452). -/
def postGroup (s : State) (g : Group) : State :=
  let r := groupRecord g
  let seq := sysWord s g.vd ringCtl
  (postMirrored ((s.modGroup g.gid fun h => { h with record := r.bytes seq }).modVd g.vd fun d =>
    { d with fcount := d.fcount + 1 }) g.vd (faultBits r.code) r)

/-! ### Fences (R454, R455) -/

/-- The record of a group that its device's fence halts. -/
def fenceRec (g : Group) (code detail : Nat) : FaultRec :=
  let ix := g.liveSplits.headD 0
  { who := ix, code := code, addr := 0, detail := detail, insn := 0, laneIns := false, lane := 127,
    spc := ((g.split? ix).map (·.pc)).getD 0, lpc := 0, low := issuerLow g ix none }

/-- DEVICE_FENCE: every group of the device halts, its other work stops, and event 0x07 is posted (R454). -/
def fenceDevice (s : State) (vd code core detail : Nat) : State :=
  if (s.vd vd).fenced then s
  else
    let s1 := (s.groups.filter fun g => g.vd == vd).foldl
      (fun st g => raiseFault st g.gid (st.now g.core) (fenceRec g code detail)) s
    let s2 := s1.modVd vd fun d => { d with fenced := true }
    setStatus (postEvent s2 0x07 vd (s.vd vd).gen (code + 2 ^ 8 * core + 2 ^ 32 * (detail % 2 ^ 32))) vd stFenced

/-- The virtual devices, 0 to 64 (R25). -/
def allDevices : List Nat := upto 65

/-- PACKAGE_FENCE: every device is fenced; BOOTSTATE reads 0xFF and only a cold reset recovers (R455). -/
def fencePackage (s : State) (code detail : Nat) : State :=
  if s.hub.boot = 0xFF then s else
  let s1 := allDevices.foldl (fun st v =>
    let st1 := (st.groups.filter fun g => g.vd == v).foldl
      (fun st g => raiseFault st g.gid (st.now g.core) (fenceRec g code detail)) st
    if (keyGet none (st1.vds.map fun p => (p.1, some p.2)) v).isSome then
      setStatus (st1.modVd v fun d => { d with fenced := true }) v stFenced
    else st1) s
  (postEvent s1 0x07 0 (s.vd 0).gen (code + 2 ^ 8 * 0xFF + 2 ^ 32 * (detail % 2 ^ 32))).modHub fun h => { h with boot := 0xFF }

/-- A failure of a device's own control state: a fence, which for device 0 is the package's (R481, R486). -/
def fenceOwner (s : State) (vd code core detail : Nat) : State :=
  if vd = 0 then fencePackage s code detail else fenceDevice s vd code core detail

/-! ### Lines that fail (R480, R481) -/

/-- What a line that comes back with an outcome does: a new failing line, and the fault of the reader, or a fence; a failed MAC
check means nothing for a line that has not been written under its key (R409). `agent` is that of R474; `va` the device virtual
address of the access. -/
def lineComes (s : State) (core : Nat) (l : Loc) (va agent : Nat) (out : LineOut) :
    Option (Nat × Nat × Nat) × State :=
  let fails := fun (code n : Nat) => let s1 := markBad s l code n; (lineFault s1 l va agent, s1)
  let node := fun (n : Nat) => match l with
    | .win uid _ =>
      let s1 := s.modHub fun h => { h with windows := h.windows.map fun w =>
        if w.uid == uid && w.exchange then { w with broken := some n } else w }
      (lineFault s1 l va agent, s1)
    | _ => ((none : Option (Nat × Nat × Nat)), match lineOf s l with
      | some k => fenceOwner s k.1 0x17 core (lineDetail 0x17 n agent (stackOf s l))
      | none => s)
  match l, out with
  | .peer port _ _, .refused => (some (0x1A, va / 128 * 128, port + 2 ^ 5), s)
  | .peer _ _ _, _ => (none, s)
  | _, .mac 0 => if lineChecked s l then fails 0x17 0 else (lineFault s l va agent, s)
  | _, .weight 0 => if lineChecked s l then fails 0x17 0 else (lineFault s l va agent, s)
  | _, .mac n => node n
  | _, .weight n => node n
  | _, .ecc ch kind => fails 0x19 (channelOf s l ch + 2 ^ 8 * kind)
  | _, _ => (lineFault s l va agent, s)

/-- LINE_READ_RETURN: the line of an element of a load comes back (R480). -/
def execLineReadReturn (id el : Nat) (out : LineOut) (s : State) : Out :=
  match s.loads.find? fun o => o.op == id with
  | none => .next s
  | some o =>
    match o.els.find? fun p => p.1 == el with
    | none => .next s
    | some p =>
      if loadHeld s o p || !earlierFree s o.gid o.ord || !ownEarlierFree s o el then .next s
      else
        let (fail, s1) := lineComes s o.core p.2.loc p.2.va 0 out
        if (s1.vd o.vd).fenced ∧ !(s.vd o.vd).fenced then .next s1
        else .next (performLoad s1 o p fail)

end Sys2Proof.Machine
end

