-- ==== Sys2Proof/Machine/Entries.lean ====
section
/-! DEFINITION. The slots of the desired-state areas as the reconciler sees them, and the actual-state entries (R335, R336,
R343 to R349, R502). -/

namespace Sys2Proof.Machine

/-- A slot that has never been written. -/
def RSlot.fresh (dom ix : Nat) : RSlot where
  dom := dom
  ix := ix
  dirty := false
  state := .absent
  reason := 0
  convVer := 0
  seenVer := 0
  kind := 0
  tvd := 0
  id := 0
  conv := none
  want := none
  deleting := false
  claims := false
  running := false

/-- A slot of an area. -/
def slotAt (s : State) (dom ix : Nat) : RSlot :=
  (s.hub.slots.find? fun r => r.dom == dom && r.ix == ix).getD (RSlot.fresh dom ix)

/-- A slot put in place, with no change of its entry. -/
def putSlot (s : State) (r : RSlot) : State :=
  s.modHub fun h => { h with slots := r :: h.slots.filter fun k => !(k.dom == r.dom && k.ix == r.ix) }

/-- What an actual-state entry shows (R343). -/
def RSlot.entry (r : RSlot) : EntState × Nat × Word × Word × Nat × Nat × Nat :=
  (r.state, r.reason, r.convVer, r.seenVer, r.kind, r.tvd, r.id)

/-- The device whose ring a domain's conflicts go to (R449). -/
def domRing (dom : Nat) : Nat := if dom ≤ 64 then dom else dom - 64

/-- A conflict record (R347, R446, R502). -/
def postConflict (s : State) (r : RSlot) (detail : Nat) : State :=
  ringPost s (domRing r.dom) stConflict
    { type := 2, code := r.reason, vd := r.tvd % 128, gen := (s.vd r.tvd).gen, lid := r.dom, spc := r.ix,
      splits := r.seenVer.toNat, w1c := r.kind * 2 ^ 24 + r.tvd * 2 ^ 16 + r.id, detail := detail }

/-- A slot put in place with its entry: a change of the entry adds 1 to ASEQ; an entry that enters the conflict state is posted
(R347, R348). -/
def setEntry (s : State) (r : RSlot) (detail : Nat) : State :=
  let old := slotAt s r.dom r.ix
  let s1 := putSlot s r
  if r.entry = old.entry then s1
  else
    let s2 := s1.modHub fun h => { h with aseq := keySet h.aseq r.dom (keyGet 0 h.aseq r.dom + 1) }
    if r.state = .conflict ∧ old.state ≠ .conflict then postConflict s2 r detail else s2

/-- The slot that claims a triple (R341). -/
def claimant (s : State) (tvd kind id : Nat) : Option RSlot :=
  s.hub.slots.find? fun r => r.claims && r.tvd == tvd && r.kind == kind && r.id == id

/-- Has a record converged. -/
def recConverged (s : State) (tvd kind id : Nat) : Bool :=
  match claimant s tvd kind id with
  | some r => r.conv.isSome
  | none => false

/-- A resident program's units have all retired: its converged entry shows it (R358), but for a torn read that it shows (R340). -/
def programRetired (s : State) (vd id : Nat) : State :=
  match claimant s vd 6 id with
  | some r => if r.state = .converged ∧ r.reason ≠ 0x05 then setEntry s { r with reason := 0x11 } 0 else s
  | none => s

/-- The resident program of a record. -/
def programOf (s : State) (vd id : Nat) : Option Program := s.hub.programs.find? fun p => p.vd == vd && p.id == id

/-- The reason of a converged record: 0x11 once all groups of its program have retired (R345, R358). -/
def doneReason (s : State) (r : RSlot) : Nat :=
  match if r.kind = 6 then programOf s r.tvd r.id else none with
  | some p => if s.trackers.any fun t => t.tid == p.tracker then 0 else 0x11
  | none => 0

/-! ### Reading an area (R336, R343, R349) -/

/-- The two bits of STATE (R343). -/
def EntState.code : EntState → Nat
  | .absent => 0
  | .pending => 1
  | .converged => 2
  | .conflict => 3

/-- The 16 bytes of an entry (R343). -/
def RSlot.bytes (r : RSlot) : List Byte :=
  natLe 16 (r.id % 2 ^ 16 + r.tvd % 2 ^ 8 * 2 ^ 32 + r.kind % 2 ^ 8 * 2 ^ 40 + r.reason % 2 ^ 8 * 2 ^ 48 + r.state.code * 2 ^ 62 +
    r.seenVer.toNat * 2 ^ 64 + r.convVer.toNat * 2 ^ 96)

/-- Does a domain's area exist (R335, R349, R494). -/
def areaExists (s : State) (dom : Nat) : Bool := dom == 0 || (decide (dom ≤ 128) && s.hub.vfEnable)

/-- The status block (R349). -/
def statusBlock (s : State) (dom : Nat) : List Byte :=
  let count := fun (st : EntState) => (s.hub.slots.filter fun r => r.dom == dom && r.state == st).length
  natLe 4 (keyGet 0 s.hub.aseq dom).toNat ++ natLe 4 (count .pending) ++ natLe 4 (count .conflict) ++ natLe 4 0

/-- A byte of an area (R336). -/
def areaByte (s : State) (dom off : Nat) : Byte :=
  if !areaExists s dom then 0
  else if off < 0x40000 then s.mem.read (Loc.area dom off).key
  else if off < 0x44000 then (slotAt s dom ((off - 0x40000) / 16)).bytes.getD (off % 16) 0
  else if off < 0x44010 then (statusBlock s dom).getD (off - 0x44000) 0
  else 0

end Sys2Proof.Machine
end

