-- ==== Sys2Proof/Machine/Cipher.lean ====
section
/-! DEFINITION. AES-256 (FIPS 197) and GHASH (NIST SP 800-38D) as R407, R408 and R512 use them; the encryption and the MACs
of lines, leaves and nodes, and the tree of a weight window (R407 to R417). -/

namespace Sys2Proof.Machine

/-! ### AES-256 -/

/-- Multiplication by x in GF(2^8). -/
def xtime (a : Nat) : Nat := if a < 128 then 2 * a else Nat.xor (2 * a) 0x11B

/-- Multiplication in GF(2^8). -/
def gmul (a b : Nat) : Nat :=
  ((upto 8).foldl (fun (p : Nat × Nat) i => (if b.testBit i then Nat.xor p.1 p.2 else p.1, xtime p.2)) (0, a)).1

/-- The inverse in GF(2^8), a^254. -/
def ginv (a : Nat) : Nat :=
  ((upto 7).foldl (fun (p : Nat × Nat) _ => (gmul p.1 (gmul p.2 p.2), gmul p.2 p.2)) (1, a)).1

/-- The S-box. -/
def sbox (a : Nat) : Nat :=
  let b := ginv a
  let rot := fun k => b * 2 ^ k % 256 + b / 2 ^ (8 - k)
  Nat.xor (Nat.xor (Nat.xor b (rot 1)) (Nat.xor (rot 2) (rot 3))) (Nat.xor (rot 4) 0x63)

/-- Bytes, first the most significant. -/
def beBytes : Nat → Nat → List Nat
  | 0, _ => []
  | n + 1, x => beBytes n (x / 256) ++ [x % 256]

/-- A number of bytes, first the most significant. -/
def beNat (l : List Nat) : Nat := l.foldl (fun n b => 256 * n + b) 0

/-- Two byte lists XORed. -/
def xorBytes (a b : List Nat) : List Nat := (a.zip b).map fun p => Nat.xor p.1 p.2

/-- The 60 words of the AES-256 key schedule, the newest first. -/
def expandKey : Nat → Nat → List (List Nat) → List (List Nat)
  | 0, _, ws => ws
  | n + 1, i, ws =>
    let prev := ws.headD []
    let t :=
      if i % 8 = 0 then
        xorBytes ((prev.drop 1 ++ prev.take 1).map sbox) [2 ^ (i / 8 - 1), 0, 0, 0]
      else if i % 8 = 4 then prev.map sbox
      else prev
    expandKey n (i + 1) (xorBytes t (ws.getD 7 []) :: ws)

/-- The 15 round keys of a key, 16 bytes each. -/
def roundKeys (key : BitVec 256) : List (List Nat) :=
  let b := beBytes 32 key.toNat
  let first := (upto 8).map fun i => (b.drop (4 * i)).take 4
  let ws := (expandKey 52 8 first.reverse).reverse
  (upto 15).map fun r => ((ws.drop (4 * r)).take 4).flatten

/-- ShiftRows on a column-major state. -/
def shiftRows (st : List Nat) : List Nat := (upto 16).map fun i => st.getD ((i + 4 * (i % 4)) % 16) 0

/-- MixColumns. -/
def mixColumns (st : List Nat) : List Nat :=
  (upto 16).map fun i =>
    let c := i / 4 * 4
    let at_ := fun k => st.getD (c + (i + k) % 4) 0
    Nat.xor (Nat.xor (gmul (at_ 0) 2) (gmul (at_ 1) 3)) (Nat.xor (at_ 2) (at_ 3))

/-- AES-256 of a block: numbers whose first byte is the most significant (R512). -/
def aes256 (key : BitVec 256) (block : Nat) : Nat :=
  let ks := roundKeys key
  let st0 := xorBytes (beBytes 16 block) (ks.headD [])
  let st := ((ks.drop 1).take 13).foldl (fun s k => xorBytes (mixColumns (shiftRows (s.map sbox))) k) st0
  beNat (xorBytes (shiftRows (st.map sbox)) (ks.getD 14 []))

/-! ### GHASH -/

/-- Multiplication in GF(2^128) in GHASH's bit order. -/
def ghMul (x y : Nat) : Nat :=
  ((upto 128).foldl (fun (p : Nat × Nat) i =>
    (if x.testBit (127 - i) then Nat.xor p.1 p.2 else p.1,
     if p.2 % 2 = 1 then Nat.xor (p.2 / 2) (0xE1 * 2 ^ 120) else p.2 / 2)) (0, y)).1

/-- GHASH over bytes in 16-byte blocks, without a length block (R408). -/
def ghash (h : Nat) (bs : List Byte) : Nat :=
  (upto (bs.length / 16)).foldl (fun y i =>
    ghMul (Nat.xor y (beNat (((bs.drop (16 * i)).take 16).map fun b => b.toNat))) h) 0

/-- A MAC: the low 64 bits of the GHASH XOR the encrypted mask block (R408, R512). -/
def macOf (key : BitVec 256) (mask : Nat) (bs : List Byte) : Nat :=
  Nat.xor (ghash (aes256 key 0) bs) (aes256 key mask) % 2 ^ 64

/-! ### Lines of a device's space (R407, R408) -/

/-- The counter block B(c, d) of a line (R407). -/
def counterBlock (major minor a c d : Nat) : Nat :=
  major % 2 ^ 64 * 2 ^ 64 + minor % 2 ^ 7 * 2 ^ 57 + a / 2 ^ 7 % 2 ^ 45 * 2 ^ 12 + c % 8 * 2 ^ 9 + d % 2

/-- 128 bytes XORed with the eight encrypted blocks that `blk` names. -/
def xorChunks (key : BitVec 256) (blk : Nat → Nat) (bs : List Byte) : List Byte :=
  (upto 8).flatMap fun c =>
    (xorBytes (((bs.drop (16 * c)).take 16).map fun b => b.toNat) (beBytes 16 (aes256 key (blk c)))).map fun n => BitVec.ofNat 8 n

/-- The ciphertext of a line (R407). -/
def lineCipher (key : BitVec 256) (major minor a : Nat) (plain : List Byte) : List Byte :=
  xorChunks key (fun c => counterBlock major minor a c 0) plain

/-- The MAC of a line's ciphertext (R408). -/
def lineMac (key : BitVec 256) (major minor a : Nat) (cipher : List Byte) : Nat :=
  macOf key (counterBlock major minor a 0 1) cipher

/-- The bytes of a leaf line up to its MAC, bits 319:0 (R409). -/
def LeafLine.bytes (l : LeafLine) : List Byte :=
  natLe 8 l.major ++ natLe 28 (((l.minors.zipIdx).map fun p => p.1 * 2 ^ (7 * p.2)).sum) ++ natLe 4 l.written.toNat

/-- The counters of a line of a tree (R409). -/
def lineCounters (leaves : List LeafLine) (a : Nat) : Nat × Nat × Bool :=
  match leaves.find? fun l => l.block == a / 4096 with
  | some l => (l.major, l.minors.getD (a / 128 % 32) 0, l.written.getLsbD (a / 128 % 32))
  | none => (0, 0, false)

/-! ### What stands in the stacks (R20, R406 to R412)

A device's HBM lines, their MACs and the lines of its counter tree follow from the plaintext that the model holds, the counters
and the device's key; every write forms them anew by following from what it writes. A line whose check fails is one of the
device's failing lines (R481). -/

/-- A device's memory key (R405, R406). -/
def memKey (s : State) (vd : Nat) : BitVec 256 := Config.drawnKey ((s.vd vd).key.getD 0)

/-- The ciphertext of the line of a device's HBM space that holds an address (R407). -/
def storedCipher (s : State) (vd a : Nat) : List Byte :=
  let c := lineCounters (s.vd vd).leaves a
  lineCipher (memKey s vd) c.1 c.2.1 (a / 128 * 128) (s.bytesAt (.hbm vd (a / 128 * 128)) 128)

/-- The MAC of the line that holds an address (R408). -/
def storedMac (s : State) (vd a : Nat) : Nat :=
  let c := lineCounters (s.vd vd).leaves a
  lineMac (memKey s vd) c.1 c.2.1 (a / 128 * 128) (storedCipher s vd a)

/-- The two MAC lines of a 4 KiB block (R412, R512). -/
def macLines (s : State) (vd block : Nat) : List Byte := (upto 32).flatMap fun i => natLe 8 (storedMac s vd (4096 * block + 128 * i))

/-- A counter of the tree: the count of a child, or the MAJOR of a node, which stands at level + 16 (R410). -/
def treeCounter (inner : List (Nat × Nat × Nat)) (level ix : Nat) : Nat :=
  ((inner.find? fun e => e.1 == level && e.2.1 == ix).map (·.2.2)).getD 0

/-- The MAC of a leaf (level 0) or node of a device's tree over its other bits, zero-padded, under the counters that its parent holds
for it (R409, R410). Beyond the rule's words: DEDUCED, log entry 55. -/
def treeMac (s : State) (vd level ix : Nat) (bs : List Byte) : Nat :=
  let inner := (s.vd vd).inner
  lineMac (memKey s vd) (treeCounter inner (level + 17) (ix / 32)) (treeCounter inner (level + 1) ix) (Config.treeLine level ix)
    (bs ++ List.replicate (128 - bs.length) 0)

/-- The leaf line of a block (R409): MAJOR, MINOR, WRITTEN, the MAC at bits 383:320, zeros. -/
def leafLine (s : State) (vd block : Nat) : List Byte :=
  let bs := (((s.vd vd).leaves.find? fun l => l.block == block).getD (LeafLine.fresh block)).bytes
  bs ++ natLe 8 (treeMac s vd 0 block bs) ++ List.replicate 80 0

/-- The line of an inner node (R410): MAJOR, the counters of its 32 children, the MAC at bits 1023:960. -/
def innerLine (s : State) (vd level ix : Nat) : List Byte :=
  let inner := (s.vd vd).inner
  let bs := natLe 8 (treeCounter inner (level + 16) ix) ++
    natLe 112 (((upto 32).map fun i => treeCounter inner level (32 * ix + i) * 2 ^ (28 * i)).sum)
  bs ++ natLe 8 (treeMac s vd level ix bs)

/-- The bytes that a read of a line gives: zeros where the line is not written under its key, its decrypted ciphertext otherwise
(R407, R409). -/
def readStored (s : State) (vd a : Nat) : List Byte :=
  let c := lineCounters (s.vd vd).leaves a
  if c.2.2 then lineCipher (memKey s vd) c.1 c.2.1 (a / 128 * 128) (storedCipher s vd a) else List.replicate 128 0

/-! ### Weight windows (R415, R416, R243) -/

/-- The block T(o, c, g) (R415). -/
def weightBlock (o c g : Nat) : Nat := g * 2 ^ 120 + o / 2 ^ 7 % 2 ^ 45 * 2 ^ 3 + c % 8
/-- The mask block of a node over group `ix` of level `l` (R415). -/
def nodeBlock (l ix : Nat) : Nat := 0x4E * 2 ^ 120 + l % 16 * 2 ^ 44 + ix % 2 ^ 41 * 2 ^ 3

/-- The plaintext of a weight line. -/
def weightPlain (key : BitVec 256) (o : Nat) (cipher : List Byte) : List Byte :=
  xorChunks key (fun c => weightBlock o c 0x57) cipher

/-- The number of groups of a level, from the number of entries of the level (R415). -/
def groupsOf (n : Nat) : Nat := (n + 31) / 32

/-- Where the levels of the tree of `n` entries stand, `base` bytes into the window: the place of each stored level. -/
def treeLevelsAt : Nat → Nat → Nat → List (Nat × Nat)
  | 0, _, _ => []
  | fuel + 1, n, base =>
    if n ≤ 1 then [] else (base, n) :: treeLevelsAt fuel (groupsOf n) (base + 256 * groupsOf n)

/-- The bytes of the tree of a weight window of `size` bytes. -/
def treeBytes (size : Nat) : Nat := ((treeLevelsAt 8 (max 2 (size / 128)) 0).map fun p => 256 * groupsOf p.2).sum

/-- A window's bytes as they are stored. -/
def winBytes (s : State) (uid off n : Nat) : List Byte := s.bytesAt (.win uid off) n

/-- The first failure on the path of a weight line: level 0 the line's own MAC, above it the nodes (R243, R415). -/
def weightPath (s : State) (w : Window) (key : BitVec 256) (line : Nat) : List (Nat × Nat) → Nat → Option Nat
  | [], _ => none
  | (base, _) :: rest, l =>
    let ix := line / 32 ^ l
    let group := winBytes s w.uid (base + 256 * ix) 256
    let mac := macOf key (nodeBlock l ix) group
    let want := match rest with
      | [] => w.root.toNat
      | (up, _) :: _ => leNat (winBytes s w.uid (up + 8 * ix) 8)
    if mac = want then weightPath s w key line rest (l + 1) else some l

/-- Does the ciphertext of the line at a window offset pass its checks (R243, R415): the level that fails. -/
def weightFails (s : State) (w : Window) (key : BitVec 256) (off : Nat) (cipher : List Byte) : Option Nat :=
  let line := off / 128
  let levels := treeLevelsAt 8 (max 2 (w.size / 128)) w.size
  let mac := macOf key (weightBlock off 0 0x4D) cipher
  if mac ≠ leNat (winBytes s w.uid (w.size + 8 * line) 8) then some 0
  else weightPath s w key line levels 1

end Sys2Proof.Machine
end

