-- ==== Sys2Proof/Machine/Porter.lean ====
section
/-! DEFINITION. The porter: panniers, copies and seals (R218 to R236, R276, R473). -/

namespace Sys2Proof.Machine

/-! ### Residency and grants -/

/-- The number of panniers that a device is granted on each core (R219). -/
def panCount (s : State) (vd : Nat) : Nat := ((s.vd vd).part.map fun p => p.pcount).getD 0

/-- A pannier-table entry of a core that holds nothing. -/
def Pannier.empty : Pannier where
  state := .free
  vd := 0
  gen := 0
  team := none
  first := 0
  rows := 0
  readers := 0
  shares := []
  inflight := 0
  drainAt := 0

/-- An entry as it stands in cycle `now`: a draining one without an in-flight read is free from the cycle after its last PANREL
(R221). -/
def Pannier.asOf (p : Pannier) (now : Nat) : Pannier :=
  if p.state = .draining ∧ p.inflight = 0 ∧ p.drainAt < now then Pannier.empty else p

/-- A pannier-table entry. -/
def panAt (s : State) (core e : Nat) : Pannier := (keyGet Pannier.empty (s.core core).pans e).asOf (s.now core)
/-- A pannier-table entry changed. -/
def modPan (s : State) (core e : Nat) (f : Pannier → Pannier) : State :=
  s.modCore core fun k => { k with pans := keySet k.pans e (f (panAt s core e)) }

/-- Has an instruction issued on the core in its present cycle. -/
def issuedNow (s : State) (core : Nat) : Bool :=
  ((s.core core).units.any fun t => decide (s.now core < t)) || ((s.core core).pipes.any fun p => decide (s.now core < 3 * p - 2))

/-- A delivery, and the end of an in-flight read, come before every instruction of their cycle: after one has issued they happen
in the next cycle (R233). -/
def portClock (s : State) (core : Nat) : State :=
  if issuedNow s core then s.modCore core fun k => { k with cyc := s.now core + 1 } else s

/-- Is the entry in a state for the device's present generation. -/
def panIs (s : State) (vd core e : Nat) (st : PanState) : Bool :=
  let p := panAt s core e
  p.state == st && p.vd == vd && p.gen == (s.vd vd).gen

/-- DETAIL of the pannier faults (R474). -/
def panDetail (sub pan word value : Nat) : Nat := sub + 2 ^ 8 * (pan % 64) + 2 ^ 16 * word + 2 ^ 32 * (value % 2 ^ 32)

/-- An in-flight read of a pannier ends (R224). -/
def endRead (s : State) (core e : Nat) : State := modPan s core e fun p => { p with inflight := p.inflight - 1 }

/-- An in-flight read begins (R224). -/
def beginRead (s : State) (core e : Nat) : State := modPan s core e fun p => { p with inflight := p.inflight + 1 }

/-! ### PANARM and PANREL (R222, R223) -/

/-- The first breach of a pannier descriptor, words `ws`, shares `n` (R222): subcode, descriptor word and value.
Beyond the rule's words: DEDUCED, log entry 23. -/
def descBreach (g : Group) (n : Nat) (ws : List Word) : Option (Nat × Nat × Nat) :=
  let w := fun i => (ws.getD i 0).toNat
  let rows := bitsOf (w 0) 13 14
  let first := bitsOf (w 0) 0 13
  let counts := (upto n).map fun j => bitsOf (w (2 + j)) 0 24
  let prods := (upto n).map fun j => bitsOf (w (2 + j)) 24 8
  if g.spRows < rows ∨ 8192 < rows then some (2, 0, w 0)
  else if bitsOf (w 1) 5 27 ≠ 0 ∨ bitsOf (w 1) 0 5 = 0 then some (2, 1, w 1)
  else match (upto n).find? fun j => counts.getD j 0 == 0 with
    | some j => some (2, 2 + j, w (2 + j))
    | none =>
      if g.spRows < first + rows then some (2, 0, w 0)
      else if 0 < rows ∧ 384 * rows < counts.sum then some (3, 0, counts.sum)
      else match (upto n).find? fun j => prods.getD j 0 == 1 + g.core % 12 ||
          !(prods.getD j 0 ≤ 12 || prods.getD j 0 == 0x10) with
        | some j => some (4, 2 + j, w (2 + j))
        | none => match (upto n).find? fun j => prods.getD j 0 == 0x10 && (rows == 0 || counts.getD j 0 % 64 != 0) with
          | some j => some (4, 2 + j, w (2 + j))
          | none => none

/-- The shares that a descriptor names (R222). -/
def descShares (n : Nat) (ws : List Word) : List Share :=
  (upto n).map fun j =>
    let w := (ws.getD (2 + j) 0).toNat
    { prod := bitsOf w 24 8, expected := bitsOf w 0 24, claimed := 0, delivered := 0 }

/-- Registers that an instruction names through a value: held, a stall-check fault, or their values (R55, R465). -/
def dynRead (s : State) (x : ScIss) (fields : List Nat) (go : State → List Word → ScRes) : ScRes :=
  match if x.g.stallchk then scStall x fields else none with
  | some d => .fault 0x04 0 d
  | none =>
    if fields.any fun f => f < 64 && scLocked x.g x.ix f then .hold
    else
      let (v, s1) := readFields s x.g x.ix x.t fields
      go s1 v

/-- PANARM (R222). Beyond the rule's words: DEDUCED, log entry 23. -/
def execPanarm (d : BitVec 6) (a : BitVec 7) (t : BitVec 2) (s : State) : Out :=
  scalarIssue (.panarm d a t) { reads := [a.toNat] } (fun s x v =>
    let p := d.toNat
    let w0 := (v.getD 0 0).toNat
    let n := bitsOf w0 27 4
    if panCount s x.g.vd ≤ p then .fault 0x30 0 (panDetail 1 p 0 p)
    else
      let e := panFirst s x.g.vd + p
      if (panAt s x.g.core e).state ≠ .free then .hold
      else if 2 ^ 31 ≤ w0 ∨ n = 0 ∨ 12 < n then .fault 0x30 0 (panDetail 2 p 0 w0)
      else if 63 < a.toNat % 64 + n + 1 then .fault 0x30 0 (panDetail 5 p 0 a.toNat)
      else dynRead s x ((upto (n + 2)).map fun i => a.toNat + i) fun s ws =>
        match descBreach x.g n ws with
        | some (sub, word, value) => .fault 0x30 0 (panDetail sub p word value)
        | none =>
          .done (modPan s x.g.core e fun _ =>
            { state := .filling, vd := x.g.vd, gen := x.g.gen, team := x.g.team, first := x.g.spBase + bitsOf w0 0 13,
              rows := bitsOf w0 13 14, readers := bitsOf (ws.getD 1 0).toNat 0 5, shares := descShares n ws, inflight := 0, drainAt := 0 })) s

/-- PANREL (R223). Beyond the rule's words: DEDUCED, log entry 23. -/
def execPanrel (i : BitVec 8) (t : BitVec 2) (s : State) : Out :=
  scalarIssue (.panrel i t) {} (fun s x _ =>
    let p := i.toNat
    let e := panFirst s x.g.vd + p
    let pan := panAt s x.g.core e
    if panCount s x.g.vd ≤ p then .fault 0x30 0 (panDetail 1 p 0 p)
    else if pan.state = .free then .fault 0x31 0 (panDetail 1 p 0 0)
    else if pan.team ≠ x.g.team then .fault 0x31 0 (panDetail 2 p 0 0)
    else if pan.state ≠ .full then .hold
    else
      .done (modPan s x.g.core e fun q =>
        if q.readers ≤ 1 then { q with state := .draining, readers := 0, drainAt := x.t }
        else { q with readers := q.readers - 1 })) s

/-- PANREL.wait (R223). -/
def execPanrelWait (i : BitVec 8) (t : BitVec 2) (s : State) : Out :=
  scalarIssue (.panrelWait i t) {} (fun s x _ =>
    let p := i.toNat
    if panCount s x.g.vd ≤ p then .fault 0x30 0 (panDetail 1 p 0 p)
    else if panIs s x.g.vd x.g.core (panFirst s x.g.vd + p) .full then .done s
    else .hold) s

/-! ### Porter addresses (R218) -/

/-- The form of a porter address: a subcode of 0x10 if it is broken (R218, R474). -/
def placeBreach (addr : Nat) : Option Nat :=
  match addr / 2 ^ 62 with
  | 0 => if addr / 2 ^ 52 ≠ 0 then some 1 else none
  | 1 => some 5
  | 2 => if addr / 2 ^ 32 % 2 ^ 30 ≠ 0 then some 3 else none
  | _ => if addr / 2 ^ 42 % 2 ^ 20 ≠ 0 then some 3 else none

/-- The place that a porter address of a group names; the pannier of a peer address is its entry number. -/
def placeOf (s : State) (g : Group) (addr : Nat) : Place :=
  match addr / 2 ^ 62 with
  | 0 => .dev addr
  | 2 => .localSp (addr % 2 ^ 32)
  | _ => .peerSp (panFirst s g.vd + addr / 2 ^ 36 % 64) (g.core / 12 * 12 + addr / 2 ^ 32 % 16) (addr % 2 ^ 32)

/-- Is the place a peer's scratchpad. -/
def Place.isPeer : Place → Bool
  | .peerSp _ _ _ => true
  | _ => false

/-- The place `n` bytes on. -/
def Place.plus (p : Place) (n : Nat) : Place :=
  match p with
  | .dev a => .dev (a + n)
  | .localSp o => .localSp (o + n)
  | .peerSp q c o => .peerSp q c (o + n)

/-- The checks of a peer address before its pannier is known (R218). -/
def peerBreach (s : State) (g : Group) (addr : Nat) : Option Nat :=
  if addr / 2 ^ 62 ≠ 3 then none
  else
    let n := addr / 2 ^ 32 % 16
    let cores := ((s.vd g.vd).part.map fun p => p.cores).getD []
    if 11 < n ∨ n = g.core % 12 ∨ !cores.contains (g.core / 12 * 12 + n) then some 6
    else if panCount s g.vd ≤ addr / 2 ^ 36 % 64 then some 9
    else none

/-- The first empty granule of `len` bytes of the local scratchpad, as its absolute byte. -/
def firstEmpty (s : State) (core abs len : Nat) : Option Nat :=
  ((upto (len / 16 + 2)).map fun i => abs / 16 * 16 + 16 * i).find? fun a =>
    decide (a < abs + len) && granuleEmpty s core (granuleOf a)

/-- The first uncorrectable full/empty row that `len` bytes touch (R483). -/
def badFeRow (s : State) (core abs len : Nat) : Option (Nat × Nat × Nat) :=
  (s.core core).poison.find? fun p => p.1 == 3 && decide (384 * p.2.1 + 16 * p.2.2 < abs + len) &&
    decide (abs < 384 * p.2.1 + 16 * p.2.2 + 16)

/-- The range check of a copy's local interval: the fault's code, ADDR and DETAIL (R227). -/
def spanBreach (s : State) (g : Group) (addr len : Nat) : Option (Nat × Nat × Nat) :=
  match placeOf s g addr with
  | .localSp off =>
    if 384 * g.spRows < off + len ∨ 384 * g.spRows ≤ off then
      some (0x12, addr, max off (384 * g.spRows) % 2 ^ 32 + 2 ^ 32 * g.spRows)
    else none
  | _ => none

/-- The empty-granule check of a copy's local source (R227, R483). -/
def emptyBreach (s : State) (g : Group) (addr len : Nat) : Option (Nat × Nat × Nat) :=
  match placeOf s g addr with
  | .localSp off =>
    let abs := 384 * g.spBase + off
    match badFeRow s g.core abs len with
    | some p => some (0x18, addr, poisonDetail 3 g.core p.2.1 p.2.2)
    | none => (firstEmpty s g.core abs len).map fun a =>
        (0x13, addr + (max a abs - abs), emptyDetail (max a abs - 384 * g.spBase) 2)
  | _ => none

/-- The last checks of step 1: the local ranges of both sides, then the source's granules (R227). -/
def sideBreach (s : State) (g : Group) (src dst len : Nat) : Option (Nat × Nat × Nat) :=
  (spanBreach s g src len).or ((spanBreach s g dst len).or (emptyBreach s g src len))

/-! ### Seals (R230, R231) -/

/-- An interval that a copy seals: its core, whether it is scratchpad, first byte and length. -/
structure Span where
  core : Nat
  spad : Bool
  lo : Nat
  len : Nat
  deriving DecidableEq, Repr

/-- The bytes of a place as a seal table of its core holds them. -/
def spanOf (s : State) (g : Group) (p : Place) (len : Nat) : Span :=
  match p with
  | .dev va => { core := g.core, spad := false, lo := va, len := len }
  | .localSp off => { core := g.core, spad := true, lo := 384 * g.spBase + off, len := len }
  | .peerSp q c off => { core := c, spad := true, lo := 384 * (panAt s c q).first + off, len := len }

/-- The smallest interval of each core and kind that holds all of the spans (R230). -/
def joinSpans : List Span → List Span
  | [] => []
  | x :: l =>
    let rest := joinSpans l
    match rest.find? fun y => y.core == x.core && y.spad == x.spad with
    | none => x :: rest
    | some y =>
      let lo := min x.lo y.lo
      { x with lo := lo, len := max (x.lo + x.len) (y.lo + y.len) - lo } ::
        rest.filter fun z => !(z.core == x.core && z.spad == x.spad)

/-- The first seal that an interval may not meet (R231). -/
def sealClash (s : State) (vd : Nat) (sp : Span) (source : Bool) : Option Seal :=
  (s.core sp.core).seals.find? fun e =>
    e.vd == vd && e.gen == (s.vd vd).gen && e.spad == sp.spad && (!source || e.dest) &&
    decide (e.lo < sp.lo + sp.len) && decide (sp.lo < e.lo + e.len)

/-- The first clash of a copy's intervals on given cores: destination first. -/
def copyClash (s : State) (g : Group) (src dst : List Span) (here : Bool) : Option (Seal × Span) :=
  let on := fun (l : List Span) => l.filter fun x => (x.core == g.core) == here
  ((on dst).findSome? fun x => (sealClash s g.vd x false).map fun e => (e, x)).or
    ((on src).findSome? fun x => (sealClash s g.vd x true).map fun e => (e, x))

/-- The ADDR and DETAIL of a seal fault of a copy (R474). -/
def clashFault (s : State) (g : Group) (c : Seal × Span) : Nat × Nat :=
  (max c.1.lo c.2.lo, sealDetail s g.core c.1 c.2.core)

/-! ### Issuing a copy (R225 to R227) -/

/-- A copy as its instruction names it. -/
def newCopy (s : State) (g : Group) (ord : Ord) (r : OpRec) (who : Nat) (il4 : Bool) (panCore pan share : Nat)
    (xs : List Xfer) (portions : List (List Xfer)) : Copy where
  id := r.op
  gid := g.gid
  core := g.core
  slot := g.slot
  vd := g.vd
  gen := (s.vd g.vd).gen
  who := who
  il4 := il4
  panCore := panCore
  pan := pan
  share := share
  len := (xs.map fun x => x.len).sum
  issued := s.now g.core
  armed := false
  claimed := false
  admitted := false
  reading := []
  read := []
  reserved := 0
  pool := 0
  active := []
  portions := portions
  delivered := 0
  insn := r.insn
  laneIns := r.laneIns
  spc := r.spc
  lpc := r.lpc
  spBase := g.spBase
  spRows := g.spRows
  team := g.team
  ord := ord

/-- The spans of a copy's source or destination. -/
def xferSpans (s : State) (g : Group) (xs : List Xfer) (source : Bool) : List Span :=
  joinSpans (xs.map fun x => spanOf s g (if source then x.src else x.dst) x.len)

/-- Would one more operation of a group pass the limit of wc3, those counted that have issued and are not admitted: it is held at
issue (R54). -/
def wc3Full (s : State) (g : Group) : Bool :=
  decide (255 ≤ g.wcGet 3 + (s.copies.filter fun c => c.gid == g.gid && !c.admitted).length +
    (s.engops.filter fun o => o.gid == g.gid && o.counted && !o.admitted).length)

/-- Does the copy that a batch or split waits for still wait. -/
def copyWaits (s : State) (id : Nat) : Bool := s.copies.any fun c => c.id == id && !c.admitted

/-- BCOPY, with and without .il4 (R225, R227). Beyond the rule's words: DEDUCED, log entry 23. -/
def execCopy (i : Instr) (d : BitVec 6) (a b : BitVec 7) (il4 : Bool) (s : State) : Out :=
  scalarIssue i { reads := [d.toNat, d.toNat + 1, a.toNat, a.toNat + 1, b.toNat, b.toNat + 1] } (fun s x v =>
    let g := x.g
    let w := fun k => (v.getD k 0).toNat
    let len := w 0
    let pj := w 1
    let p := pj % 64
    let src := w 2 + 2 ^ 32 * w 3
    let dst := w 4 + 2 ^ 32 * w 5
    let form := fun addr fid => match placeBreach addr with
      | some sub => some (0x10, addr, sub + 2 ^ 8 * fid)
      | none => if addr % 16 ≠ 0 then some (0x11, addr, 16 + 2 ^ 16 * fid) else none
    let peerDst := dst / 2 ^ 62 = 3
    let breach : Option (Nat × Nat × Nat) :=
      if pj / 2 ^ 12 ≠ 0 ∨ pj / 2 ^ 6 % 4 ≠ 0 then some (0x30, 0, panDetail 7 p 0 pj)
      else if panCount s g.vd ≤ p then some (0x30, 0, panDetail 1 p 0 p)
      else if len = 0 ∨ 0xFFFFF0 < len then some (0x30, 0, panDetail 6 p 0 len)
      else if len % 16 ≠ 0 then some (0x11, len, 16 + 2 ^ 8 + 2 ^ 16 * 0x02)
      else (form src 0x03).or ((form dst 0x04).or (
        if src / 2 ^ 62 = 3 ∧ peerDst then some (0x10, dst, 11 + 2 ^ 8 * 0x04)
        else ((peerBreach s g src).map fun sub => (0x10, src, sub + 2 ^ 8 * 0x03)).or
          (((peerBreach s g dst).map fun sub => (0x10, dst, sub + 2 ^ 8 * 0x04)).or
            (if peerDst ∧ dst / 2 ^ 36 % 64 ≠ p then some (0x10, dst, 10 + 2 ^ 8 * 0x04)
             else sideBreach s g src dst len))))
    let saving := x.ix = 8 ∧ ((x.g.handler.map fun h => !h.resume).getD false)
    if saving ∧ 2 ≤ dst / 2 ^ 62 then .fault 0x0B 0 (1 + 2 ^ 16 * 0x04)
    else if wc3Full s g then .hold
    else match breach with
    | some (c, ad, dt) => .fault c ad dt
    | none =>
      let xf : Xfer := { tr := 0, off := 0, src := placeOf s g src, dst := placeOf s g dst, len := len, lane := 127 }
      match copyClash s g (xferSpans s g [xf] true) (xferSpans s g [xf] false) true with
      | some c => .fault 0x14 (clashFault s g c).1 (clashFault s g c).2
      | none =>
        let panCore := if peerDst then g.core / 12 * 12 + dst / 2 ^ 32 % 16 else g.core
        let c := newCopy s g x.ord (x.opRec s.fresh) x.ix il4 panCore (panFirst s g.vd + p) (pj / 2 ^ 8 % 16) [xf] [[xf]]
        .stay ({ s with fresh := s.fresh + 1, copies := s.copies ++ [c] }.modGroup g.gid fun h =>
          h.modSplit x.ix fun sp => { sp with block := .copy c.id })) s

/-- BCOPY (R225). -/
def execBcopy (d : BitVec 6) (a b : BitVec 7) (t : BitVec 2) (s : State) : Out := execCopy (.bcopy d a b t) d a b false s
/-- BCOPY.il4 (R225). -/
def execBcopyIl4 (d : BitVec 6) (a b : BitVec 7) (t : BitVec 2) (s : State) : Out := execCopy (.bcopyIl4 d a b t) d a b true s

/-- Where a transfer of LCOPY gathers lanes: one memory line, or one scratchpad row (R228). -/
def gatherKey (p : Place) : Nat × Nat × Nat :=
  match p with
  | .dev va => (0, 0, va / 128)
  | .localSp o => (1, 0, o / 384)
  | .peerSp q c o => (2 + q, c, o / 384)

/-- The transfers of an LCOPY, numbered in the order of their lowest lane (R228, R234). -/
def numberXfers (xs : List Xfer) : List Xfer :=
  let keys := (xs.map fun x => gatherKey x.src).eraseDups
  xs.map fun x => { x with tr := keys.findIdx fun k => k == gatherKey x.src }

/-- The portions of an LCOPY: 32 transfers each (R234). -/
def lcopyPortions (xs : List Xfer) : List (List Xfer) :=
  ((upto 3).map fun k => xs.filter fun x => x.tr / 32 == k).filter fun l => l != []

/-- The step-1 checks of one lane of LCOPY (R227). -/
def lcopyBreach (s : State) (g : Group) (w src dst : Nat) : Option (Nat × Nat × Nat) :=
  match placeBreach src with
  | some sub => some (0x10, src, sub + 2 ^ 8 * 0x14)
  | none =>
    if src % w ≠ 0 then some (0x11, src, w + 2 ^ 16 * 0x14)
    else if dst % w ≠ 0 then some (0x11, dst, w + 2 ^ 16 * 0x16)
    else ((peerBreach s g src).map fun sub => (0x10, src, sub + 2 ^ 8 * 0x14)).or
      (sideBreach s g src (2 ^ 63 + dst) w)

/-- LCOPY (R226, R227). Beyond the rule's words: DEDUCED, log entry 23. -/
def execLcopy (l : LaneF) (s : State) : Out :=
  laneIssue 0x0C5 l (fun s x v =>
    match x.b.block with
    | .copy id => if copyWaits s id then .wait s (.copy id) else .out s {}
    | _ =>
      let g := x.g
      let e := l.ext.toNat
      let w := if e % 4 = 0 then 4 else if e % 4 = 1 then 8 else 16
      let p := e / 2 ^ 8 % 64
      let lanes := maskLanes v.act
      let dstOf := fun lane => laneWordAt v.c 0 lane
      if lanes = [] then .out s {}
      else if wc3Full s g then .hold
      else if panCount s g.vd ≤ p then .fault (lowestLane v.act) 0x30 0 (panDetail 1 p 0 p)
      else match lanes.findSome? fun k => (lcopyBreach s g w (laneAddr v k) (dstOf k)).map fun b => (k, b) with
        | some (lane, c, ad, dt) => .fault lane c ad dt
        | none =>
          let xs := numberXfers ((lanes.zipIdx).map fun q =>
            { tr := 0, off := w * q.2, src := placeOf s g (laneAddr v q.1), dst := .localSp (dstOf q.1), len := w, lane := q.1 })
          match copyClash s g (xferSpans s g xs true) (xferSpans s g xs false) true with
          | some c => .fault (lowestLane v.act) 0x14 (clashFault s g c).1 (clashFault s g c).2
          | none =>
            let c := newCopy s g x.ord (x.opRec s.fresh) (16 + x.b.bid) false g.core (panFirst s g.vd + p) (e / 16 % 16) xs
              (lcopyPortions xs)
            .wait { s with fresh := s.fresh + 1, copies := s.copies ++ [c] } (.copy c.id)) s

/-! ### COPY_ADMIT: steps 3 to 5 of R227 -/

/-- A copy put back. -/
def setCopy (s : State) (c : Copy) : State := { s with copies := replaceBy (fun k => k.id == c.id) c s.copies }

/-- All bytes of a copy that is not yet admitted. -/
def Copy.all (c : Copy) : List Xfer := c.portions.flatten

/-- The panniers of a copy's peer sources. -/
def peerSources (xs : List Xfer) : List (Nat × Nat) :=
  (xs.filterMap fun x => match x.src with
    | .peerSp q n _ => some (n, q)
    | _ => none).eraseDups

/-- The peer-range check of a transfer (R218). -/
def peerOut (s : State) (p : Place) (len : Nat) : Bool :=
  match p with
  | .peerSp q n off => decide (384 * (panAt s n q).rows < off + len)
  | _ => false

/-- Is every destination byte inside the pannier's range (R227). -/
def insideRange (c : Copy) (pan : Pannier) (x : Xfer) : Bool :=
  match x.dst with
  | .localSp off => decide (384 * pan.first ≤ 384 * c.spBase + off) &&
      decide (384 * c.spBase + off + x.len ≤ 384 * (pan.first + pan.rows))
  | .peerSp _ _ off => decide (off + x.len ≤ 384 * pan.rows)
  | .dev _ => false

/-- Is the place in device memory. -/
def Place.isDev : Place → Bool
  | .dev _ => true
  | _ => false

/-- A peer address as programs write it. -/
def peerAddr (s : State) (vd : Nat) (p : Place) : Nat :=
  match p with
  | .peerSp q n off => 3 * 2 ^ 62 + (q - panFirst s vd) * 2 ^ 36 + n % 12 * 2 ^ 32 + off
  | .localSp off => 2 ^ 63 + off
  | .dev va => va

/-- Step 4: code, ADDR and DETAIL of the first check that fails (R227). -/
def step4 (s : State) (g : Group) (c : Copy) : Option (Nat × Nat × Nat) :=
  let xs := c.all
  let pan := panAt s c.panCore c.pan
  let rel := c.pan - panFirst s c.vd
  let srcFid := if c.laneIns then 0x14 else 0x03
  match xs.find? fun x => peerOut s x.src x.len || peerOut s x.dst x.len with
  | some x =>
    let side := if peerOut s x.src x.len then x.src else x.dst
    some (0x10, peerAddr s c.vd side, 7 + 2 ^ 8 * (if peerOut s x.src x.len then srcFid else 0x04))
  | none =>
    if pan.rows ≠ 0 ∧ (xs.any fun x => x.src.isDev && x.dst.isDev) then
      some (0x10, peerAddr s c.vd ((xs.map fun x => x.dst).headD (.dev 0)), 8 + 2 ^ 8 * 0x04)
    else match copyClash s g (xferSpans s g xs true) (xferSpans s g xs false) false with
    | some k => some (0x14, (clashFault s g k).1, (clashFault s g k).2)
    | none =>
      match pan.shares[c.share]? with
      | none => some (0x31, 0, panDetail 3 rel c.share 0)
      | some sh =>
        if sh.prod ≠ (if c.panCore = c.core then 0 else 1 + c.core % 12) then some (0x31, 0, panDetail 4 rel c.share 0)
        else if sh.expected < sh.claimed + c.len then some (0x31, 0, panDetail 5 rel c.share (sh.claimed + c.len))
        else if (if pan.rows = 0 then xs.any fun x => !x.dst.isDev else xs.any fun x => !insideRange c pan x) then
          some (0x31, 0, panDetail 6 rel c.share 0)
        else none

/-- A copy's own fault, at step 4 or after issue (R227, R473). -/
def copyFault (s : State) (g : Group) (c : Copy) (lane code addr detail : Nat) : State :=
  let ix := if 16 ≤ c.who then c.ord.split else c.who
  raiseFault s g.gid (s.now g.core)
    { who := ix, code := code, addr := addr, detail := detail, insn := c.insn, laneIns := c.laneIns, lane := lane,
      spc := c.spc, lpc := c.lpc, low := issuerLow g ix none }

/-- Request entries in use on a core: those of a slot's reserve and those of the pool (R234). -/
def entriesUsed (s : State) (core slot : Nat) : Nat × Nat :=
  (((s.copies.filter fun c => c.core == core && c.slot == slot).map fun c => c.reserved).sum,
   ((s.copies.filter fun c => c.core == core).map fun c => c.pool).sum)

/-- The number of transfers of a portion. -/
def transfersOf (xs : List Xfer) : Nat := (xs.map fun x => x.tr).eraseDups.length

/-- Take the entries of the next portion, all or none: how many from the reserve and from the pool (R234). -/
def takeEntries (s : State) (c : Copy) : Option (Nat × Nat) :=
  let n := transfersOf (c.portions.headD [])
  let used := entriesUsed s c.core c.slot
  let own := min n (2 - used.1)
  if n - own ≤ 80 - used.2 then some (own, n - own) else none

/-- The next portion is taken. -/
def takePortion (c : Copy) (e : Nat × Nat) : Copy :=
  { c with reserved := c.reserved + e.1, pool := c.pool + e.2, active := c.active ++ c.portions.headD [],
           portions := c.portions.drop 1 }

/-- The seals that a copy takes, with the core of each (R230). -/
def copySeals (s : State) (g : Group) (c : Copy) : List (Nat × Seal) :=
  let mk := fun dest (x : Span) =>
    (x.core, { vd := c.vd, gen := c.gen, dest := dest, spad := x.spad, lo := x.lo, len := x.len, panCore := c.panCore,
               pan := c.pan, share := c.share, issued := c.issued, slot := c.slot : Seal })
  (xferSpans s g c.all true).map (mk false) ++ (xferSpans s g c.all false).map (mk true)

/-- Is there room for seals: 32 a core (R230). -/
def sealsFit (s : State) (seals : List (Nat × Seal)) : Bool :=
  seals.all fun p => (s.core p.1).seals.length + (seals.filter fun q => q.1 == p.1).length ≤ 32

/-- The absolute destination bytes of a transfer in some core's scratchpad. -/
def dstSpad (s : State) (c : Copy) (x : Xfer) : Option (Nat × Nat) :=
  match x.dst with
  | .dev _ => none
  | .localSp off => some (c.core, 384 * c.spBase + off)
  | .peerSp q n off => some (n, 384 * (panAt s n q).first + off)

/-- The granules that `len` bytes touch. -/
def granulesOf (abs len : Nat) : List Nat :=
  ((upto (len / 16 + 2)).filterMap fun i =>
    let a := abs / 16 * 16 + 16 * i
    if a < abs + len then some (granuleOf a) else none)

/-- The destination granules of a copy are set empty (R227). -/
def emptyDst (s : State) (c : Copy) : State :=
  c.all.foldl (fun st x => match dstSpad st c x with
    | some (core, abs) => setEmpty st core (granulesOf abs x.len)
    | none => st) s

/-- Has every scratchpad store that the group issued earlier been accepted at the port (R245, R276). -/
def spadAccepted (s : State) (gid seq : Nat) : Bool :=
  s.stores.all fun e => !(e.gid == gid && e.loc.isSpad && decide (e.ord.seq < seq)) || e.stage == .point

/-- A split that an operation held goes on at its next word. -/
def wakeSplit (s : State) (gid : Nat) (blk : Block) : State :=
  s.modGroup gid fun g => (upto 9).foldl (fun h i => h.modSplit i fun sp =>
    if sp.block == blk then { sp with block := .none, pc := sp.pc + 1 } else sp) g

/-- Step 5, if its entries and seals are free (R227). -/
def admitCopy (s : State) (g : Group) (c : Copy) : State :=
  let seals := copySeals s g c
  if !sealsFit s seals then setCopy s c
  else match takeEntries s c with
    | none => setCopy s c
    | some e =>
      let s1 := seals.foldl (fun st p => st.modCore p.1 fun k => { k with seals := k.seals ++ [p.2] }) (emptyDst s c)
      wakeSplit ((setCopy s1 { takePortion c e with admitted := true }).modGroup g.gid fun h => h.wcInc 3) g.gid (.copy c.id)

/-- Bytes claimed on a share (R227). -/
def claimShare (shares : List Share) (j n : Nat) : List Share :=
  (shares.zipIdx).map fun p => if p.2 = j then { p.1 with claimed := p.1.claimed + n } else p.1

/-- Are the waits of a copy before step 4 over, but for the first one: its peer sources are full, the group's earlier scratchpad
stores are accepted and the acquires before it hold their values (R227, R274, R276). Beyond the rule's words: DEDUCED, log entry
22. -/
def copyMay (s : State) (c : Copy) : Bool :=
  ((peerSources c.all).all fun p => panIs s c.vd p.1 p.2 .full && residentOn s p.1 c.vd) &&
  spadAccepted s c.gid c.ord.seq && !acqPending s c.gid c.vd c.ord false

/-- Is the first wait of step 3 over: the copy's pannier is filling, or was (R227). -/
def copyArmed (s : State) (c : Copy) : Bool :=
  c.armed || (panIs s c.vd c.panCore c.pan .filling && residentOn s c.panCore c.vd)

/-- Is there a copy of a lower slot that issued in the same cycle and can go on (R233). -/
def copyBehind (s : State) (c : Copy) : Bool :=
  s.copies.any fun k => k.core == c.core && k.issued == c.issued && decide (k.slot < c.slot) && !k.claimed &&
    copyArmed s k && copyMay s k

/-- COPY_ADMIT (R227). -/
def execCopyAdmit (id : Nat) (s : State) : Out :=
  match s.copies.find? fun c => c.id == id with
  | none => .next s
  | some c =>
    match s.group? c.gid with
    | none => .next s
    | some g =>
      if c.admitted then .next s
      else if c.claimed then .next (admitCopy s g c)
      else if g.status ≠ .running ∨ (g.frozen ∧ c.who ≠ 8) then .next s
      else
        let srcs := peerSources c.all
        if !copyArmed s c || copyBehind s c then .next s
        else if !copyMay s c then .next (setCopy s { c with armed := true })
        else match step4 s g c with
          | some (code, addr, d) =>
            let lane := if c.laneIns then (c.all.map fun x => x.lane).foldl min 96 else 127
            .next (copyFault { s with copies := s.copies.filter fun k => k.id != id } g c lane code addr d)
          | none =>
            let s1 := srcs.foldl (fun st p => beginRead st p.1 p.2) s
            let s2 := modPan s1 c.panCore c.pan fun p => { p with shares := claimShare p.shares c.share c.len }
            .next (admitCopy s2 g { c with claimed := true, reading := srcs })

/-- COPY_PORTION_TAKE (R234). -/
def execCopyPortionTake (id : Nat) (s : State) : Out :=
  match s.copies.find? fun c => c.id == id with
  | none => .next s
  | some c =>
    if !c.admitted || c.portions == [] then .next s
    else match takeEntries s c with
      | none => .next s
      | some e => .next (setCopy s (takePortion c e))

/-! ### Delivery (R228, R232, R236, R473) -/

/-- The piece of an undelivered transfer that holds an interval. Beyond the rule's words: DEDUCED, log entry 22. -/
def pieceOf (c : Copy) (off len : Nat) : Option Xfer :=
  c.active.find? fun x => decide (x.off ≤ off) && decide (off + len ≤ x.off + x.len)

/-- The place of an interval of a copy: a place in storage, or what its translation answers (R236). -/
inductive Where where
  | at_ (l : Loc) (page : Nat)
  | fault (code detail : Nat)
  | park (why page : Nat) (host : Option Nat)

/-- Where the bytes at a place live, for an access of a copy. -/
def whereIs (s : State) (c : Copy) (p : Place) (acc : AccKind) : Where × State :=
  match p with
  | .localSp off => (.at_ (.spad c.core (384 * c.spBase + off)) 0, s)
  | .peerSp q n off => (.at_ (.spad n (384 * (panAt s n q).first + off)) 0, s)
  | .dev va =>
    match translateMoving s c.core c.vd va acc with
    | (.hit h, s1) => (.at_ h.place h.page, s1)
    | (.fault code d, s1) => (.fault code d, s1)
    | (.park why page host, s1) => (.park why page host, s1)

/-- Does an interval stay within one memory line at a place. -/
def oneLine (p : Place) (len : Nat) : Bool :=
  match p with
  | .dev va => va / 128 == (va + len - 1) / 128
  | _ => true

/-- The word layout of .il4 (R166, R225). -/
def il4Word (b : List Byte) : List Byte :=
  let nib := fun k => (b.getD (k / 2) 0).toNat / 16 ^ (k % 2) % 16
  (upto 4).map fun i => BitVec.ofNat 8 (nib i + 16 * nib (4 + i))

/-- The bytes that a copy writes for source bytes. -/
def copyBytesOf (il4 : Bool) (bs : List Byte) : List Byte :=
  if il4 then (upto (bs.length / 4)).flatMap fun k => il4Word ((bs.drop (4 * k)).take 4) else bs

/-- Take an interval out of the undelivered pieces. -/
def cutPieces (xs : List Xfer) (off len : Nat) : List Xfer :=
  xs.flatMap fun x =>
    if x.off ≤ off ∧ off + len ≤ x.off + x.len then
      (if x.off < off then [{ x with len := off - x.off }] else []) ++
      (if off + len < x.off + x.len then
        [{ x with off := off + len, src := x.src.plus (off + len - x.off), dst := x.dst.plus (off + len - x.off),
                  len := x.off + x.len - (off + len) }]
       else [])
    else [x]

/-- The seals of every copy that names a share drop, wherever they are held (R232). -/
def dropSeals (s : State) (core e share : Nat) : State :=
  let keep := fun (z : Seal) => !(z.panCore == core && z.pan == e && z.share == share)
  { s with cores := s.cores.map fun k => (k.1, { k.2 with seals := k.2.seals.filter keep }) }

/-- SHARE_COMPLETE: bytes count as delivered on a share; when it is complete its seals drop, and when every share is the
pannier is full (R221, R232). -/
def countShare (s : State) (core e share n : Nat) : State :=
  let p := panAt s core e
  match p.shares[share]? with
  | none => s
  | some sh =>
    let sh1 := { sh with delivered := sh.delivered + n }
    let shares := listSet p.shares share sh1
    let full := shares.all fun h => h.delivered == h.expected
    let s1 := modPan s core e fun q =>
      { q with shares := shares, state := if q.state == .filling && full then .full else q.state }
    if sh1.delivered = sh1.expected then dropSeals s1 core e share else s1

/-- Bytes written where they live, line by line, with each line's counters; a line written in full stops failing (R411,
R481). -/
def landSpan (s : State) (vd gid : Nat) : Nat → Loc → List Byte → State
  | 0, _, _ => s
  | n + 1, l, bs =>
    if bs = [] then s
    else
      let room := 128 - l.key % 128
      let now := bs.take room
      let s1 := s.store vd gid l now
      let s2 := match l with
        | .win _ _ => s1
        | .hbm v a => if now.length = 128 then
            (s1.bumpLine l).modVd v fun d => { d with bad := d.bad.filter fun b => b.1 != a / 128 }
          else s1.bumpLine l
        | _ => s1
      landSpan s2 vd gid n (l.plus room) (bs.drop room)

/-- Bytes that a copy posts to host memory: accepted, and on their way to the host (R269, R276). -/
def postHost (s : State) (c : Copy) (page va : Nat) (l : Loc) (bs : List Byte) : State :=
  let e : StoreEl := {
    id := s.fresh, op := c.id, gid := c.gid, core := c.core, vd := c.vd, gen := c.gen, loc := l,
    bytes := bs, kind := .plain, stage := .point, rel := none, acq := none, ord := c.ord, page := page, va := va, lane := 127 }
  { s with fresh := s.fresh + 1, stores := s.stores ++ [e] }

/-- Delivered bytes reach their place: host memory by way of the link, everything else at once (R228). -/
def putDelivered (s : State) (c : Copy) (page va : Nat) (dst : Loc) (bs : List Byte) : State :=
  match dst with
  | .host _ => postHost s c page va dst bs
  | _ => landSpan s c.vd c.gid (bs.length / 128 + 2) dst bs

/-- The first poisoned scratchpad element among `len` bytes (R483). -/
def poisonIn (s : State) (l : Loc) (len : Nat) : Option (Nat × Nat × Nat) :=
  match l with
  | .spad core a => ((s.core core).poison.find? fun p => p.1 == 2 && decide (384 * p.2.1 + 4 * p.2.2 < a + len) &&
      decide (a < 384 * p.2.1 + 4 * p.2.2 + 4)).map fun p => (core, p.2.1, p.2.2)
  | _ => none

/-- A copy is complete: its reads end, its counter drops (R228). -/
def endCopy (s : State) (c : Copy) : State :=
  let s1 := c.reading.foldl (fun st p => endRead (portClock st p.1) p.1 p.2) { s with copies := s.copies.filter fun k => k.id != c.id }
  (dropParks s1 fun p => p.copy == some c.id).modGroup c.gid fun g => g.wcDec 3

/-- The destination granules among delivered bytes in which the copy has nothing left become full (R228). -/
def fillGranules (s : State) (c : Copy) (core abs len : Nat) : State :=
  let left := c.active ++ c.portions.flatten
  setFull s core ((granulesOf abs len).filter fun n => !(left.any fun x => match dstSpad s c x with
    | some (k, a) => k == core && (granulesOf a x.len).contains n
    | none => false))

/-- An interval of bytes is written at its destination and counted; the copy's entry, or the copy, ends with it. Of the entries
that the copy holds, one of the pool is freed first (DESIGN CHOICE, log entry 22). -/
def deliver (s : State) (c : Copy) (x : Xfer) (off len : Nat) (dst : Loc) (page : Nat) (bs : List Byte) : State :=
  let c1 := { c with active := cutPieces c.active off len, delivered := c.delivered + len,
                     read := c.read.filter fun p => !(off ≤ p.1 && p.1 < off + len) }
  let freed := !(c1.active.any fun y => y.tr == x.tr)
  let c2 := if freed then (if 0 < c1.pool then { c1 with pool := c1.pool - 1 } else { c1 with reserved := c1.reserved - 1 }) else c1
  let va := match x.dst with
    | .dev a => a + (off - x.off)
    | _ => 0
  let s1 := putDelivered s c page va dst (copyBytesOf c.il4 bs)
  let s2 := match dst with
    | .spad core abs => fillGranules (setCopy s1 c2) c2 core abs len
    | _ => setCopy s1 c2
  let s3 := countShare s2 c.panCore c.pan c.share len
  if c2.active = [] ∧ c2.portions = [] then endCopy s3 c2 else s3

/-- The source bytes of an interval: those read before, the rest now. -/
def sourceBytes (s : State) (c : Copy) (off len : Nat) (src : Loc) : List Byte :=
  let now := s.agentBytes c.core c.vd src len
  (upto len).map fun i => match c.read.find? fun p => p.1 == off + i with
    | some p => p.2
    | none => now.getD i 0

/-- A copy's interval waits in the fault buffer (R236, R370). -/
def parkCopy (s : State) (g : Group) (c : Copy) (why page : Nat) (host : Option Nat) (va : Nat) : State :=
  (parkAt s g (8 + 2 ^ 32 * c.id) (some c.id) [page] why page (missOf page host) va none).2

/-- Is an interval of the copy parked on its page. -/
def copyParked (s : State) (c : Copy) (x : Xfer) : Bool :=
  s.parks.any fun p => p.copy == some c.id && p.pages.any fun page => match x.src, x.dst with
    | .dev a, .dev b => page == a / 2 ^ 16 || page == b / 2 ^ 16
    | .dev a, _ => page == a / 2 ^ 16
    | _, .dev b => page == b / 2 ^ 16
    | _, _ => false

/-- The copy ends with a fault found after issue: what had been read is delivered, nothing else starts (R473). -/
def failCopy (s : State) (g : Group) (c : Copy) (code addr detail : Nat) : State :=
  endCopy (copyFault s g c 127 code addr detail) c

/-- An interval of a copy as it stands: the piece that holds it, cut to the interval. -/
def intervalOf (c : Copy) (off len : Nat) : Option Xfer :=
  (pieceOf c off len).map fun x =>
    { x with off := off, src := x.src.plus (off - x.off), dst := x.dst.plus (off - x.off), len := len }

/-- Is the device resident where a place of a copy lies (R397, R399). -/
def placeUp (s : State) (c : Copy) : Place → Bool
  | .dev _ => true
  | .localSp _ => residentOn s c.core c.vd
  | .peerSp _ n _ => residentOn s n c.vd

/-- May an interval of a copy be moved now. -/
def movable (s : State) (c : Copy) (y : Xfer) (off len : Nat) : Bool :=
  c.admitted && len != 0 && off % 4 == 0 && len % 4 == 0 && oneLine y.src len && oneLine y.dst len && !copyParked s c y &&
  placeUp s c y.src && placeUp s c y.dst

/-- DETAIL of a copy's fault with the bytes delivered (R474, R475). -/
def withDelivered (c : Copy) (code detail : Nat) : Nat :=
  if code = 0x20 ∨ code = 0x21 ∨ code = 0x16 then detail + 2 ^ 4 + 2 ^ 8 * c.delivered
  else if code = 0x1A then detail + 2 ^ 8 * c.delivered
  else detail

/-- ADDR of a copy's fault: the first byte of the failing transfer, in the terms of its place. -/
def sideAddr (s : State) (c : Copy) (y : Xfer) (source : Bool) : Nat :=
  peerAddr s c.vd (if source then y.src else y.dst)

/-- PORTER_DELIVERY: an interval of a copy's bytes is moved, or meets a fault or a park (R228, R236, R473). -/
def execPorterDelivery (id off len : Nat) (out : LineOut) (s0 : State) : Out :=
  match s0.copies.find? fun c => c.id == id with
  | none => .next s0
  | some c =>
    match s0.group? c.gid, intervalOf c off len with
    | some g, some y =>
      if !movable s0 c y off len then .next s0
      else
      let s := portClock (portClock s0 c.core) c.panCore
      match whereIs s c y.src .read with
        | (.fault code d, s1) =>
          .next (failCopy s1 g c code (sideAddr s c y true) (withDelivered c code d))
        | (.park why page host, s1) => .next (parkCopy s1 g c why page host (sideAddr s c y true))
        | (.at_ src _, s1) =>
          match whereIs s1 c y.dst .write with
          | (.fault code d, s2) => .next (failCopy s2 g c code (sideAddr s c y false) (withDelivered c code d))
          | (.park why page host, s2) => .next (parkCopy s2 g c why page host (sideAddr s c y false))
          | (.at_ dst page, s2) =>
            if s2.stores.any fun e => e.stage == .point && e.loc.isSpad && e.meets dst.key len then .next s
            else match poisonIn s2 src len with
              | some (k, row, el) => .next (failCopy s2 g c 0x18 (sideAddr s c y true) (poisonDetail 2 k row el))
              | none =>
                let (bad, s3) := lineComes s2 c.core src (sideAddr s c y true) 1 out
                let refusedAt := match dst, out with
                  | .peer port _ _, .refused => some port
                  | _, _ => none
                let partial_ := match lineFault s3 dst (sideAddr s c y false) 1 with
                  | some f => if len < 128 then some f else none
                  | none => none
                match bad, refusedAt, partial_ with
                | some (code, addr, d), _, _ => .next (failCopy (fenceZero s3 src) g c code addr (withDelivered c code d))
                | none, some port, _ =>
                  .next (failCopy s3 g c 0x1A (sideAddr s c y false) (withDelivered c 0x1A (port + 2 ^ 5)))
                | none, none, some (code, addr, d) => .next (failCopy (fenceZero s3 dst) g c code addr d)
                | none, none, none =>
                  if (s3.vd c.vd).fenced ∧ !(s2.vd c.vd).fenced then .next s3
                  else .next (deliver s3 c y off len dst page (sourceBytes s3 c off len src))
    | _, _ => .next s0

/-- A porter reads source bytes of a copy, to deliver them later (R228). -/
def porterRead (s : State) (id off len : Nat) : State :=
  match s.copies.find? fun c => c.id == id with
  | none => s
  | some c =>
    match intervalOf c off len with
    | none => s
    | some y =>
      if !movable s c y off len then s
      else match whereIs s c y.src .read with
        | (.at_ src _, s1) =>
          if (poisonIn s1 src len).isSome || (lineFault s1 src 0 1).isSome then s
          else
            let now := sourceBytes s1 c off len src
            setCopy s1 { c with read := c.read.filter (fun p => !(off ≤ p.1 && p.1 < off + len)) ++
                                        (upto len).map fun i => (off + i, now.getD i 0) }
        | _ => s

/-- Has the copy read every byte of its source. -/
def Copy.allRead (c : Copy) : Bool :=
  c.portions == [] && c.active.all fun x => (upto x.len).all fun i => c.read.any fun p => p.1 == x.off + i

/-- PANNIER_READ_END: an admitted reader has read its last byte of the range (R221, R224); an engine pass ends its read
with its last row. -/
def execPannierReadEnd (id : Nat) (s : State) : Out :=
  match s.copies.find? fun c => c.id == id with
  | some c =>
    if c.admitted && c.allRead then
      .next (setCopy (c.reading.foldl (fun st p => endRead (portClock st p.1) p.1 p.2) s) { c with reading := [] })
    else .next s
  | none =>
    match s.engops.find? fun o => o.id == id with
    | some o =>
      match o.pan, o.kind with
      | some e, .pass _ _ _ _ rows _ =>
        if rows = [] then
          .next (endRead { portClock s o.core with engops := replaceBy (fun k => k.id == id) { o with pan := none } s.engops } o.core e)
        else .next s
      | _, _ => .next s
    | none => .next s

end Sys2Proof.Machine
end

