-- ==== Sys2Proof/Machine/Matrix.lean ====
section
/-! DEFINITION. The matrix engine: slots, MLOADB, admission, tokens, passes, sums and accumulator rows (R238 to R264, R147
to R149). -/

namespace Sys2Proof.Machine

/-! ### Elements and sums (R138, R147 to R149) -/

/-- One element of a row: its value, and whether it is a signalling NaN. -/
abbrev Elem := XVal × Bool

/-- Little-endian pairs of bytes. -/
def bytePairs : List Byte → List Nat
  | a :: b :: l => (a.toNat + 256 * b.toNat) :: bytePairs l
  | _ => []

/-- The elements of a row of a type, with the side bytes of bx4 (R138, R238). -/
def rowElems (ty : Nat) (special : Bool) (row side : List Byte) : List Elem :=
  if ty = tyBx4 then
    ((row.zipIdx).map fun p =>
      let sc := (side.getD (2 * (p.2 / 16)) 0).toNat
      let x := (side.getD (2 * (p.2 / 16) + 1) 0).toNat
      [(blockVal (p.1.toNat % 16) sc x special, false), (blockVal (p.1.toNat / 16) sc x special, false)]).flatten
  else if ty = tyBf16 ∨ ty = tyF16 then (bytePairs row).map fun n => (dec (fmtOf ty) n false, (fmtOf ty).isSnan n)
  else row.map fun b => (dec (fmtOf ty) b.toNat false, false)

/-- A list cut into pieces of `n`. -/
def chunks {α : Type} (n : Nat) : Nat → List α → List (List α)
  | 0, _ => []
  | fuel + 1, l => if l.isEmpty then [] else l.take n :: chunks n fuel (l.drop n)

/-- The sum of one segment, t of R148, with the flags that it raises. Beyond the rule's words: DEDUCED, log entry 58. -/
def segmentSum (a b : List Elem) : XVal × Flags :=
  let ps := a.zip b
  let prods := ps.map fun p => xMul p.1.1 p.2.1
  let anyNan := ps.any fun p => p.1.1.isNan || p.2.1.isNan
  let zeroInf := ps.any fun p => (p.1.1.isZero && p.2.1.isInf) || (p.1.1.isInf && p.2.1.isZero)
  let snan := ps.any fun p => p.1.2 || p.2.2
  let both := (prods.any fun x => x == .inf false) && (prods.any fun x => x == .inf true)
  let nv : Flags := if zeroInf || snan || (both && !anyNan) then flNV else 0
  if anyNan || zeroInf || both then (.nan, nv)
  else
    let sum := match prods with
      | [] => .fin false 0 0 false
      | p :: l => l.foldl (fun x y => xAdd x y .rne) p
    let (c, f) := enc fmtF32 sum .rne false false
    (dec fmtF32 c false, nv ||| f)

/-- One accumulation of R148: acc + t, as an FP32 code, with its flags. -/
def accStep (acc : Nat) (t : XVal) : Nat × Flags :=
  let a := dec fmtF32 acc false
  let nv : Flags := if fmtF32.isSnan acc || (match a, t with
    | .inf x, .inf y => x != y
    | _, _ => false) then flNV else 0
  let (c, f) := enc fmtF32 (xAdd a t .rne) .rne false false
  (c, nv ||| f)

/-- A floating-point column: the element after all segments, with the flags raised (R148). -/
def floatColumn (acc : Nat) : List (List Elem) → List (List Elem) → Nat × Flags
  | a :: as, b :: bs =>
    let (t, f) := segmentSum a b
    let (c, f') := accStep acc t
    let (r, f'') := floatColumn c as bs
    (r, f ||| f' ||| f'')
  | _, _ => (acc, 0)

/-- An .i8 column (R149). -/
def intColumn (acc : Nat) (a b : List Byte) : Nat :=
  wrapN (sInt 32 acc + (((a.zip b).map fun p => sInt 8 p.1.toNat * sInt 8 p.2.toNat).foldl (· + ·) 0)) 32

/-- The ATYPE, BTYPE and SMODE of a format register (R51). -/
def fmtA (w : Word) : Nat := w.toNat / 2 ^ 4 % 256
def fmtB (w : Word) : Nat := w.toNat / 2 ^ 12 % 256
def fmtSpecial (w : Word) : Bool := w.toNat / 2 ^ 20 % 4 = 0

/-- One column against one A row: the whole rows, or block `n / 8` of the block diagonal (R251, R252).
Beyond the rule's words: DEDUCED, log entry 25. -/
def columnUpdate (fmt : Word) (diag : Bool) (n : Nat) (acc : Nat) (row side col colSide : List Byte) : Nat × Flags :=
  let cut := fun (l : List Byte) => if diag then (l.drop (24 * (n / 8))).take 24 else l
  if fmtA fmt = tyI8 then (intColumn acc (cut row) (cut col), 0)
  else
    let ea := rowElems (fmtA fmt) (fmtSpecial fmt) (cut row) side
    let eb := rowElems (fmtB fmt) (fmtSpecial fmt) (cut col) colSide
    floatColumn acc (chunks 32 24 ea) (chunks 32 24 eb)

/-! ### Accumulator rows (R255) -/

/-- An accumulator row of a core, absolute: elements and flags. -/
def accRow (s : State) (core r : Nat) : List Word × Flags :=
  match (s.core core).accs.find? fun a => a.1 == r with
  | some a => a.2
  | none => (List.replicate 128 0, 0)

/-- An accumulator row set; a row of zeros is not listed. -/
def setAccRow (s : State) (core r : Nat) (xs : List Word) (f : Flags) : State :=
  s.modCore core fun k =>
    { k with
      accs := if f = 0 ∧ xs.all (· == 0) then k.accs.filter (fun a => a.1 != r) else keySet k.accs r (xs, f),
      poison := k.poison.filter fun p => !(p.1 == 4 && p.2.1 == r) }

/-- A poisoned element of an accumulator row (R483). -/
def accPoison (s : State) (core r : Nat) : Option Nat :=
  ((s.core core).poison.find? fun p => p.1 == 4 && p.2.1 == r).map (·.2.2)

/-! ### Engine operations -/

/-- Is an operation a pass (R246). -/
def EngOp.isPass (o : EngOp) : Bool := match o.kind with
  | .pass _ _ _ _ _ _ => true
  | _ => false
/-- Is it a point of another core's load (R242). -/
def EngOp.isPoint (o : EngOp) : Bool := match o.kind with
  | .point _ _ => true
  | _ => false
/-- The rows of a pass that have not been written. -/
def EngOp.rows (o : EngOp) : List PassRow := match o.kind with
  | .pass _ _ _ _ rows _ => rows
  | _ => []
/-- The slot that an operation loads or reads. -/
def EngOp.slotNo (o : EngOp) : Option Nat := match o.kind with
  | .mloadb n _ _ _ _ _ _ => some n
  | .point _ n => some n
  | .pass n _ _ _ _ _ => some n
  | _ => none
/-- The accumulator rows that an operation has still to read or write. -/
def EngOp.accReads (o : EngOp) : List Nat := match o.kind with
  | .accrd _ reads _ => reads.map fun r => r.2.1
  | .accst row count _ _ _ _ => (upto count).map fun i => row + i
  | _ => []
/-- The accumulator rows that an operation has still to write; ACCST writes the flags of its rows (R260). -/
def EngOp.accWrites (o : EngOp) : List Nat := match o.kind with
  | .pass _ _ _ _ rows _ => rows.map (·.acc)
  | .accz a b => (upto b).map fun i => a + i
  | .accwr ws => ws.map fun w => w.1
  | .accst row count _ _ _ _ => (upto count).map fun i => row + i
  | _ => []

/-- An engine operation put back. -/
def setEng (s : State) (o : EngOp) : State := { s with engops := replaceBy (fun k => k.id == o.id) o s.engops }
/-- The admitted operations of a core in admission order. -/
def admittedOn (s : State) (core : Nat) : List EngOp := s.engops.filter fun o => o.core == core && o.admitted
/-- The operations admitted on the core before an operation. -/
def engBefore (s : State) (o : EngOp) : List EngOp := (admittedOn s o.core).takeWhile fun k => k.id != o.id

/-- Does an earlier admitted operation keep `o` from acting on the rows it reads and writes (R256). -/
def accBlocked (s : State) (o : EngOp) (reads writes : List Nat) : Bool :=
  (engBefore s o).any fun p =>
    (p.accWrites.any fun r => reads.contains r || writes.contains r) || (p.accReads.any fun r => writes.contains r)

/-- Does an instruction still wait for its admission, or a pass for its first row (R244, R246). -/
def engWaits (s : State) (id : Nat) : Bool :=
  s.engops.any fun o => o.id == id && (!o.admitted || (o.isPass && !o.streaming && o.rows != []))

/-- The slots granted to a device (R239). -/
def slotGranted (s : State) (vd n : Nat) : Bool := match (s.vd vd).part with
  | some p => p.slots.contains n
  | none => false

/-- TOKSHARE of a device (R246). -/
def tokShare (s : State) (vd : Nat) : Nat := ((s.vd vd).part.map (·.tokshare)).getD 0

/-! ### Tokens (R246, R401, R438) -/

/-- The tokens of the pool: those of LIMIT, less those that temperature took, never below 6 by temperature. -/
def tokenPool (s : State) : Nat :=
  let base := (s.hub.limit - 1450) * 144 / 1150
  max (min base 6) (base - s.hub.lowered)

/-- The tokens that a device holds, and all tokens held. -/
def tokensHeld (s : State) (vd : Option Nat) : Nat :=
  (s.cores.filter fun k => match k.2.engine.token with
    | some v => vd == none || vd == some v
    | none => false).length

/-- The oldest pass of a core that has rows to stream. -/
def oldestPass (s : State) (core : Nat) : Option EngOp := (admittedOn s core).find? fun o => o.isPass && o.rows != []

/-- The engine keeps, returns or asks for a token (R246). -/
def tokenStep (s : State) (core : Nat) : State :=
  let drop := fun (st : State) => st.modCore core fun k => { k with engine := { k.engine with token := none } }
  match oldestPass s core with
  | none =>
    let s1 := s.modHub fun h => { h with tokenReqs := h.tokenReqs.filter fun r => r.1 != core }
    match (s.core core).engine.token with
    | none => s1
    | some v => if (admittedOn s core).any fun o => o.isPass && o.vd == v then s1 else drop s1
  | some o =>
    if (s.core core).engine.token = some o.vd then s
    else
      let s1 := if (s.core core).engine.token = none then s else drop s
      if s1.hub.tokenReqs.contains (core, o.vd) then s1
      else s1.modHub fun h => { h with tokenReqs := h.tokenReqs.filter (fun r => r.1 != core) ++ [(core, o.vd)] }

/-- TOKEN_GRANT (R246, R401). -/
def execTokenGrant (core : Nat) (s : State) : Out :=
  match s.hub.tokenReqs.find? fun r => r.1 == core with
  | none => .next s
  | some r =>
    let first := (s.hub.tokenReqs.find? fun q => q.2 == r.2) == some r
    if first ∧ tokensHeld s (some r.2) < max 1 (tokShare s r.2) ∧ tokensHeld s none < tokenPool s then
      .next ((s.modCore core fun k => { k with engine := { k.engine with token := some r.2 } }).modHub fun h =>
        { h with tokenReqs := h.tokenReqs.filter fun q => q.1 != core })
    else .next s

/-! ### Issuing (R241, R248 to R260) -/

/-- An engine operation as its instruction names it. -/
def newEng (s : State) (g : Group) (ord : Ord) (r : OpRec) (who lane : Nat) (kind : EngKind) (counted : Bool)
    (pan : Option Nat) : EngOp where
  id := r.op
  gid := g.gid
  core := g.core
  slot := g.slot
  vd := g.vd
  gen := (s.vd g.vd).gen
  who := who
  kind := kind
  issued := s.now g.core
  admitted := false
  admittedAt := 0
  streaming := false
  qflags := []
  counted := counted
  pan := pan
  read := []
  insn := r.insn
  laneIns := r.laneIns
  spc := r.spc
  lpc := r.lpc
  lane := lane
  spBase := g.spBase
  spRows := g.spRows
  team := g.team
  ord := ord

/-- An engine instruction of the scalar stream has passed its checks: it is held at the limit of wc3 (R54), or waits for its
admission. -/
def scEngine (s : State) (x : ScIss) (kind : EngKind) (pan : Option Nat) : ScRes :=
  let o := newEng s x.g x.ord (x.opRec s.fresh) x.ix 127 kind true pan
  if wc3Full s x.g then .hold
  else .stay ({ s with fresh := s.fresh + 1, engops := s.engops ++ [o] }.modGroup x.g.gid fun h =>
    h.modSplit x.ix fun sp => { sp with block := .engine o.id })

/-- An engine instruction of a batch has passed its checks; `locks` are the registers that it holds (R55). -/
def lnEngine (s : State) (x : LnIss) (lane : Nat) (kind : EngKind) (counted : Bool) (pan : Option Nat)
    (locks : List (Nat × Bool)) : LnRes :=
  let o := newEng s x.g x.ord (x.opRec s.fresh) (16 + x.b.bid) lane kind counted pan
  if counted && wc3Full s x.g then .hold
  else .wait ({ s with fresh := s.fresh + 1, engops := s.engops ++ [o] }.modGroup x.g.gid fun h =>
    { h with vlocks := h.vlocks ++ locks.map fun (l : Nat × Bool) => (l.1, l.2, o.id) }) (.engine o.id)

/-- DETAIL of the matrix-operand fault (R462). -/
def matDetail (sub n core value : Nat) : Nat := sub + 2 ^ 8 * n + 2 ^ 16 * core + 2 ^ 32 * (value % 2 ^ 32)
/-- DETAIL of the accumulator-range fault (R462). -/
def accDetail (g : Group) (row col : Nat) : Nat := row % 2 ^ 13 + 2 ^ 16 * min col 0xFF + 2 ^ 32 * g.accRows

/-- Do the types of a pass lie in one row of R18, and does the instruction take them (R250, R252). -/
def typesOk (fmt : Word) (diag : Bool) : Bool :=
  ([[tyE4m3, tyE5m2], [tyI8], [tyBx4], [tyBf16, tyF16]].any fun r => r.contains (fmtA fmt) && r.contains (fmtB fmt)) &&
  !(diag && fmtA fmt == tyBx4)

/-- The first empty granule of `len` bytes at an offset of the team's allocation: its fault (R209, R474). -/
def emptyAt (s : State) (g : Group) (off len source : Nat) : Option (Nat × Nat × Nat) :=
  match badFeRow s g.core (384 * g.spBase + off) len with
  | some p => some (0x18, off, poisonDetail 3 g.core p.2.1 p.2.2)
  | none => (firstEmpty s g.core (384 * g.spBase + off) len).map fun a =>
      let o := max (a - 384 * g.spBase) off
      (0x13, o, emptyDetail o source)

/-- The pannier checks of a pass (R254): existence, state, team, and the range that must hold its bytes. -/
def panBreach (s : State) (g : Group) (p : Nat) (spans : List (Nat × Nat)) : Option (Nat × Nat × Nat) :=
  let pan := panAt s g.core (panFirst s g.vd + p)
  if panCount s g.vd ≤ p then some (0x30, 0, panDetail 1 p 0 p)
  else if pan.state = .free ∨ pan.state = .draining then some (0x31, 0, panDetail 7 p 0 0)
  else if pan.team ≠ g.team then some (0x31, 0, panDetail 8 p 0 0)
  else if spans.any fun x => !(384 * pan.first ≤ 384 * g.spBase + x.1 &&
      384 * g.spBase + x.1 + x.2 ≤ 384 * (pan.first + pan.rows)) then some (0x31, 0, panDetail 9 p 0 0)
  else none

/-- DETAIL of a scratchpad-range fault of a row or side bytes (R474). -/
def rowRange (g : Group) (off : Nat) : Nat × Nat × Nat :=
  (0x12, max off (384 * g.spRows) % 2 ^ 32, max off (384 * g.spRows) % 2 ^ 32 + 2 ^ 32 * g.spRows)

/-- The lanes of a quarter. -/
def quarterMask (j : Nat) : LaneMask := BitVec.ofNat 96 (255 * 2 ^ (8 * j))

/-- One quarter of MMA or MMAB: its row, or a fault (R250). -/
def quarterRow (s : State) (x : LnIss) (v : LaneVals) (j f : Nat) : Except (Nat × Nat × Nat) PassRow :=
  let g := x.g
  let e := x.l.ext.toNat
  let row := laneWordAt v.b 0 f
  let r := laneWordAt v.a 0 f
  let bx := fmtA x.b.fmt == tyBx4
  let so := if bx then laneWordAt v.c 0 f else 0
  let spans := (384 * r, 384) :: if bx then [(so, 48)] else []
  if g.accRows ≤ row then .error (0x35, 0, accDetail g row 0xFF)
  else if e / 8 % 2 = 0 then
    .ok { src := .frag x.l.a.toNat (if bx then some x.l.c.toNat else none) (v.act &&& quarterMask j), acc := g.accBase + row,
          quarter := j }
  else if g.spRows ≤ r then .error (rowRange g (384 * r))
  else if bx ∧ so % 16 ≠ 0 then .error (0x11, so, 16 + 2 ^ 16 * 0x16)
  else if bx ∧ 384 * g.spRows < so + 48 then .error (rowRange g so)
  else
    match (if e / 1024 % 2 = 1 then panBreach s g (e / 16 % 64) spans
           else (emptyAt s g (384 * r) 384 3).or (if bx then emptyAt s g so 48 4 else none)) with
    | some b => .error b
    | none => .ok { src := .spad (g.spBase + r) (384 * g.spBase + so), acc := g.accBase + row, quarter := j }

/-- The rows of MMA and MMAB in ascending quarters, or the first fault with its lane (R250). -/
def quarterRows (s : State) (x : LnIss) (v : LaneVals) : List Nat → Except (Nat × Nat × Nat × Nat) (List PassRow)
  | [] => .ok []
  | j :: js =>
    let f := lowestLane (v.act &&& quarterMask j)
    if f = 96 then quarterRows s x v js
    else match quarterRow s x v j f with
      | .error (c, a, d) => .error (f, c, a, d)
      | .ok r => match quarterRows s x v js with
        | .error y => .error y
        | .ok rs => .ok (r :: rs)

/-- MMA and MMAB (R248 to R250, R252). -/
def execMatrixLanes (op : Nat) (diag : Bool) (l : LaneF) (s : State) : Out :=
  laneIssue op l (fun s x v =>
    match x.b.block with
    | .engine id => if engWaits s id then .wait s (.engine id) else .out s {}
    | _ =>
      let e := l.ext.toNat
      let n := e % 4
      let low := lowestLane v.act
      let fmt := x.b.fmt
      if !typesOk fmt diag then .fault low 0x33 0 (fmtA fmt + 2 ^ 8 * fmtB fmt + if diag then 2 ^ 16 else 0)
      else if !slotGranted s x.g.vd n then .fault low 0x32 0 (matDetail 1 n x.g.core 0)
      else if tokShare s x.g.vd = 0 then .fault low 0x32 0 (matDetail 8 n x.g.core 0)
      else match quarterRows s x v (upto 12) with
        | .error (lane, c, a, d) => .fault lane c a d
        | .ok [] => .out s {}
        | .ok rows =>
          let pan := if e / 1024 % 2 = 1 then some (panFirst s x.g.vd + e / 16 % 64) else none
          let frags := if e / 8 % 2 = 0 then
              ((upto 12).map fun i => (l.a.toNat + i, true)) ++
              (if fmtA fmt = tyBx4 then [(l.c.toNat, true), (l.c.toNat + 1, true)] else [])
            else []
          lnEngine s x low (.pass n (e / 4 % 2 == 1) diag fmt rows (some v.act)) true pan frags) s

/-- MMA (R250). -/
def execMma (l : LaneF) (s : State) : Out := execMatrixLanes 0x100 false l s
/-- MMAB (R252). -/
def execMmab (l : LaneF) (s : State) : Out := execMatrixLanes 0x101 true l s

/-- The checks of MMAS in the order of R254, on its descriptor words. -/
def mmasBreach (s : State) (g : Group) (n : Nat) (fmt : Word) (pan : Bool) (w0 w1 : Nat) : Option (Nat × Nat × Nat) :=
  let first := bitsOf w0 0 13
  let rows := bitsOf w0 13 8 + 1
  let p := bitsOf w0 21 6
  let side := bitsOf w1 12 13
  let acc := bitsOf w1 0 12
  let bx := fmtA fmt == tyBx4
  if bitsOf w0 27 5 ≠ 0 ∨ (!pan ∧ p ≠ 0) then some (0x32, 0, matDetail 10 n g.core w0)
  else if bitsOf w1 25 7 ≠ 0 ∨ (!bx ∧ side ≠ 0) then some (0x32, 0, matDetail 10 n g.core w1)
  else if !typesOk fmt false then some (0x33, 0, fmtA fmt + 2 ^ 8 * fmtB fmt)
  else if g.spRows < first + rows then some (rowRange g (384 * first))
  else if bx ∧ 384 * g.spRows < 384 * side + 48 * rows then some (rowRange g (384 * side))
  else if g.accRows < acc + rows then some (0x35, 0, accDetail g (max acc g.accRows) 0xFF)
  else if !slotGranted s g.vd n then some (0x32, 0, matDetail 1 n g.core 0)
  else if tokShare s g.vd = 0 then some (0x32, 0, matDetail 8 n g.core 0)
  else
    let spans := (384 * first, 384 * rows) :: if bx then [(384 * side, 48 * rows)] else []
    if pan then panBreach s g p spans
    else (emptyAt s g (384 * first) (384 * rows) 3).or (if bx then emptyAt s g (384 * side) (48 * rows) 4 else none)

/-- MMAS (R253, R254). -/
def execMmas (n : BitVec 2) (a : BitVec 7) (f : BitVec 2) (t : BitVec 2) (s : State) : Out :=
  scalarIssue (.mmas n a f t) { reads := [a.toNat, a.toNat + 1], ban := 4, banField := 0x03 } (fun s x v =>
    let w0 := (v.getD 0 0).toNat
    let w1 := (v.getD 1 0).toNat
    let fmt := x.sp.fmt
    let pan := f.toNat / 2 == 1
    match mmasBreach s x.g n.toNat fmt pan w0 w1 with
    | some (c, ad, d) => .fault c ad d
    | none =>
      let rows := (upto (bitsOf w0 13 8 + 1)).map fun i =>
        { src := .spad (x.g.spBase + bitsOf w0 0 13 + i) (384 * x.g.spBase + 384 * bitsOf w1 12 13 + 48 * i),
          acc := x.g.accBase + bitsOf w1 0 12 + i, quarter := 0 : PassRow }
      scEngine s x (.pass n.toNat (f.toNat % 2 == 1) false fmt rows none)
        (if pan then some (panFirst s x.g.vd + bitsOf w0 21 6) else none)) s

/-- ACCZ (R257). -/
def execAccz (a b : BitVec 7) (t : BitVec 2) (s : State) : Out :=
  scalarIssue (.accz a b t) { reads := [a.toNat, b.toNat], ban := 4, banField := 0x03 } (fun s x v =>
    let r := (v.getD 0 0).toNat
    let n := (v.getD 1 0).toNat
    if n = 0 ∨ 4096 < n ∨ x.g.accRows < r + n then .fault 0x35 0 (accDetail x.g (max r x.g.accRows) 0xFF)
    else scEngine s x (.accz (x.g.accBase + r) n) none) s

/-- The width in bytes of an element of ACCST (R260); 0 for a type that it does not take. -/
def accstWidth (ty : Nat) : Nat :=
  if ty = tyF32 ∨ ty = tyI32 then 4 else if ty = tyF16 ∨ ty = tyBf16 ∨ ty = tyI16 then 2
  else if ty = tyE4m3 ∨ ty = tyE5m2 ∨ ty = tyI8 then 1 else 0

/-- The seal that a store of the team into its scratchpad meets. -/
def spadSeal (s : State) (g : Group) (off len : Nat) : Option (Nat × Nat × Nat) :=
  let abs := 384 * g.spBase + off
  (sealMeets s g true abs len).map fun e =>
    (0x14, max e.lo abs - 384 * g.spBase, sealDetail s g.core e g.core)

/-- ACCST (R260). -/
def execAccst (d : BitVec 6) (a b : BitVec 7) (t : BitVec 2) (s : State) : Out :=
  scalarIssue (.accst d a b t) { reads := [d.toNat, a.toNat, b.toNat], ban := 4, banField := 0x04 } (fun s x v =>
    let g := x.g
    let w := (v.getD 0 0).toNat
    let r := (v.getD 1 0).toNat
    let off := (v.getD 2 0).toNat
    let n := bitsOf w 0 9
    let ty := bitsOf w 16 8
    let rm := bitsOf w 24 3
    let bytes := n * 128 * accstWidth ty
    if bitsOf w 28 4 ≠ 0 ∨ bitsOf w 9 7 ≠ 0 then .fault 0x32 0 (matDetail 4 0 g.core w)
    else if 4 < rm then .fault 0x32 0 (matDetail 5 0 g.core w)
    else if accstWidth ty = 0 then .fault 0x32 0 (matDetail 6 0 g.core w)
    else if n = 0 ∨ 256 < n then .fault 0x32 0 (matDetail 9 0 g.core w)
    else if g.accRows < r + n then .fault 0x35 0 (accDetail g (max r g.accRows) 0xFF)
    else if off % 16 ≠ 0 then .fault 0x11 off (16 + 2 ^ 16 * 0x04)
    else if 384 * g.spRows < off + bytes then .fault 0x12 off (max off (384 * g.spRows) % 2 ^ 32 + 2 ^ 32 * g.spRows)
    else match spadSeal s g off bytes with
      | some (c, ad, dt) => .fault c ad dt
      | none =>
        let rnd := if rm = 0 then x.sp.fmt.toNat % 4 else rm - 1
        scEngine s x (.accst (g.accBase + r) n (384 * g.spBase + off) ty rnd (bitsOf w 27 1 == 1)) none) s

/-- The first lane whose accumulator row or column is out of range (R258). -/
def accLaneBreach (g : Group) (v : LaneVals) (col : Bool) : List Nat → Option (Nat × Nat)
  | [] => none
  | k :: l =>
    let r := laneWordAt v.a 0 k
    let c := if col then laneWordAt v.b 0 k else 0
    if g.accRows ≤ r ∨ 127 < c then some (k, accDetail g r (if col then c else 0xFF)) else accLaneBreach g v col l

/-- ACCRD and ACCRD.fl (R258). -/
def execAccrd (l : LaneF) (s : State) : Out :=
  laneIssue 0x102 l (fun s x v =>
    match x.b.block with
    | .engine id => if engWaits s id then .wait s (.engine id) else .out s {}
    | _ =>
      let fl := l.ext.toNat % 2 == 1
      let lanes := maskLanes v.act
      match accLaneBreach x.g v (!fl) lanes with
      | some (lane, d) => .fault lane 0x35 0 d
      | none =>
        if lanes = [] then .out s {}
        else
          let reads := lanes.map fun k => (k, x.g.accBase + laneWordAt v.a 0 k, if fl then 0 else laneWordAt v.b 0 k)
          lnEngine s x (lowestLane v.act) (.accrd l.dst.toNat reads fl) false none
            (if l.dst.toNat = 0x3FE then [] else [(l.dst.toNat, false)])) s

/-- ACCWR (R259). -/
def execAccwr (l : LaneF) (s : State) : Out :=
  laneIssue 0x103 l (fun s x v =>
    match x.b.block with
    | .engine id => if engWaits s id then .wait s (.engine id) else .out s {}
    | _ =>
      let lanes := maskLanes v.act
      match accLaneBreach x.g v true lanes with
      | some (lane, d) => .fault lane 0x35 0 d
      | none =>
        if lanes = [] then .out s {}
        else
          let writes := lanes.map fun k =>
            (x.g.accBase + laneWordAt v.a 0 k, laneWordAt v.b 0 k, BitVec.ofNat 32 (laneWordAt v.c 0 k))
          lnEngine s x (lowestLane v.act) (.accwr writes) false none []) s

/-- The mapping of a weight window behind a device address, with the offset in the window. -/
def weightAt (s : State) (vd va : Nat) : Option (Window × Nat) :=
  match (s.vd vd).maps.find? fun m => m.va ≤ va && va < m.va + m.size with
  | some m =>
    if m.self ∨ m.loc ≠ 3 then none
    else match windowOf s vd m.wid with
      | some w => if w.exchange then none else some (w, m.srca + (va - m.va))
      | none => none
  | none => none

/-- The checks of MLOADB on its source and its form (R218, R241, R242).
Beyond the rule's words: DEDUCED, log entry 26. -/
def loadSrcBreach (s : State) (g : Group) (wx : Bool) (src : Nat) : Option (Nat × Nat × Nat) :=
  match placeBreach src with
  | some sub => some (0x10, src, sub + 2 ^ 8 * 0x03)
  | none =>
    let al := if src / 2 ^ 62 = 0 then 128 else 16
    if wx ∧ src / 2 ^ 62 = 0 then some (0x01, 0, 0x04 + 2 ^ 8 * 0x03)
    else if src % al ≠ 0 then some (0x11, src, al + 2 ^ 16 * 0x03)
    else match peerBreach s g src with
      | some sub => some (0x10, src, sub + 2 ^ 8 * 0x03)
      | none => none

/-- The checks of a local scratchpad source, after those of the targets: its range, then its granules (R242). -/
def loadSpadBreach (s : State) (g : Group) (src len : Nat) : Option (Nat × Nat × Nat) :=
  match placeOf s g src with
  | .localSp off =>
    if 384 * g.spRows < off + len then some (0x12, src, max off (384 * g.spRows) % 2 ^ 32 + 2 ^ 32 * g.spRows)
    else (emptyAt s g off len 5).map fun b => (b.1, src - src % 2 ^ 32 + b.2.1, b.2.2)
  | _ => none

/-- The targets of an MLOADB (R241). -/
def loadTargets (g : Group) (o : Nat) : List Nat :=
  if bitsOf o 0 12 = 0 then [g.core] else ((upto 12).filter fun n => (bitsOf o 0 12).testBit n).map fun n => g.core / 12 * 12 + n

/-- MLOADB (R241, R242). -/
def execMloadb (n : BitVec 2) (a b : BitVec 7) (f : BitVec 2) (t : BitVec 2) (s : State) : Out :=
  let wx := f.toNat % 2 == 1
  let bx := f.toNat / 2 == 1
  let addrs := if wx then [a.toNat, a.toNat + 1, a.toNat + 2, a.toNat + 3] else [a.toNat, a.toNat + 1]
  scalarIssue (.mloadb n a b f t) { reads := addrs ++ [b.toNat], ban := 4, banField := 0x02 } (fun s x v =>
    let g := x.g
    let src := (v.getD 0 0).toNat + 2 ^ 32 * (v.getD 1 0).toNat
    let wa := (v.getD 2 0).toNat + 2 ^ 32 * (v.getD 3 0).toNat
    let o := (v.getD (if wx then 4 else 2) 0).toNat
    let cols := 8 * (bitsOf o 16 4 + 1)
    let len := (if bx then 432 else 384) * cols
    let targets := loadTargets g o
    let granted := ((s.vd g.vd).part.map (·.cores)).getD []
    if bitsOf o 20 12 ≠ 0 ∨ bitsOf o 12 4 ≠ 0 then .fault 0x32 0 (matDetail 3 n.toNat g.core o)
    else match loadSrcBreach s g wx src with
      | some (c, ad, d) => .fault c ad d
      | none =>
        match targets.find? fun k => !granted.contains k with
        | some k => .fault 0x32 0 (matDetail 2 n.toNat k (k % 12))
        | none =>
          if !slotGranted s g.vd n.toNat then .fault 0x32 0 (matDetail 1 n.toNat g.core 0)
          else if wx ∧ (wa % 128 ≠ 0 ∨ (weightAt s g.vd wa).isNone) then .fault 0x32 0 (matDetail 7 n.toNat g.core wa)
          else match loadSpadBreach s g src len with
            | some (c, ad, d) => .fault c ad d
            | none =>
              let pan := match placeOf s g src with
                | .peerSp q _ _ => some q
                | _ => none
              scEngine s x (.mloadb n.toNat (placeOf s g src) cols bx (if wx then some wa else none) targets targets) pan) s

/-! ### Admission (R244, R245) -/

/-- The core on which an operation's pannier stands. -/
def panCoreOf (o : EngOp) : Nat := match o.kind with
  | .mloadb _ (.peerSp _ c _) _ _ _ _ _ => c
  | _ => o.core

/-- Is there an engine-queue entry for a slot: its own or one of the 8 of the pool (R244). -/
def queueRoom (s : State) (core slot : Nat) : Bool :=
  let held := fun k => ((admittedOn s core).filter fun o => o.slot == k && !o.isPoint).length
  held slot == 0 || decide (((upto 24).map fun k => held k - 1).sum < 8)

/-- An engine operation's fault, at its admission or after (R242, R473). -/
def engFault (s : State) (o : EngOp) (code addr detail : Nat) : State :=
  match s.group? o.gid with
  | none => s
  | some g =>
    let ix := if 16 ≤ o.who then o.ord.split else o.who
    raiseFault s g.gid (s.now g.core)
      { who := ix, code := code, addr := addr, detail := detail, insn := o.insn, laneIns := o.laneIns,
        lane := if o.laneIns then o.lane else 127, spc := o.spc, lpc := o.lpc, low := issuerLow g ix none }

/-- The state of a slot as a device sees it. -/
def slotOf (s : State) (core vd n : Nat) : SlotState :=
  match (s.core core).slots[n]? with
  | some (st, w) => if w = vd then st else .invalid
  | none => .invalid

/-- Does an admitted load of a slot of a device stand before a place in a core's order. -/
def loadBefore (ops : List EngOp) (vd n : Nat) : Bool :=
  ops.any fun p => p.vd == vd && p.slotNo == some n && !p.isPass

/-- The slot-state check of an admission (R242, R251). -/
def slotMissing (s : State) (o : EngOp) : Option Nat :=
  match o.kind with
  | .pass n _ _ _ _ _ =>
    if slotOf s o.core o.vd n = .invalid ∧ !loadBefore (admittedOn s o.core) o.vd n then some n else none
  | _ => none

/-- The registers that an operation holds are released (R55). -/
def unlockEng (s : State) (o : EngOp) : State :=
  s.modGroup o.gid fun g => { g with vlocks := g.vlocks.filter fun k => k.2.2 != o.id }

/-- An operation leaves the queue: its counter drops and its pannier read ends (R244, R261). -/
def endEng (s : State) (o : EngOp) : State :=
  let s1 := unlockEng { s with engops := s.engops.filter fun k => k.id != o.id } o
  let s2 := match o.pan with
    | some e => if o.admitted then endRead (portClock s1 (panCoreOf o)) (panCoreOf o) e else s1
    | none => s1
  let s3 := if o.counted ∧ o.admitted then s2.modGroup o.gid fun g => g.wcDec 3 else s2
  tokenStep (dropParks s3 fun p => p.copy == some o.id) o.core

/-- The instruction of an operation that never ran is taken out. -/
def dropEng (s : State) (o : EngOp) : State := unlockEng { s with engops := s.engops.filter fun k => k.id != o.id } o

/-- The peer range of a load, once its pannier is full (R218). -/
def loadOut (s : State) (o : EngOp) : Option (Nat × Nat) :=
  match o.kind with
  | .mloadb _ (.peerSp q c off) cols bx _ _ _ =>
    if 384 * (panAt s c q).rows < off + (if bx then 432 else 384) * cols then
      some (peerAddr s o.vd (.peerSp q c off), 7 + 2 ^ 8 * 0x03)
    else none
  | _ => none

/-- Have an operation's waits before its admission ended (R244, R245, R274). -/
def engMay (s : State) (o : EngOp) : Bool :=
  match s.group? o.gid with
  | none => false
  | some g =>
    let panOk := match o.pan with
      | some e => panIs s o.vd (panCoreOf o) e .full && residentOn s (panCoreOf o) o.vd
      | none => true
    !o.admitted && g.status == .running && !(g.frozen && o.who != 8) && residentOn s o.core o.vd && panOk &&
      queueRoom s o.core o.slot && spadAccepted s o.gid o.ord.seq && !acqPending s o.gid o.vd o.ord false

/-- Does another instruction that reached the port in the same cycle come first: that of the lower group slot (R244). -/
def portBehind (s : State) (o : EngOp) : Bool :=
  s.engops.any fun p => p.core == o.core && p.issued == o.issued && decide (p.slot < o.slot) && engMay s p

/-- The engine port of a core admits one instruction per cycle (R244). -/
def enginePort (s : State) (core : Nat) : State :=
  let t := max (s.now core) (s.core core).engine.portAt
  s.modCore core fun k => { k with cyc := t, engine := { k.engine with portAt := t + 1 } }

/-- An operation is admitted: it takes its queue entry, begins its pannier read and adds to wc3 (R244). -/
def admitEng (s : State) (o : EngOp) : State :=
  let s0 := enginePort s o.core
  let o1 := { o with admitted := true, admittedAt := s0.now o.core }
  let s1 := { s0 with engops := s0.engops.filter (fun k => k.id != o.id) ++ [o1] }
  let s2 := match o.pan with
    | some e => beginRead s1 (panCoreOf o) e
    | none => s1
  let s3 := if o.counted then s2.modGroup o.gid fun h => h.wcInc 3 else s2
  if o.isPass then tokenStep s3 o.core else wakeSplit s3 o.gid (.engine o.id)

/-- ENGINE_ADMIT (R244 to R246, R251). -/
def execEngineAdmit (id : Nat) (s : State) : Out :=
  match s.engops.find? fun o => o.id == id with
  | none => .next s
  | some o =>
    if !engMay s o || portBehind s o then .next s
    else match slotMissing s o, loadOut s o with
      | some n, _ => .next (engFault (dropEng s o) o 0x34 0 n)
      | none, some (a, d) => .next (engFault (dropEng s o) o 0x10 a d)
      | none, none => .next (admitEng s o)

/-- The instructions of a group that were not admitted are taken back as its handler starts or it is saved: they issue again
when their split or batch goes on (R262). -/
def reissueEng (s : State) (gid : Nat) : State :=
  let ops := s.engops.filter fun o => o.gid == gid && !o.admitted && !o.isPoint && o.who != 8
  let s1 := ops.foldl dropEng s
  let out := fun (b : Block) => match b with
    | .engine id => if ops.any fun o => o.id == id then .none else b
    | _ => b
  s1.modGroup gid fun g =>
    { g with splits := g.splits.map fun sp => { sp with block := out sp.block },
             batches := g.batches.map fun b => { b with block := out b.block } }

/-! ### Passes (R246, R247, R251) -/

/-- The pass operations that fuse with the first one of a list (R247). Beyond the rule's words: DEDUCED, log entry 24. -/
def fuseWith (o : EngOp) (n : Nat) : List EngOp → List EngOp
  | [] => []
  | p :: l =>
    if p.isPass && p.vd == o.vd && p.slotNo == some n && decide (p.admittedAt ≤ o.admittedAt + 4) then p :: fuseWith o n l
    else []

/-- PASS_STREAM_START (R246, R247); a pass whose slot did not become ready faults and streams no row (R242). -/
def execPassStreamStart (core : Nat) (s : State) : Out :=
  match oldestPass s core with
  | none => .next s
  | some o =>
    match o.slotNo with
    | none => .next s
    | some n =>
      if o.streaming || (s.core core).engine.token != some o.vd || loadBefore (engBefore s o) o.vd n then .next s
      else if slotOf s core o.vd n ≠ .ready then
        .next (engFault (endEng s o) o 0x34 0 n)
      else
        let later := ((admittedOn s core).dropWhile fun k => k.id != o.id).drop 1
        let ops := o :: fuseWith o n later
        let ids := ops.map (·.id)
        let s1 := { s with engops := s.engops.map fun (k : EngOp) => if ids.contains k.id then { k with streaming := true } else k }
        let s2 := s1.modCore core fun k => { k with engine := { k.engine with pass := ids } }
        .next (ids.foldl (fun st i =>
          match s.engops.find? fun k => k.id == i with
          | some k => wakeSplit st k.gid (.engine i)
          | none => st) s2)

/-- The registers of a fragment in the lanes of its quarter, read as its row streams (R249, R250). -/
def fragWord (g : Group) (mask : LaneMask) (spec lane : Nat) : List Byte :=
  if laneBit mask lane then natLe 4 ((g.vval spec).getD lane 0).toNat else [0, 0, 0, 0]

/-- The A row and side row of a pass row (R249). -/
def rowBytes (s : State) (o : EngOp) (r : PassRow) : List Byte × List Byte :=
  match r.src with
  | .spad row side => (s.agentBytes o.core o.vd (.spad o.core (384 * row)) 384, s.agentBytes o.core o.vd (.spad o.core side) 48)
  | .frag va vc mask =>
    match s.group? o.gid with
    | none => ([], [])
    | some g =>
      let lanes := (upto 8).map fun l => 8 * r.quarter + l
      (lanes.flatMap fun l => (upto 12).flatMap fun i => fragWord g mask (va + i) l,
       match vc with
       | none => []
       | some c => lanes.flatMap fun l => fragWord g mask c l ++ (fragWord g mask (c + 1) l).take 2)

/-- A poisoned element that a pass row reads: its fault (R483). -/
def rowPoison (s : State) (o : EngOp) (r : PassRow) (z : Bool) : Option Nat :=
  let src : Option Nat := match r.src with
    | .spad row _ => (poisonIn s (.spad o.core (384 * row)) 384).map fun p => poisonDetail 2 p.1 p.2.1 p.2.2
    | .frag va _ mask => (s.group? o.gid).bind fun g =>
        (poisonRead s g ((upto 12).flatMap fun i => laneRegs (va + i) 1) mask).map (·.2)
  src.or (if z then none else (accPoison s o.core r.acc).map fun e => poisonDetail 4 o.core r.acc e)

/-- Columns 0 to 127 of a slot: stationary row and side row. -/
def slotColumn (s : State) (core n col : Nat) : List Byte × List Byte :=
  (s.bytesAt (.slot core n (384 * col)) 384, s.bytesAt (.slot core n (128 * 384 + 48 * col)) 48)

/-- Update (R251): the new elements of an accumulator row, and the flags raised. -/
def updateRow (s : State) (core n : Nat) (z diag : Bool) (fmt : Word) (acc : List Word) (row side : List Byte) :
    List Word × Flags :=
  let r := (upto 128).map fun c =>
    let (col, colSide) := slotColumn s core n c
    columnUpdate fmt diag c (if z then 0 else (acc.getD c 0).toNat) row side col colSide
  (r.map fun p => BitVec.ofNat 32 p.1, r.foldl (fun f p => f ||| p.2) 0)

/-- The flags that a quarter has raised (R250). -/
def raiseQuarter (l : List (Nat × Flags)) (j : Nat) (f : Flags) : List (Nat × Flags) := keySet l j (keyGet 0 l j ||| f)

/-- ACC_ROW_UPDATE: the next row of the streaming pass (R250, R251). -/
def execAccRowUpdate (core : Nat) (s : State) : Out :=
  match oldestPass s core with
  | none => .next s
  | some o =>
    match o.kind with
    | .pass n z diag fmt (r :: rest) lanes =>
      if !o.streaming || accBlocked s o [r.acc] [r.acc] then .next s
      else match rowPoison s o r z with
        | some d => .next (tokenStep (engFault (setEng s { o with kind := .pass n z diag fmt [] lanes }) o 0x18 0 d) core)
        | none =>
          let old := accRow s core r.acc
          let (row, side) := rowBytes s o r
          let (xs, f) := updateRow s core n z diag fmt old.1 row side
          let s1 := setAccRow s core r.acc xs ((if z then 0 else old.2) ||| f)
          let o1 := { o with kind := .pass n z diag fmt rest lanes, qflags := raiseQuarter o.qflags r.quarter f }
          let s2 := setEng s1 o1
          .next (if rest = [] then tokenStep (unlockEng s2 o1) core else s2)
    | _ => .next s

/-! ### Completion (R250, R257 to R261) -/

/-- The conversion of one element by ACCST (R260). -/
def accstElem (ty rm : Nat) (sat : Bool) (x : Word) : List Byte × Flags :=
  if ty = tyF32 ∨ ty = tyI32 then (natLe 4 x.toNat, 0)
  else if ty = tyI16 ∨ ty = tyI8 then
    let w := 8 * accstWidth ty
    (natLe (accstWidth ty) (if sat then satS (sInt 32 x.toNat) w else wrapN (sInt 32 x.toNat) w), 0)
  else
    let snan : Flags := if fmtF32.isSnan x.toNat then flNV else 0
    let (c, f) := enc (fmtOf ty) (dec fmtF32 x.toNat false) (rndOf rm) sat false
    (natLe (accstWidth ty) c, f ||| snan)

/-- One row of an ACCST is converted and written at the port (R260). -/
def accstRow (s : State) (o : EngOp) (row k dst ty rm : Nat) (sat : Bool) : State :=
  let old := accRow s o.core (row + k)
  let cells := old.1.map (accstElem ty rm sat)
  let f := cells.foldl (fun fl c => fl ||| c.2) 0
  (setAccRow s o.core (row + k) old.1 (old.2 ||| f)).land (.spad o.core (dst + k * 128 * accstWidth ty)) (cells.flatMap (·.1))

/-- Does a buffered store of the scratchpad port stand before bytes that the engine writes. -/
def portBusy (s : State) (core lo len : Nat) : Bool :=
  s.stores.any fun e => e.stage == .point && e.core == core && e.loc.isSpad && e.meets (Loc.spad core lo).key len

/-- A row of an ACCST that is written before the rest. -/
def accstPart (s : State) (id k : Nat) : State :=
  match s.engops.find? fun o => o.id == id with
  | none => s
  | some o =>
    match o.kind with
    | .accst row count dst ty rm sat =>
      if !o.admitted || accBlocked s o [row + k] [row + k] || decide (count ≤ k) || (o.read.any fun p => p.1 == k) ||
          (accPoison s o.core (row + k)).isSome || portBusy s o.core (dst + k * 128 * accstWidth ty) (128 * accstWidth ty) then s
      else setEng (accstRow s o row k dst ty rm sat) { o with read := o.read ++ [(k, 0)] }
    | _ => s

/-- ACCWR's elements written in lane order (R256, R259). -/
def accwrAll (s : State) (core : Nat) (ws : List (Nat × Nat × Word)) : State :=
  ws.foldl (fun st w =>
    let old := accRow st core w.1
    setAccRow st core w.1 (listSet old.1 w.2.1 w.2.2) old.2) s

/-- ACCRD's lanes receive their elements (R258). -/
def accrdAll (s : State) (o : EngOp) (spec : Nat) (reads : List (Nat × Nat × Nat)) (fl : Bool) : State :=
  if spec = 0x3FE then s
  else reads.foldl (fun st r =>
    let row := accRow st o.core r.2.1
    writeDst st o.gid o.ord.born (.lane spec r.1 32 false) (if fl then row.2.toNat else (row.1.getD r.2.2 0).toNat)) s

/-- The flags of a pass go into the sticky flags of each quarter's active lanes (R250, R154). -/
def mergeFlags (s : State) (o : EngOp) (lanes : Option LaneMask) : State :=
  match lanes with
  | none => s
  | some m => s.modGroup o.gid fun g => o.qflags.foldl (fun h q => h.orIn (s.now g.core / 3) (m &&& quarterMask q.1) q.2) g

/-- The first poisoned accumulator row that an operation reads. -/
def accReadPoison (s : State) (o : EngOp) : Option Nat :=
  o.accReads.findSome? fun r => (accPoison s o.core r).map fun e => poisonDetail 4 o.core r e

/-- ENGINE_COMPLETE (R250, R254, R257 to R261). -/
def execEngineComplete (id : Nat) (s : State) : Out :=
  match s.engops.find? fun o => o.id == id with
  | none => .next s
  | some o =>
    if !o.admitted || accBlocked s o o.accReads o.accWrites then .next s
    else match accReadPoison s o with
      | some d => .next (engFault (endEng s o) o 0x18 0 d)
      | none =>
        match o.kind with
        | .mloadb _ _ _ _ _ _ left => if left = [] then .next (endEng s o) else .next s
        | .point _ _ => .next s
        | .pass _ _ _ _ rows lanes => if rows = [] then .next (endEng (mergeFlags s o lanes) o) else .next s
        | .accz a b => .next (endEng ((upto b).foldl (fun st i => setAccRow st o.core (a + i) (List.replicate 128 0) 0) s) o)
        | .accrd spec reads fl => .next (endEng (accrdAll s o spec reads fl) o)
        | .accwr ws => .next (endEng (accwrAll s o.core ws) o)
        | .accst row count dst ty rm sat =>
          if portBusy s o.core dst (count * 128 * accstWidth ty) then .next s
          else .next (endEng (((upto count).filter fun k => !(o.read.any fun p => p.1 == k)).foldl
            (fun st k => accstRow st o row k dst ty rm sat) s) o)

/-! ### MLOADB: reading and loading (R242, R243, R473) -/

/-- What reading a part of an MLOADB's source answers. -/
inductive LoadRead where
  | bytes (bs : List Byte)
  | fault (code addr detail : Nat)
  | park (why page : Nat) (host : Option Nat)

/-- A weight line decrypted and checked, for target core `target` and slot `n` (R243, R482). -/
def openLine (s : State) (w : Window) (off va target n : Nat) (out : LineOut) (cipher : List Byte) : LoadRead :=
  match w.key with
  | none => .fault 0x36 va (2 ^ 8 * target + 2 ^ 16 * n + 2 ^ 18)
  | some key =>
    let bad := match out with
      | .weight l => some l
      | .mac l => some l
      | _ => if w.size ≤ off then some 0 else weightFails s w key off cipher
    match bad with
    | some l => .fault 0x36 va (l % 16 + 2 ^ 8 * target + 2 ^ 16 * n)
    | none => .bytes (weightPlain key off cipher)

/-- The bytes of one 128-byte line of a device-memory source (R242, R243, R369, R473). -/
def readDevLine (s : State) (o : EngOp) (va target n : Nat) (out : LineOut) : LoadRead × State :=
  match translateMoving s o.core o.vd va .read with
  | (.fault code d, s1) => (.fault code va (if code = 0x16 ∨ (0x20 ≤ code ∧ code < 0x23) then d + 2 ^ 5 else d), s1)
  | (.park why page host, s1) => (.park why page host, s1)
  | (.hit h, s1) =>
    let bs := s1.agentBytes o.core o.vd h.place 128
    match weightAt s1 o.vd va with
    | some (w, off) => (openLine s1 w off va target n out bs, s1)
    | none =>
      match lineComes s1 o.core h.place va 2 out with
      | (some (code, addr, d), s2) => (.fault code addr d, fenceZero s2 h.place)
      | (none, s2) => (.bytes bs, s2)

/-- The scratchpad byte at which a load's source starts. -/
def loadSpad (s : State) (o : EngOp) (src : Place) : Option (Nat × Nat) :=
  match src with
  | .localSp off => some (o.core, 384 * o.spBase + off)
  | .peerSp q c off => some (c, 384 * (panAt s c q).first + off)
  | .dev _ => none

/-- The bytes of one 128-byte piece of a scratchpad source, decrypted with .wx. -/
def readSpadPiece (s : State) (o : EngOp) (core abs k target n : Nat) (wx : Option Nat) (out : LineOut) : LoadRead × State :=
  let l := Loc.spad core (abs + k)
  match poisonIn s l 128 with
  | some (c, row, el) => (.fault 0x18 0 (poisonDetail 2 c row el), s)
  | none =>
    let bs := s.agentBytes o.core o.vd l 128
    match wx with
    | none => (.bytes bs, s)
    | some wa => match weightAt s o.vd (wa + k) with
      | some (w, off) => (openLine s w off (wa + k) target n out bs, s)
      | none => (.fault 0x36 (wa + k) (2 ^ 8 * target + 2 ^ 16 * n), s)

/-- The piece of a load's source at byte `k`, from the bytes read before or from its place. -/
def readPiece (s : State) (o : EngOp) (src : Place) (wx : Option Nat) (k target n : Nat) (out : LineOut) : LoadRead × State :=
  if o.read.any fun p => p.1 == k then
    (.bytes ((upto 128).map fun i => ((o.read.find? fun p => p.1 == k + i).map (·.2)).getD 0), s)
  else match src with
    | .dev va => readDevLine s o (va + k) target n out
    | _ => match loadSpad s o src with
      | some (core, abs) => readSpadPiece s o core abs k target n wx out
      | none => (.bytes [], s)

/-- The pieces of a load's source, in ascending order; the first that is read meets the outcome. -/
def readPieces (s : State) (o : EngOp) (src : Place) (wx : Option Nat) (target n : Nat) (out : LineOut) :
    List Nat → LoadRead × State
  | [] => (.bytes [], s)
  | k :: ks =>
    match readPiece s o src wx k target n out with
    | (.bytes bs, s1) =>
      let out1 := if o.read.any fun p => p.1 == k then out else .ok
      match readPieces s1 o src wx target n out1 ks with
      | (.bytes rest, s2) => (.bytes (bs ++ rest), s2)
      | r => r
    | r => r

/-- A piece of an MLOADB's source is read before its slot is written (R242). -/
def loadPart (s : State) (id k : Nat) : State :=
  match s.engops.find? fun o => o.id == id with
  | none => s
  | some o =>
    match o.kind with
    | .mloadb n src cols bx wx _ _ =>
      if !o.admitted || k % 128 != 0 || decide ((if bx then 432 else 384) * cols ≤ k) || (o.read.any fun p => p.1 == k) ||
          (s.parks.any fun p => p.copy == some id) then s
      else match readPiece s o src wx k o.core n .ok with
        | (.bytes bs, s1) => setEng s1 { o with read := o.read ++ (bs.zipIdx).map fun p => (k + p.2, p.1) }
        | _ => s
    | _ => s

/-- The bytes of a slot after a load: stationary rows, zeros, side rows, zeros (R242). -/
def slotImageOf (cols : Nat) (bx : Bool) (bs : List Byte) : List Byte :=
  let rows := bs.take (384 * cols)
  let sides := if bx then bs.drop (384 * cols) else []
  rows ++ List.replicate (384 * 128 - rows.length) 0 ++ sides ++ List.replicate (48 * 128 - sides.length) 0

/-- Where a device's slot of a core stands now: the core's, or its saved image (R240, R242). -/
def slotHome (s : State) (core vd n : Nat) : Loc :=
  if residentOn s core vd then .slot core n 0 else .slotImage core vd n 0

/-- The state of a device's slot on a core set, on the core or in its saved image. -/
def setSlot (s : State) (core vd n : Nat) (st : SlotState) : State :=
  s.modCore core fun k =>
    if residentOn s core vd then { k with slots := listSet k.slots n (st, vd) }
    else
      let old := keyGet (List.replicate 4 (SlotState.invalid, vd)) k.savedSlots vd
      { k with savedSlots := keySet k.savedSlots vd (listSet old n (st, vd)) }

/-- Bytes of a slot: two banks of bytes, 55,296 in all (R238). -/
def slotBytes : Nat := 128 * 432

/-- A slot becomes invalid and zero (R239, R243). -/
def invalidateSlot (s : State) (core vd n : Nat) : State :=
  (setSlot s core vd n .invalid).clearBytes (slotHome s core vd n) slotBytes

/-- A load fails: its slot becomes invalid on every target, and it counts as complete (R243, R473). -/
def failLoad (s : State) (o : EngOp) (n : Nat) (all : List Nat) (code addr detail : Nat) : State :=
  let s1 := all.foldl (fun st c => invalidateSlot st c o.vd n) (engFault s o code addr detail)
  let s2 := { s1 with engops := s1.engops.filter fun k => match k.kind with
    | .point parent _ => parent != o.id
    | _ => true }
  endEng s2 o

/-- The operation that holds a load's place in a target's order: the load itself, or its point. -/
def pointOf (s : State) (o : EngOp) (target : Nat) : Option EngOp :=
  if target = o.core then some o
  else s.engops.find? fun k => k.core == target && match k.kind with
    | .point parent _ => parent == o.id
    | _ => false

/-- A load takes its point in the order of another core (R242). -/
def takePoint (s : State) (o : EngOp) (n target : Nat) : State :=
  let p := { o with id := s.fresh, core := target, kind := .point o.id n, pan := none, counted := false,
                    admittedAt := s.now target, read := [] }
  { s with fresh := s.fresh + 1, engops := s.engops ++ [p] }

/-- Must a load wait at a target: earlier passes that name the slot, and earlier loads of it (R242). -/
def loadWaits (s : State) (p : EngOp) (vd n : Nat) : Bool :=
  (engBefore s p).any fun q => q.vd == vd && q.slotNo == some n && (!q.isPass || q.rows != [])

/-- The slot of a target is written from a load's source (R242, R243). -/
def loadTarget (s : State) (o : EngOp) (n : Nat) (src : Place) (cols : Nat) (bx : Bool) (wx : Option Nat)
    (all left : List Nat) (target : Nat) (out : LineOut) : State :=
  let len := (if bx then 432 else 384) * cols
  let ks := (upto (len / 128)).map fun i => 128 * i
  match readPieces s o src wx target n out ks with
  | (.fault code addr d, s1) => failLoad s1 o n all code addr d
  | (.park why page host, s1) =>
    match s1.group? o.gid with
    | some g => (parkAt s1 g (8 + 2 ^ 32 * o.id) (some o.id) [page] why page (missOf page host) (2 ^ 16 * page) none).2
    | none => s1
  | (.bytes bs, s1) =>
    if (s1.vd o.vd).fenced ∧ !(s.vd o.vd).fenced then s1
    else
      let s2 := (setSlot (s1.clearBytes (slotHome s1 target o.vd n) slotBytes) target o.vd n .ready).putBytes
        (slotHome s1 target o.vd n) (slotImageOf cols bx bs)
      let o1 := { o with kind := .mloadb n src cols bx wx all (left.filter fun c => c != target),
                         read := (bs.zipIdx).map fun p => (p.2, p.1) }
      let s3 := setEng s2 o1
      { s3 with engops := s3.engops.filter fun k => match k.kind with
        | .point parent _ => !(parent == o.id && k.core == target)
        | _ => true }

/-- SLOT_LOAD (R242, R243): a load takes its point at a target, marks the slot loading, and writes it. -/
def execSlotLoad (id target : Nat) (out : LineOut) (s : State) : Out :=
  match s.engops.find? fun o => o.id == id with
  | none => .next s
  | some o =>
    match o.kind with
    | .mloadb n src cols bx wx all left =>
      if !o.admitted || !left.contains target || (s.parks.any fun p => p.copy == some id) then .next s
      else if !residentOn s target o.vd then .next (loadTarget s o n src cols bx wx all left target out)
      else match pointOf s o target with
        | none => .next (takePoint s o n target)
        | some p =>
          if loadWaits s p o.vd n then .next s
          else if slotOf s target o.vd n ≠ .loading then .next (setSlot s target o.vd n .loading)
          else .next (loadTarget s o n src cols bx wx all left target out)
    | _ => .next s

end Sys2Proof.Machine
end

