-- ==== Sys2Proof/Machine/Order.lean ====
section
/-! DEFINITION. FENCE, BAR and TLBINV (R272, R273, R277 to R279, R377 to R379). -/

namespace Sys2Proof.Machine

/-- A scalar instruction that has waited as VSYNC waits enters a wait of its own (R98, R266). -/
def stayBlocked (s : State) (x : ScIss) (b : Block) : ScRes :=
  .stay (s.modGroup x.g.gid fun g => g.modSplit x.ix fun sp => { sp with block := b, vsyncSeq := x.seq })

/-- FENCE in its three kinds: 0 full, 1 .ld, 2 .st (R272, R273). Beyond the rule's words: DEDUCED, log entry 28. -/
def execFenceBy (i : Instr) (scope kind : Nat) (s : State) : Out :=
  scalarIssue i {} (fun s x _ => if laneQuiet x then stayBlocked s x (.fence scope kind x.seq) else .hold) s

/-- FENCE (R273). -/
def execFence (i : BitVec 8) (t : BitVec 2) (s : State) : Out := execFenceBy (.fence i t) i.toNat 0 s
/-- FENCE.ld (R273). -/
def execFenceLd (i : BitVec 8) (t : BitVec 2) (s : State) : Out := execFenceBy (.fenceLd i t) i.toNat 1 s
/-- FENCE.st (R273). -/
def execFenceSt (i : BitVec 8) (t : BitVec 2) (s : State) : Out := execFenceBy (.fenceSt i t) i.toNat 2 s

/-- The place in split order of a fence with an issue number. -/
def fenceOrd (sp born seq : Nat) : Ord := { split := sp, born := born, lane := false, seq := seq, ref := seq }

/-- The number at which a split was created. -/
def bornOf (s : State) (gid sp : Nat) : Nat := (((s.group? gid).bind (·.split? sp)).map (·.born)).getD 0

/-- Has everything that a fence waits for come about (R273). -/
def fenceReady (s : State) (gid sp scope kind seq : Nat) : Bool :=
  (kind == 1 || storesDone s gid seq (min scope 5)) && (kind == 2 || loadsDone s gid (fenceOrd sp (bornOf s gid sp) seq))

/-- The loads that a FENCE.st leaves behind unperformed hold every later store of its split (R273). -/
def fenceLoads (s : State) (gid : Nat) (o : Ord) : State :=
  { s with loads := s.loads.map fun l => if l.gid == gid && l.ord.before o then { l with fenced := some o.seq } else l }

/-- What a split waits for. -/
def Group.blockOf (g : Group) (sp : Nat) : Block :=
  match g.split? sp with
  | some p => p.block
  | none => .none

/-- A split goes on at its next word. -/
def splitOn (s : State) (gid sp : Nat) : State :=
  s.modGroup gid fun g => g.modSplit sp fun p => { p with block := .none, pc := p.pc + 1 }

/-- Is a page in a range. -/
def inPages (lo n page : Nat) : Bool := lo ≤ page && page < lo + n

/-- Step 2 of R378: every TLB entry of the world in the range is dropped, on every core, and every host translation that was asked
for a device page in it (R368). -/
def dropTlb (s : State) (vd gen lo n : Nat) : State :=
  { s with cores := s.cores.map fun k => (k.1, { k.2 with
      tlb := k.2.tlb.filter fun t => !(t.vd == vd && t.gen == gen && inPages lo n t.page),
      hosts := k.2.hosts.filter fun h =>
        !(h.vd == vd && h.gen == gen && decide (h.dev.1 < lo + n) && decide (lo < h.dev.1 + h.dev.2)) }) }

/-- Step 3 of R378: is every access of the world that was translated before `seq` in the range performed, at .pkg or, for
a host page, at .sys. -/
def accessesDone (s : State) (vd gen lo n seq : Nat) : Bool :=
  (s.stores.all fun e => !(e.vd == vd && e.gen == gen && decide (e.id < seq) && !e.loc.isSpad && inPages lo n e.page) ||
    e.performedAt (match e.loc with
      | .host _ => 5
      | _ => 4)) &&
  (s.loads.all fun l => !(l.vd == vd && l.gen == gen && decide (l.op < seq)) ||
    l.els.all fun p => p.2.loc.isSpad || !inPages lo n p.2.page)

/-- Step 4 of R378: every parked instruction of the world with a page in the range walks again. -/
def releaseParks (s : State) (vd gen : Nat) (hit : Nat → Bool) : State :=
  { s with parks := s.parks.map fun p =>
      if p.vd == vd && p.gen == gen && p.pages.any hit then { p with released := true } else p }

/-- FENCE_COMPLETE: a waiting fence completes, one at .win once the group's staged stores have been written (R273, R279); the steps of a TLBINV, which acts as one, go on (R378). -/
def execFenceComplete (gid sp : Nat) (s : State) : Out :=
  match s.group? gid with
  | none => .next s
  | some g =>
    match g.blockOf sp with
    | .fence scope kind seq =>
      if fenceReady s gid sp scope kind seq then
        match if scope = 6 ∧ kind ≠ 1 then s.writebackSome g.vd gid else none with
        | some s1 => .next s1
        | none => .next (splitOn (if kind = 2 then fenceLoads s gid (fenceOrd sp (bornOf s gid sp) seq) else s) gid sp)
      else .next s
    | .tlbinv lo n seq dropped =>
      if !dropped then
        if fenceReady s gid sp 4 0 seq then
          .next ((dropTlb s g.vd g.gen lo n).modGroup gid fun h => h.modSplit sp fun p =>
            { p with block := .tlbinv lo n s.fresh true })
        else .next s
      else if accessesDone s g.vd g.gen lo n seq then
        .next (splitOn (releaseParks s g.vd g.gen (inPages lo n)) gid sp)
      else .next s
    | _ => .next s

/-- TLBINV (R377, R378). -/
def execTlbinv (a b : BitVec 7) (t : BitVec 2) (s : State) : Out :=
  scalarIssue (.tlbinv a b t) { reads := [a.toNat, a.toNat + 1, b.toNat] } (fun s x v =>
    let addr := (v.getD 0 0).toNat + 2 ^ 32 * (v.getD 1 0).toNat
    let n := (v.getD 2 0).toNat
    if addr % 2 ^ 16 ≠ 0 ∨ addr / 2 ^ 52 ≠ 0 then .fault 0x24 addr (1 + 2 ^ 32 * n)
    else if n = 0 ∨ 2 ^ 20 < n then .fault 0x24 addr (2 + 2 ^ 32 * n)
    else if 2 ^ 52 < addr + 2 ^ 16 * n then .fault 0x24 addr (3 + 2 ^ 32 * n)
    else if laneQuiet x then stayBlocked s x (.tlbinv (addr / 2 ^ 16) n x.seq false)
    else .hold) s

/-- TLBINV.all (R377, R378). -/
def execTlbinvAll (t : BitVec 2) (s : State) : Out :=
  scalarIssue (.tlbinvAll t) {} (fun s x _ =>
    if laneQuiet x then stayBlocked s x (.tlbinv 0 (2 ^ 36) x.seq false) else .hold) s

/-- BAR (R277). -/
def execBar (i : BitVec 8) (t : BitVec 2) (s : State) : Out :=
  scalarIssue (.bar i t) {} (fun s x _ => if laneQuiet x then stayBlocked s x (.bar i.toNat x.seq) else .hold) s

/-- Has a split arrived at a barrier: its group's earlier stores are accepted (R277). -/
def barArrived (s : State) (g : Group) (b sp : Nat) : Bool :=
  match g.blockOf sp with
  | .bar c seq => c == b && s.stores.all fun e => !(e.gid == g.gid && decide (e.ord.seq < seq)) || e.stage == .point
  | _ => false

/-- The groups that a barrier counts: those of the team, or the one group without a team that has the number 2^32 + its
own (R278). -/
def barGroups (s : State) (team : Nat) : List Group :=
  if team < 2 ^ 32 then s.teamGroups team else s.groups.filter fun g => g.team == none && g.gid + 2 ^ 32 == team

/-- Does a split wait at a barrier. -/
def barWaits (g : Group) (b sp : Nat) : Bool :=
  match g.blockOf sp with
  | .bar c _ => c == b
  | _ => false

/-- Has every counted group of a barrier arrived (R278). -/
def barDue (s : State) (team b : Nat) : Bool :=
  let gs := barGroups s team
  !gs.isEmpty && gs.all fun g => (upto 9).any fun sp => barArrived s g b sp

/-- BAR_RELEASE: when every counted group has arrived, every split that waits at the barrier is released: one that has not
drained its stores joins its group's arrival (R277, R278). -/
def execBarRelease (team b : Nat) (s : State) : Out :=
  if barDue s team b then
    .next ((barGroups s team).foldl (fun st g => ((upto 9).filter (barWaits g b)).foldl (fun st sp => splitOn st g.gid sp) st) s)
  else .next s

end Sys2Proof.Machine
end

