-- ==== Sys2Proof/Machine/Groups.lean ====
section
/-! DEFINITION. Groups, teams and units: what the hub reads and adds in a device's memory (R323, R324), space on a core
(R174, R388), group start (R41 to R46), retirement (R93, R278, R279, R324, R478), and the completion of launches (R324). -/

namespace Sys2Proof.Machine

/-! ### A device's memory as the hub reads it -/

/-- Where a byte of a device's virtual memory lives, as the tables stand. -/
def hubPlace (s : State) (vd va : Nat) : Option Loc :=
  match (s.vd vd).maps.find? fun m => m.va ≤ va && va < m.va + m.size with
  | some m =>
    if m.self then
      let e := s.natAt (.hbm vd (selfEntryAt m va)) 8
      if bitsOf e 0 1 = 1 ∧ selfLeafOk m e then some (selfPlace m vd (leafOfEntry e) va) else none
    else if windowGone s vd m then none else some (mappedPlace s vd m va)
  | none => (viewPage (s.vd vd) va).map fun a => .hbm vd a

/-- `n` bytes of a device's memory, or the first address outside its mappings. -/
def hubBytes (s : State) (vd : Nat) : Nat → Nat → Except Nat (List Byte)
  | _, 0 => .ok []
  | va, n + 1 =>
    match hubPlace s vd va with
    | none => .error va
    | some l => match hubBytes s vd (va + 1) n with
      | .error a => .error a
      | .ok bs => .ok (s.homeByte vd l :: bs)

/-- A little-endian number in a device's memory; 0 outside its mappings. -/
def hubNat (s : State) (vd va n : Nat) : Nat := match hubBytes s vd va n with
  | .ok bs => leNat bs
  | .error _ => 0

/-- The failing line that the hub meets among `n` bytes, of a table or of the bytes themselves: code and DETAIL (R481). -/
def hubBad (s : State) (vd va n : Nat) : Option (Nat × Nat) :=
  (upto (n / 128 + 2)).findSome? fun i =>
    let a := if i = 0 then va else (va / 128 + i) * 128
    if a < va + n then (walkBad s vd a).or ((hubPlace s vd a).bind fun l => hubLineBad s l) else none

/-- The failing line among ranges of bytes. -/
def hubFails (s : State) (vd : Nat) (rs : List (Nat × Nat)) : Option (Nat × Nat) := rs.findSome? fun r => hubBad s vd r.1 r.2

/-- The writer number of the hub in a window's staging (R279). -/
def hubWriter : Nat := 2 ^ 33

/-- Bytes that the hub writes into a device's memory; bytes outside its mappings go nowhere. -/
def hubWrite (s : State) (vd : Nat) : Nat → List Byte → State
  | _, [] => s
  | va, b :: bs =>
    let s1 := match hubPlace s vd va with
      | some l => s.store vd hubWriter l [b]
      | none => s
    hubWrite s1 vd (va + 1) bs

/-- A word written by the hub, with its line's counters (R411); a failing line fences (R481). -/
def hubWord (s : State) (vd va n : Nat) : State :=
  let s1 := hubWrite s vd va (natLe 4 n)
  let s2 := match hubPlace s vd va with
    | some (.hbm v a) => s1.bumpLine (.hbm v a)
    | _ => s1
  match hubPlace s vd va with
  | some l => fenceBad s2 vd 0xFF l
  | none => s2

/-- An atomic add at the controller that owns a word (R324); address 0 names none. -/
def hubAdd (s : State) (vd va n : Nat) : State := if va = 0 then s else hubWord s vd va (hubNat s vd va 4 + n)

/-! ### Counter blocks (R323, R324) -/

/-- JOBCTR of a device's context (R354). -/
def jobCtr (s : State) (vd : Nat) : Nat := match (s.vd vd).ctx with
  | some c => c.jobctr
  | none => 0

/-- A launch as a unit that is dispatched now names it: with its context's job block (R323, R351). -/
def withJob (s : State) (vd : Nat) (l : Launch) : Launch := { l with jctr := jobCtr s vd }

/-- The blocks that a unit of a launch names. -/
def Launch.blocks (l : Launch) : List Nat := [l.lctr, l.gctr, l.pctr, l.jctr].filter (· != 0)

/-- One more in a word of every block of a launch: 0 DISP, 4 DONE, 8 CANC. -/
def countUnit (s : State) (vd : Nat) (l : Launch) (off : Nat) : State :=
  l.blocks.foldl (fun st a => hubAdd st vd (a + off) 1) s

/-- Has a block of the launch CXL set (R325). -/
def launchCancelled (s : State) (vd : Nat) (l : Launch) : Bool :=
  l.blocks.any fun a => hubNat s vd (a + 12) 4 % 2 == 1

/-- Is a bin or a responder of a launch still to come (R324). -/
def launchPending (s : State) (vd : Nat) (lid : Word) : Bool :=
  s.cores.any fun k => k.2.bins.any fun b => b.vd == vd &&
    ((b.kind != .responder && b.lid == lid) || b.records.any fun r => r.launch.lid == lid)

/-- Is a launch complete (R324). -/
def launchComplete (s : State) (t : Tracker) : Bool :=
  t.allPlaced && !launchPending s t.vd t.lid &&
  (if t.lctr = 0 ∨ t.program.isSome then t.live == 0
   else hubNat s t.vd t.lctr 4 == (hubNat s t.vd (t.lctr + 4) 4 + hubNat s t.vd (t.lctr + 8) 4) % 2 ^ 32)

/-- Launches that are complete add 1 to their entry's SUCC word; a resident program's entry shows that its units have
retired (R324, R358). -/
def completeLaunches (s : State) : State :=
  (s.trackers.filter (launchComplete s)).foldl (fun st t =>
    let s1 : State := { st with trackers := st.trackers.filter fun u => u.tid != t.tid }
    match t.program with
    | some id => programRetired s1 t.vd id
    | none => hubAdd s1 t.vd t.succ 1) s

/-- A tracker changed. -/
def modTracker (s : State) (tid : Option Nat) (f : Tracker → Tracker) : State :=
  match tid with
  | none => s
  | some n => { s with trackers := s.trackers.map fun t => if t.tid == n then f t else t }

/-- A unit that never ran retires as cancelled (R324). -/
def cancelUnplaced (s : State) (vd : Nat) (l : Launch) (succ : Nat) : State :=
  hubAdd (countUnit (countUnit s vd (withJob s vd l) 0) vd (withJob s vd l) 8) vd succ 1

/-! ### Space on a core (R174, R199, R386) -/

/-- The lowest run of `n` free numbers in a range, given the runs in use. -/
def firstRun (first count n : Nat) (used : List (Nat × Nat)) : Option Nat :=
  if count < n then none
  else ((upto (count - n + 1)).map fun i => first + i).find? fun b =>
    used.all fun u => decide (b + n ≤ u.1) || decide (u.1 + u.2 ≤ b)

/-- The groups of a device on a core. -/
def groupsOn (s : State) (core vd : Nat) : List Group := s.groups.filter fun g => g.core == core && g.vd == vd

/-- The lowest free group slots of a device's range. -/
def freeSlots (s : State) (core vd : Nat) : List Nat :=
  match (s.vd vd).part with
  | none => []
  | some p => ((upto p.gcount).map fun i => p.gfirst + i).filter fun n => !(groupsOn s core vd).any fun g => g.slot == n

/-- A base of `n` free register rows of a device on a core. -/
def freeRows (s : State) (core vd n : Nat) : Option Nat :=
  match (s.vd vd).part with
  | none => none
  | some p =>
    let used := (groupsOn s core vd).map fun g => (g.rowBase, g.launch.vregs)
    if p.rcount < (used.map (·.2)).sum + n then none
    else some ((firstRun p.rfirst p.rcount n used).getD p.rfirst)

/-- Bases of scratchpad and accumulator rows for a team (R174, R199). -/
def freeTeamRows (s : State) (core vd : Nat) (l : Launch) : Option (Nat × Nat) :=
  match (s.vd vd).part with
  | none => none
  | some p =>
    let ts := s.teams.filter fun t => t.core == core && t.vd == vd
    match firstRun p.sfirst p.scount l.sprows (ts.map fun t => (t.spBase, t.spRows)),
          firstRun p.afirst p.acount l.accrows (ts.map fun t => (t.accBase, t.accRows)) with
    | some a, some b => some (a, b)
    | _, _ => none

/-- Is there room for a team on a core (R174). -/
def teamFits (s : State) (core vd : Nat) (l : Launch) : Bool :=
  decide (l.team ≤ (freeSlots s core vd).length) && (freeTeamRows s core vd l).isSome &&
  match (s.vd vd).part with
  | none => false
  | some p => decide (((groupsOn s core vd).map fun g => g.launch.vregs).sum + l.team * l.vregs ≤ p.rcount)

/-! ### Group start (R41 to R46, R188, R190, R308) -/

/-- Ninety-six zero words. -/
def zeroLanes : List Word := List.replicate 96 0

/-- A group as it starts: everything zero but what is given. -/
def startGroup (s : State) (core vd slot : Nat) (l : Launch) (rank entry : Nat) (sregs : List Word) (mask : LaneMask)
    (fmt : Word) (rowBase : Nat) : Group where
  gid := s.fresh
  core := core
  slot := slot
  vd := vd
  gen := (s.vd vd).gen
  launch := l
  rank := rank
  team := none
  spBase := 0
  spRows := 0
  accBase := 0
  accRows := 0
  rowBase := rowBase
  sregs := (upto 48).map fun i => sregs.getD i 0
  vregs := List.replicate l.vregs zeroLanes
  oregs := List.replicate 16 zeroLanes
  preds := List.replicate 24 0
  flags := List.replicate 96 0
  wc := [0, 0, 0, 0]
  empty := false
  stallchk := match (s.vd vd).ctx with
    | some c => c.stallchk
    | none => false
  splits := (freshSplit entry (s.now core) zeroPriv fmt s.fresh).setMask mask :: List.replicate 7 freeSplit
  batches := []
  handler := none
  pend := []
  fpend := []
  fturn := none
  locks := []
  vlocks := []
  status := .running
  faults := []
  late := (0, 0)
  record := []
  responder := none
  succ := 0
  tracker := none
  cycBefore := 0
  cycSince := s.now core
  trapAt := 0
  resumeAt := (0, 0, 0)
  stopping := false
  ended := false

/-- The slice entry of a region on a core. -/
def sliceOf (s : State) (core region : Nat) : Option Slice := (s.core core).slices.find? fun k => k.region == region

/-- Are the groups of a device leaving a core (R391). -/
def leavingOn (s : State) (core vd : Nat) : Bool :=
  match (s.vd vd).part with
  | none => false
  | some p => match sliceOf s core p.region with
    | some k => k.leaving && k.resident == some vd
    | none => false

/-- Is a device resident on a core and not leaving it: what starts there now runs (R389, R400). -/
def hereNow (s : State) (core vd : Nat) : Bool := residentOn s core vd && !leavingOn s core vd

/-- A group put into its slot: it runs, or is saved in its group-start state where its device is saved out or leaves
(R389, R400). -/
def addGroup (s : State) (g : Group) : State :=
  let g1 := if hereNow s g.core g.vd then g else { g with status := .savedFresh }
  { s with groups := s.groups ++ [g1], fresh := s.fresh + 1 }

/-- The scratchpad image of a launch is copied into a team's allocation, or its saved image (R509). -/
def copyImage (s : State) (t : Team) (l : Launch) : State :=
  match l.image with
  | none => s
  | some (addr, n, row) =>
    match hubBytes s t.vd addr n with
    | .error _ => s
    | .ok bs =>
      if hereNow s t.core t.vd then s.putBytes (.spad t.core (384 * (t.spBase + row))) bs
      else s.putBytes (.image t.tid (384 * row)) bs

/-- What a unit of a team starts with besides its numbers (R43, R319). -/
structure UnitArgs where
  index : Nat
  arg : DWord := 0
  tile : DWord := 0
  entry : Nat
  succ : Nat := 0
  ranked : Bool := true
  tracker : Option Nat := none
  deriving DecidableEq, Repr

/-- The two words of a pair value, low word first. -/
def dwords (x : DWord) : List Word := [BitVec.ofNat 32 x.toNat, BitVec.ofNat 32 (x.toNat / 2 ^ 32)]

/-- One group of a team. -/
def placeMember (s : State) (t : Team) (l : Launch) (u : UnitArgs) (k : Nat) : State :=
  match freeSlots s t.core t.vd, freeRows s t.core t.vd l.vregs with
  | slot :: _, some row =>
    let sregs := [BitVec.ofNat 32 (u.index * l.team + k), BitVec.ofNat 32 u.index, BitVec.ofNat 32 k,
      BitVec.ofNat 32 l.team] ++ dwords u.arg ++ dwords u.tile
    let g := startGroup s t.core t.vd slot l (if u.ranked then u.index * l.team + k else 0) u.entry sregs (~~~(0 : LaneMask))
      fmtReset row
    let g1 := { g with team := some t.tid, spBase := t.spBase, spRows := t.spRows, accBase := t.accBase,
                       accRows := t.accRows, succ := u.succ, tracker := u.tracker }
    modTracker (countUnit (addGroup s g1) t.vd l 0) u.tracker fun r => { r with live := r.live + 1 }
  | _, _ => s

/-- A team placed on a core that has room for it (R174, R324). -/
def placeTeam (s : State) (core vd : Nat) (l0 : Launch) (u : UnitArgs) : State :=
  let l := withJob s vd l0
  match freeTeamRows s core vd l with
  | none => s
  | some (sp, acc) =>
    let t : Team := { tid := s.fresh, core := core, vd := vd, gen := (s.vd vd).gen, spBase := sp, spRows := l.sprows,
                      accBase := acc, accRows := l.accrows, lid := l.lid, forced := false, imageEmpty := [], imageAcc := [] }
    let s1 := copyImage { s with fresh := s.fresh + 1, teams := s.teams ++ [t] } t l
    (upto l.team).foldl (fun st k => placeMember st t l u k) s1

/-! ### Residency of a region (R389) -/

/-- A slice entry put in place. -/
def setSlice (s : State) (core : Nat) (k : Slice) : State :=
  s.modCore core fun c => { c with slices := k :: c.slices.filter fun j => j.region != k.region }

/-- May work of a device be placed on a core: it is resident there, or it is saved out, or no device of its region is
resident (R330, R389). -/
def wouldBeResident (s : State) (core vd : Nat) : Bool :=
  match (s.vd vd).part with
  | none => false
  | some p => p.cores.contains core && (p.region == 0 ||
      match sliceOf s core p.region with
      | none => true
      | some k => k.resident == some vd || k.resident.isNone || k.idle)

/-- A device's slots return to a core of its region (R240, R397). -/
def arriveSlots (s : State) (core vd : Nat) (slots : List Nat) : State :=
  let old := keyGet (List.replicate 4 (SlotState.invalid, vd)) (s.core core).savedSlots vd
  let s1 := slots.foldl (fun (st : State) n => st.copyBytes (.slotImage core vd n 0) (.slot core n 0) slotBytes) s
  let s2 := slots.foldl (fun (st : State) n => st.clearBytes (.slotImage core vd n 0) slotBytes) s1
  s2.modCore core fun k => { k with
    slots := slots.foldl (fun (l : List (SlotState × Nat)) n => listSet l n ((old.getD n (.invalid, vd)).1, vd)) k.slots,
    savedSlots := k.savedSlots.filter fun p => p.1 != vd }

/-- A device's slots leave a core of its region: their images are kept, and they are cleared (R240, R388). -/
def departSlots (s : State) (core vd : Nat) (slots : List Nat) : State :=
  let now := (upto 4).map fun n => if slots.contains n then ((((s.core core).slots.getD n (.invalid, vd)).1), vd) else (SlotState.invalid, vd)
  let s1 := slots.foldl (fun (st : State) n => st.copyBytes (.slot core n 0) (.slotImage core vd n 0) slotBytes) s
  let s2 := slots.foldl (fun (st : State) n => st.clearBytes (.slot core n 0) slotBytes) s1
  s2.modCore core fun k => { k with
    slots := slots.foldl (fun (l : List (SlotState × Nat)) n => listSet l n (.invalid, vd)) k.slots,
    savedSlots := keySet k.savedSlots vd now }

/-- The timers of a device's bins on a core count on from now: what they have counted so far stands (R185, R399). -/
def restartTimers (s : State) (core vd : Nat) : State :=
  s.modCore core fun k => { k with bins := k.bins.map fun (b : Bin) => if b.vd = vd then { b with timerAt := s.now core } else b }

/-- The timers of a device's bins on a core stop as the device leaves it (R185, R399). -/
def haltTimers (s : State) (core vd : Nat) : State :=
  s.modCore core fun k => { k with bins := k.bins.map fun (b : Bin) =>
    if b.vd = vd then { b with timer := b.timer + (s.now core - b.timerAt) } else b }

/-! ### Leaving (R93, R174, R297, R478) -/

/-- Is a responder of a team's tiles pending or resident (R297). -/
def teamAnswers (s : State) (tid : Nat) : Bool :=
  (s.groups.any fun g => match g.responder with
    | some r => r.team == some tid
    | none => false) ||
  s.cores.any fun k => k.2.bins.any fun b => b.records.any fun r => r.team == some tid

/-- Has a copy claimed bytes of a pannier that a team armed (R478). -/
def teamClaimed (s : State) (t : Team) : Bool :=
  s.copies.any fun c => c.claimed && c.panCore == t.core &&
    (let p := panAt s c.panCore c.pan
     p.team == some t.tid && p.vd == t.vd && p.state != .free)

/-- Is a copy or an engine instruction of a team still at work. -/
def teamWorks (s : State) (tid : Nat) : Bool :=
  (s.copies.any fun c => c.team == some tid && c.claimed) || (s.engops.any fun o => o.team == some tid && !o.isPoint)

/-- A team's allocation is released: its panniers end, its tiles leave the directory, its rows are cleared (R174, R297,
R388, R478). -/
def releaseTeam (s : State) (t : Team) : State :=
  let pans := (s.core t.core).pans.filter fun p => p.2.team == some t.tid && p.2.vd == t.vd && p.2.state != .free
  let s1 := pans.foldl (fun st p =>
    modPan ((upto 12).foldl (fun st j => dropSeals st t.core p.1 j) st) t.core p.1 fun _ => Pannier.empty) s
  let inRows := fun (lo n r : Nat) => lo ≤ r && r < lo + n
  let s2 := s1.modCore t.core fun k => { k with
    marks := k.marks.filter fun m => !(m.team == some t.tid && m.vd == t.vd),
    empties := k.empties.filter fun n => !inRows (24 * t.spBase) (24 * t.spRows) n,
    accs := k.accs.filter fun a => !inRows t.accBase t.accRows a.1,
    poison := k.poison.filter fun p =>
      !(((p.1 == 2 || p.1 == 3) && inRows t.spBase t.spRows p.2.1) || (p.1 == 4 && inRows t.accBase t.accRows p.2.1)) }
  let s3 := if residentOn s t.core t.vd then s2.clearBytes (.spad t.core (384 * t.spBase)) (384 * t.spRows) else s2
  { s3.clearBytes (.image t.tid 0) (384 * t.spRows) with teams := s3.teams.filter fun u => u.tid != t.tid }

/-- Is a hand-off of a tile of a team's rows under way: the entry leaves the directory as under MARKDROP, which waits for it
(R297, R301). -/
def teamMoves (s : State) (t : Team) : Bool :=
  ((s.core t.core).marks.any fun m => m.team == some t.tid && m.vd == t.vd && m.state != .held) ||
  s.moves.any fun m => m.entry.team == some t.tid && m.dst == t.core && m.stage == .installing

/-- Is a team over: it has no group, its copies, responders and hand-offs have ended. -/
def teamOver (s : State) (t : Team) : Bool :=
  (s.teamGroups t.tid).isEmpty && !teamAnswers s t.tid && !teamClaimed s t && !teamWorks s t.tid && !teamMoves s t

/-- Every team that is over is released. -/
def releaseTeams (s : State) : State := (s.teams.filter (teamOver s)).foldl releaseTeam s

/-- The census entries of a group that is gone: those that are complete are freed, the others once they are (R311, R440). -/
def leaveCensus (gid : Nat) (l : List Solicit) : List Solicit :=
  (l.filter fun x => !(x.gid == gid && x.complete)).map fun x => if x.gid == gid then { x with orphan := true } else x

/-- A group gives up its slot: what only it could still use goes with it. -/
def dropGroup (s : State) (g : Group) : State :=
  let s1 : State := { s with
    groups := s.groups.filter fun h => h.gid != g.gid,
    parks := s.parks.filter fun p => !(p.gid == g.gid && p.copy.isNone),
    solicits := leaveCensus g.gid s.solicits }
  let s2 := s1.modCore g.core fun k => { k with
    divs := k.divs.map fun (d : Option Division) => match d with
      | some e => if e.gid = g.gid then none else some e
      | none => none,
    poison := k.poison.filter fun p => !((p.1 == 0 && g.rowBase ≤ p.2.1 && p.2.1 < g.rowBase + g.launch.vregs) ||
      (p.1 == 1 && p.2.1 / 16 == g.slot)) }
  releaseTeams (s2.modVd g.vd fun d => { d with waiters := d.waiters.filter fun w => w.gid != g.gid })

/-- Are all counters of a group zero, its store queue empty, and its stores performed at a scope (R93, R309, R324). -/
def groupDrained (s : State) (g : Group) (scope : Nat) : Bool :=
  (g.wc.all (· == 0)) && storesDone s g.gid s.fresh scope && (s.loads.all fun l => l.gid != g.gid) &&
  (s.engops.all fun o => o.gid != g.gid) && (s.copies.all fun c => c.gid != g.gid) && (s.feqs.all fun q => q.gid != g.gid)

/-- A unit's retirement is counted (R324): in its blocks, its SUCC word and its launch. -/
def countRetired (s : State) (g : Group) (off : Nat) : State :=
  completeLaunches (modTracker (hubAdd (countUnit s g.vd g.launch off) g.vd g.succ 1) g.tracker fun r =>
    { r with live := r.live - 1 })

/-- GROUP_RETIRE: a group with no live split, whose counters are zero and whose stores are performed, retires as a unit once its
staged stores have been written (R93, R279, R324). Responders retire by RESPONDER_COMPLETE. -/
def execGroupRetire (gid : Nat) (s : State) : Out :=
  match s.group? gid with
  | none => .next s
  | some g =>
    if g.status ≠ .running ∨ g.liveSplits ≠ [] ∨ g.handler ≠ none ∨ g.responder ≠ none ∨ !groupDrained s g 4 then .next s
    else match s.writebackSome g.vd gid with
      | some s1 => .next s1
      | none => .next (countRetired (dropGroup s g) g 4)

end Sys2Proof.Machine
end

