-- ==== Sys2Proof/Machine/Bins.lean ====
section
/-! DEFINITION. Spawn bins: VSPAWN, REGROUP, firing and the groups that bins form (R185 to R192, R389). -/

namespace Sys2Proof.Machine

/-- A bin that holds nothing. -/
def emptyBin (s : State) (core bix : Nat) (kind : BinKind) (vd : Nat) (l : Launch) (code : Nat) (tracker : Option Nat) : Bin where
  bix := bix
  kind := kind
  vd := vd
  gen := (s.vd vd).gen
  lid := l.lid
  code := code
  fired := false
  args := []
  timerAt := s.now core
  timer := 0
  contribs := []
  declared := 0
  live := 0
  arrivals := 0
  records := []
  launch := l
  tracker := tracker

/-- BINS of a device (R385). -/
def binGrant (s : State) (vd : Nat) : Nat := ((s.vd vd).part.map (·.bins)).getD 0

/-- The lowest bin that a device may open on a core (R185). -/
def freeBin (s : State) (core vd : Nat) : Option Nat :=
  let bins := (s.core core).bins
  if binGrant s vd ≤ (bins.filter fun b => b.vd == vd).length then none
  else (upto 16).find? fun n => !(bins.any fun b => b.bix == n)

/-- The open spawn or regroup bin of a key (R185). -/
def openBin (s : State) (core : Nat) (kind : BinKind) (vd : Nat) (lid : Word) (code : Nat) : Option Bin :=
  (s.core core).bins.find? fun b => b.kind == kind && b.vd == vd && b.lid == lid && b.code == code && !b.fired

/-- A bin put back, or put in. -/
def putBin (s : State) (core : Nat) (b : Bin) : State :=
  s.modCore core fun k => { k with bins := b :: k.bins.filter fun c => c.bix != b.bix }
/-- A bin becomes free. -/
def removeBin (s : State) (core bix : Nat) : State := s.modCore core fun k => { k with bins := k.bins.filter fun c => c.bix != bix }

/-- The contributors of a regroup bin in the order of R175 and R190: by rank, equal ranks by group slot. -/
def insertContrib (c : Contrib) : List Contrib → List Contrib
  | [] => [c]
  | d :: l => if c.rank < d.rank ∨ (c.rank = d.rank ∧ c.slot < d.slot) then c :: d :: l else d :: insertContrib c l
def orderedContribs (b : Bin) : List Contrib := b.contribs.foldl (fun l c => insertContrib c l) []
/-- The number of lanes that a bin holds. -/
def Bin.size (b : Bin) : Nat := b.args.length + (b.contribs.map fun c => c.lanesIn.length).sum

/-- A bin fires: its group forms and is counted; one without a lane forms none (R186, R190, R324). -/
def fireBin (s : State) (core : Nat) (b : Bin) : State :=
  if b.size = 0 then completeLaunches (removeBin s core b.bix)
  else
    let l := withJob s b.vd b.launch
    countUnit (putBin s core { b with fired := true, launch := l }) b.vd l 0

/-! ### VSPAWN (R187) -/

/-- One lane's deposit, or none when no bin may be opened. -/
def deposit (s : State) (g : Group) (code : Nat) (arg : Word) : Option State :=
  let put := fun (st : State) (b : Bin) =>
    let b1 := { b with args := b.args ++ [(arg, g.rank)] }
    if 96 ≤ b1.args.length then fireBin st g.core b1 else putBin st g.core b1
  match openBin s g.core .spawn g.vd g.launch.lid code with
  | some b => some (put s b)
  | none => (freeBin s g.core g.vd).map fun n => put s (emptyBin s g.core n .spawn g.vd g.launch code g.tracker)

/-- Deposits in ascending lanes, until one must wait: the state, and the lanes that are done. -/
def deposits (s : State) (g : Group) (v : LaneVals) (base : Nat) (done : LaneMask) : List Nat → State × LaneMask × Bool
  | [] => (s, done, true)
  | l :: ls =>
    match deposit s g (base + laneWordAt v.a 0 l) (BitVec.ofNat 32 (laneWordAt v.b 0 l)) with
    | none => (s, done, false)
    | some s1 => deposits s1 g v base (done ||| BitVec.ofNat 96 (2 ^ l)) ls

/-- VSPAWN (R187). Beyond the rule's words: DEDUCED, log entry 30. -/
def execVspawn (l : LaneF) (s : State) : Out :=
  laneIssue 0x0E0 l (fun s x v =>
    let base := l.ext.toNat
    let lanes := maskLanes v.act
    match lanes.find? fun k => x.g.launch.slen ≤ base + laneWordAt v.a 0 k with
    | some k => .fault k 0x02 0 (rangeDetail ((base + laneWordAt v.a 0 k : Nat) : Int) x.g.launch.slen false)
    | none =>
      if lanes = [] then .out s {}
      else if binGrant s x.g.vd = 0 then .fault (lowestLane v.act) 0x0A 0 5
      else
        let left := lanes.filter fun k => !laneBit x.b.served k
        match deposits s x.g v base x.b.served left with
        | (s1, _, true) => .out s1 {}
        | (s1, done, false) =>
          .wait (s1.modGroup x.g.gid fun g => { g with batches := g.batches.map fun (b : Batch) =>
            if b.bid == x.b.bid then { b with served := done } else b }) .none) s

/-! ### REGROUP (R189) -/

/-- What a group brings to a regroup bin: its active lanes with their live registers, predicates and flags. -/
def contribOf (g : Group) (ix live : Nat) : Contrib :=
  let mask := match g.split? ix with
    | some sp => sp.mask
    | none => 0
  { rank := g.rank,
    slot := g.slot,
    lanesIn := (maskLanes mask).map fun l =>
      ((upto live).map fun n => (g.vval n).getD l 0,
       BitVec.ofNat 24 (((upto 24).map fun n => if laneBit (g.preds.getD n 0) l then 2 ^ n else 0).sum),
       g.settleAll.flags.getD l 0),
    sregs := g.sregs.take 16,
    fmt := match g.split? ix with
      | some sp => sp.fmt
      | none => fmtReset }

/-- A contributor joins a bin; the bin fires when the declared count has arrived. -/
def joinBin (s : State) (core : Nat) (b : Bin) (c : Contrib) : State :=
  let b1 := { b with contribs := b.contribs ++ [c], arrivals := b.arrivals + 1 }
  if b1.arrivals = b1.declared then fireBin s core b1 else putBin s core b1

/-- A new regroup bin of a key, where one may be opened: with what the key carries, or with the counts given (R185, R189). -/
def newRegroup (s : State) (g : Group) (code a b : Nat) : State × Option Bin :=
  match freeBin s g.core g.vd with
  | none => (s, none)
  | some n =>
    let nb := emptyBin s g.core n .regroup g.vd g.launch code g.tracker
    match (s.core g.core).carries.find? fun c => c.vd == g.vd && c.launch.lid == g.launch.lid && c.code == code with
    | none => (s, some { nb with declared := a, live := b })
    | some c =>
      (s.modCore g.core fun k => { k with carries := k.carries.filter fun d => d != c },
       some { nb with declared := c.declared, live := c.live, arrivals := c.arrivals })

/-- The bin that a contributor joins: the open one, a new one after the open one has fired for want of room, or a first one;
none while no bin may be opened (R189). -/
def regroupBin (s : State) (g : Group) (code a b lanes : Nat) : State × Option Bin :=
  match openBin s g.core .regroup g.vd g.launch.lid code with
  | some bin =>
    if 96 < bin.size + lanes then
      let c : Carry := { vd := g.vd, launch := g.launch, code := code, declared := bin.declared, live := bin.live,
                         arrivals := bin.arrivals }
      newRegroup ((fireBin s g.core bin).modCore g.core fun k => { k with carries := c :: k.carries }) g code a b
    else (s, some bin)
  | none => newRegroup s g code a b

/-- REGROUP (R189, R468): it gives up the group's slot and retires it as a unit, once its staged window stores are written back
(R279). -/
def execRegroup (a b : BitVec 7) (t : BitVec 2) (s : State) : Out :=
  scalarIssue (.regroup a b t) { reads := [a.toNat, b.toNat], ban := 2 } (fun s x v =>
    let g := x.g
    let na := (v.getD 0 0).toNat
    let nb := (v.getD 1 0).toNat
    let live := g.liveSplits.length
    let resume := x.sp.pc + 1
    if 1 < live then .fault 0x0A 0 (1 + 2 ^ 32 * live)
    else if na = 0 ∨ 96 < na then .fault 0x0A 0 (2 + 2 ^ 32 * na)
    else if g.launch.vregs < nb then .fault 0x0A 0 (3 + 2 ^ 32 * nb)
    else if g.responder ≠ none then .fault 0x0A 0 4
    else if binGrant s g.vd = 0 then .fault 0x0A 0 5
    else if g.launch.slen ≤ resume then .fault 0x02 0 (rangeDetail (resume : Nat) g.launch.slen false)
    else if !laneQuiet x ∨ !groupDrained s g 4 then .hold
    else match s.writebackSome g.vd g.gid with
    | some s1 => .stay s1
    | none =>
      let c := contribOf (g.settleAll) x.ix nb
      match regroupBin s g resume na nb c.lanesIn.length with
      | (s1, none) => if (openBin s g.core .regroup g.vd g.launch.lid resume).isSome then .stay s1 else .hold
      | (s1, some bin) =>
        let c1 := contribOf (g.settleAll) x.ix bin.live
        .over (countRetired (dropGroup (joinBin s1 g.core bin c1) g) g 4)) s

/-! ### Timers and groups of bins (R186, R188, R190, R191) -/

/-- The bin timer value of a device (R186, R354). -/
def binLimit (s : State) (vd : Nat) : Nat := match (s.vd vd).ctx with
  | some c => c.bintimer
  | none => 1024

/-- Does the timer of an open spawn bin run: only while its device is resident (R185, R186). -/
def binRuns (s : State) (core : Nat) (b : Bin) : Bool := b.kind == .spawn && !b.fired && residentOn s core b.vd

/-- The cycle in which a bin's running timer reaches its value (R186). -/
def binEnd (s : State) (b : Bin) : Nat := b.timerAt + (binLimit s b.vd - b.timer)

/-- SPAWN_BIN_TIMER: a bin fires as the cycle ends in which its timer reaches its value, with the deposits made in that cycle
(R186). -/
def execSpawnBinTimer (core bin : Nat) (s : State) : Out :=
  match (s.core core).bins.find? fun b => b.bix == bin with
  | none => .next s
  | some b => if binRuns s core b && decide (binEnd s b < s.now core) then .next (fireBin s core b) else .next s

/-- Lane `k` of a list of words set from the list of a bin's lanes. -/
def laneList (f : Nat → Word) (n : Nat) : List Word := (upto 96).map fun k => if k < n then f k else 0

/-- The group of a spawn bin (R188). -/
def spawnGroup (s : State) (core slot row : Nat) (b : Bin) : Group :=
  let n := b.args.length
  let g := startGroup s core b.vd slot b.launch ((b.args.map (·.2)).headD 0) b.code [BitVec.ofNat 32 n]
    (maskOf fun l => decide (l < n)) fmtReset row
  { g.vset 0 (laneList (fun k => (b.args.map (·.1)).getD k 0) n) with tracker := b.tracker }

/-- The group of a regroup bin (R190). -/
def fusedGroup (s : State) (core slot row : Nat) (b : Bin) : Group :=
  let cs := orderedContribs b
  let lanesIn := cs.flatMap (·.lanesIn)
  let n := lanesIn.length
  let first := cs.head?
  let g := startGroup s core b.vd slot b.launch ((first.map (·.rank)).getD 0) b.code ((first.map (·.sregs)).getD [])
    (maskOf fun l => decide (l < n)) ((first.map (·.fmt)).getD fmtReset) row
  let lane := fun k => lanesIn.getD k ([], 0, 0)
  let g1 := (upto b.live).foldl (fun h r => h.vset r (laneList (fun k => (lane k).1.getD r 0) n)) g
  { g1 with preds := (upto 24).map fun p => maskOf fun l => decide (l < n) && (lane l).2.1.getLsbD p,
            flags := (upto 96).map fun k => if k < n then (lane k).2.2 else 0, tracker := b.tracker }

/-- BIN_GROUP_RESIDENT: a fired bin's group takes a slot; a cancelled launch's retires instead (R191, R325). -/
def execBinGroupResident (core bin : Nat) (s : State) : Out :=
  match (s.core core).bins.find? fun b => b.bix == bin with
  | none => .next s
  | some b =>
    if !b.fired || !hereNow s core b.vd then .next s
    else match freeSlots s core b.vd, freeRows s core b.vd b.launch.vregs with
      | slot :: _, some row =>
        if launchCancelled s b.vd b.launch then
          .next (completeLaunches (countUnit (removeBin s core bin) b.vd b.launch 8))
        else
          let g := if b.kind = .spawn then spawnGroup s core slot row b else fusedGroup s core slot row b
          .next (modTracker (removeBin (addGroup s g) core bin) b.tracker fun r => { r with live := r.live + 1 })
      | _, _ => .next s

end Sys2Proof.Machine
end

