-- ==== Sys2Proof/Machine/Crypto.lean ====
section
/-! DEFINITION. The cryptography of attestation, key release and debug unlock (R420, R421, R424, R425): SHA-384 (FIPS 180-4),
HMAC and HKDF (RFC 2104, RFC 5869), the key unwrap of RFC 3394, and ECDH and ECDSA over the 384-bit Brainpool curve of RFC 5639.
The secrets themselves are constants of Config without a body. -/

namespace Sys2Proof.Machine

/-! ### SHA-384 -/

/-- The constants of rounds 0 to 15 (FIPS 180-4). -/
def shaK0 : List Nat :=
  [0x428A2F98D728AE22, 0x7137449123EF65CD, 0xB5C0FBCFEC4D3B2F, 0xE9B5DBA58189DBBC,
   0x3956C25BF348B538, 0x59F111F1B605D019, 0x923F82A4AF194F9B, 0xAB1C5ED5DA6D8118,
   0xD807AA98A3030242, 0x12835B0145706FBE, 0x243185BE4EE4B28C, 0x550C7DC3D5FFB4E2,
   0x72BE5D74F27B896F, 0x80DEB1FE3B1696B1, 0x9BDC06A725C71235, 0xC19BF174CF692694]
/-- The constants of rounds 16 to 31 (FIPS 180-4). -/
def shaK1 : List Nat :=
  [0xE49B69C19EF14AD2, 0xEFBE4786384F25E3, 0x0FC19DC68B8CD5B5, 0x240CA1CC77AC9C65,
   0x2DE92C6F592B0275, 0x4A7484AA6EA6E483, 0x5CB0A9DCBD41FBD4, 0x76F988DA831153B5,
   0x983E5152EE66DFAB, 0xA831C66D2DB43210, 0xB00327C898FB213F, 0xBF597FC7BEEF0EE4,
   0xC6E00BF33DA88FC2, 0xD5A79147930AA725, 0x06CA6351E003826F, 0x142929670A0E6E70]
/-- The constants of rounds 32 to 47 (FIPS 180-4). -/
def shaK2 : List Nat :=
  [0x27B70A8546D22FFC, 0x2E1B21385C26C926, 0x4D2C6DFC5AC42AED, 0x53380D139D95B3DF,
   0x650A73548BAF63DE, 0x766A0ABB3C77B2A8, 0x81C2C92E47EDAEE6, 0x92722C851482353B,
   0xA2BFE8A14CF10364, 0xA81A664BBC423001, 0xC24B8B70D0F89791, 0xC76C51A30654BE30,
   0xD192E819D6EF5218, 0xD69906245565A910, 0xF40E35855771202A, 0x106AA07032BBD1B8]
/-- The constants of rounds 48 to 63 (FIPS 180-4). -/
def shaK3 : List Nat :=
  [0x19A4C116B8D2D0C8, 0x1E376C085141AB53, 0x2748774CDF8EEB99, 0x34B0BCB5E19B48A8,
   0x391C0CB3C5C95A63, 0x4ED8AA4AE3418ACB, 0x5B9CCA4F7763E373, 0x682E6FF3D6B2B8A3,
   0x748F82EE5DEFB2FC, 0x78A5636F43172F60, 0x84C87814A1F0AB72, 0x8CC702081A6439EC,
   0x90BEFFFA23631E28, 0xA4506CEBDE82BDE9, 0xBEF9A3F7B2C67915, 0xC67178F2E372532B]
/-- The constants of rounds 64 to 79 (FIPS 180-4). -/
def shaK4 : List Nat :=
  [0xCA273ECEEA26619C, 0xD186B8C721C0C207, 0xEADA7DD6CDE0EB1E, 0xF57D4F7FEE6ED178,
   0x06F067AA72176FBA, 0x0A637DC5A2C898A6, 0x113F9804BEF90DAE, 0x1B710B35131C471B,
   0x28DB77F523047D84, 0x32CAAB7B40C72493, 0x3C9EBE0A15C9BEBC, 0x431D67C49C100D4C,
   0x4CC5D4BECB3E42B6, 0x597F299CFC657E2A, 0x5FCB6FAB3AD6FAEC, 0x6C44198C4A475817]
/-- The initial hash value of SHA-384 (FIPS 180-4). -/
def shaInit : List Nat :=
  [0xCBBB9D5DC1059ED8, 0x629A292A367CD507, 0x9159015A3070DD17, 0x152FECD8F70E5939,
   0x67332667FFC00B31, 0x8EB44A8768581511, 0xDB0C2E0D64F98FA7, 0x47B5481DBEFA4FA4]

/-- A right rotation of a 64-bit number. -/
def ror64 (x n : Nat) : Nat := x / 2 ^ n + x % 2 ^ n * 2 ^ (64 - n)

/-- Three numbers XORed. -/
def xor3 (a b c : Nat) : Nat := Nat.xor (Nat.xor a b) c

/-- The message schedule, the newest word first. -/
def shaSchedule : Nat → List Nat → List Nat
  | 0, ws => ws
  | n + 1, ws =>
    let w := fun i => ws.getD i 0
    let s0 := xor3 (ror64 (w 14) 1) (ror64 (w 14) 8) (w 14 / 2 ^ 7)
    let s1 := xor3 (ror64 (w 1) 19) (ror64 (w 1) 61) (w 1 / 2 ^ 6)
    shaSchedule n ((w 15 + s0 + w 6 + s1) % 2 ^ 64 :: ws)

/-- One round on the eight working numbers, with the sum of its constant and its word. -/
def shaRound (v : List Nat) (kw : Nat) : List Nat :=
  match v with
  | [a, b, c, d, e, f, g, h] =>
    let t1 := h + xor3 (ror64 e 14) (ror64 e 18) (ror64 e 41) +
      Nat.xor (Nat.land e f) (Nat.land (2 ^ 64 - 1 - e) g) + kw
    let t2 := xor3 (ror64 a 28) (ror64 a 34) (ror64 a 39) + xor3 (Nat.land a b) (Nat.land a c) (Nat.land b c)
    [(t1 + t2) % 2 ^ 64, a, b, c, (d + t1) % 2 ^ 64, e, f, g]
  | _ => v

/-- A block of 128 bytes taken into the hash value. -/
def shaBlock (hv : List Nat) (block : List Nat) : List Nat :=
  let first := (upto 16).map fun i => beNat ((block.drop (8 * i)).take 8)
  let ws := (shaSchedule 64 first.reverse).reverse
  let ks := shaK0 ++ shaK1 ++ shaK2 ++ shaK3 ++ shaK4
  let v := ((ks.zip ws).map fun p => p.1 + p.2).foldl shaRound hv
  (hv.zip v).map fun p => (p.1 + p.2) % 2 ^ 64

/-- The padded message. -/
def shaPad (bs : List Nat) : List Nat :=
  bs ++ [0x80] ++ List.replicate ((239 - bs.length % 128) % 128) 0 ++ beBytes 16 (8 * bs.length)

/-- SHA-384 over bytes as numbers. -/
def shaOf (bs : List Nat) : List Nat :=
  let m := shaPad bs
  let hv := (upto (m.length / 128)).foldl (fun h i => shaBlock h ((m.drop (128 * i)).take 128)) shaInit
  (hv.take 6).flatMap (beBytes 8)

/-- The bytes of numbers, and the numbers of bytes. -/
def toBytes (l : List Nat) : List Byte := l.map (BitVec.ofNat 8)
def ofBytes (l : List Byte) : List Nat := l.map BitVec.toNat

/-- SHA-384 of a byte string (R420, R421). -/
def sha384 (bs : List Byte) : List Byte := toBytes (shaOf (ofBytes bs))

/-- HMAC with SHA-384. -/
def hmac (key msg : List Nat) : List Nat :=
  let k := if 128 < key.length then shaOf key else key
  let pad := k ++ List.replicate (128 - k.length) 0
  shaOf (pad.map (Nat.xor 0x5C) ++ shaOf (pad.map (Nat.xor 0x36) ++ msg))

/-- HKDF-SHA-384 with salt, input key and info: the first 32 bytes (R424). -/
def hkdf (salt ikm info : List Byte) : List Byte :=
  toBytes ((hmac (hmac (ofBytes salt) (ofBytes ikm)) (ofBytes info ++ [1])).take 32)

/-! ### Key unwrap (RFC 3394) -/

/-- The inverse of the S-box. -/
def sboxInv (a : Nat) : Nat :=
  let rot := fun k => a * 2 ^ k % 256 + a / 2 ^ (8 - k)
  ginv (Nat.xor (xor3 (rot 1) (rot 3) (rot 6)) 0x05)

/-- The inverse of ShiftRows. -/
def shiftRowsInv (st : List Nat) : List Nat := (upto 16).map fun i => st.getD ((i + 16 - 4 * (i % 4)) % 16) 0

/-- The inverse of MixColumns. -/
def mixColumnsInv (st : List Nat) : List Nat :=
  (upto 16).map fun i =>
    let c := i / 4 * 4
    let at_ := fun k => st.getD (c + (i + k) % 4) 0
    Nat.xor (Nat.xor (gmul (at_ 0) 14) (gmul (at_ 1) 11)) (Nat.xor (gmul (at_ 2) 13) (gmul (at_ 3) 9))

/-- The inverse of AES-256 on a block, with the round keys. -/
def aesInv (ks : List (List Nat)) (block : Nat) : Nat :=
  let st0 := xorBytes (beBytes 16 block) (ks.getD 14 [])
  let st := ((ks.drop 1).take 13).reverse.foldl
    (fun s k => mixColumnsInv (xorBytes ((shiftRowsInv s).map sboxInv) k)) st0
  beNat (xorBytes ((shiftRowsInv st).map sboxInv) (ks.headD []))

/-- The steps of an unwrap: the integrity register and the four 64-bit parts, from step `n` down. -/
def unwrapSteps (ks : List (List Nat)) : Nat → Nat × List Nat → Nat × List Nat
  | 0, x => x
  | n + 1, (a, r) =>
    let i := n % 4
    let x := aesInv ks (Nat.xor a (n + 1) * 2 ^ 64 + r.getD i 0)
    unwrapSteps ks n (x / 2 ^ 64, r.set i (x % 2 ^ 64))

/-- RFC 3394 unwrap of a wrapped 256-bit key; none when the integrity check fails (R424). -/
def unwrap (kek wrapped : List Byte) : Option (BitVec 256) :=
  let part := fun i => beNat (ofBytes ((wrapped.drop (8 * i)).take 8))
  let ks := roundKeys (BitVec.ofNat 256 (beNat (ofBytes kek)))
  let x := unwrapSteps ks 24 (part 0, [part 1, part 2, part 3, part 4])
  if x.1 = 0xA6A6A6A6A6A6A6A6 then some (BitVec.ofNat 256 (x.2.foldl (fun n w => n * 2 ^ 64 + w) 0)) else none

/-! ### The curve of R421 (RFC 5639, 384 bits, random parameters) -/

/-- The prime of the field. -/
def curveP : Nat :=
  0x8CB91E82A3386D280F5D6F7E50E641DF152F7109ED5456B412B1DA197FB71123ACD3A729901D1A71874700133107EC53
/-- The coefficients of y^2 = x^3 + a x + b. -/
def curveA : Nat :=
  0x7BC382C63D8C150C3C72080ACE05AFA0C2BEA28E4FB22787139165EFBA91F90F8AA5814A503AD4EB04A8C7DD22CE2826
def curveB : Nat :=
  0x04A8C7DD22CE28268B39B55416F0447C2FB77DE107DCD2A62E880EA53EEB62D57CB4390295DBC9943AB78696FA504C11
/-- The base point. -/
def curveG : Nat × Nat :=
  (0x1D1C64F068CF45FFA2A63A81B7C13F6B8847A3E77EF14FE3DB7FCAFE0CBD10E8E826E03436D646AAEF87B2E247D4AF1E,
   0x8ABE1D7520F9C2A45CB1EB8E95CFD55262B70B29FEEC5864E19C054FF99129280E4646217791811142820341263C5315)
/-- The order of the base point; the cofactor is 1. -/
def curveN : Nat :=
  0x8CB91E82A3386D280F5D6F7E50E641DF152F7109ED5456B31F166E6CAC0425A7CF3AB6AF6B7FC3103B883202E9046565

/-- The steps of the extended Euclidean algorithm: the coefficient of the first number when the second rest is 0. -/
def euclid : Nat → Int → Int → Int → Int → Int
  | 0, _, _, s0, _ => s0
  | fuel + 1, r0, r1, s0, s1 => if r1 = 0 then s0 else euclid fuel r1 (r0 % r1) s1 (s0 - r0 / r1 * s1)

/-- The inverse modulo a prime `m` of less than 385 bits. -/
def invMod (m a : Nat) : Nat := (euclid 600 (a % m) m 1 0 % m).toNat

/-- A point of the curve; none is the point at infinity. -/
abbrev Point := Option (Nat × Nat)

/-- The sum of two points. -/
def pointAdd (u v : Point) : Point :=
  match u, v with
  | none, _ => v
  | _, none => u
  | some (x1, y1), some (x2, y2) =>
    if x1 = x2 ∧ (y1 + y2) % curveP = 0 then none
    else
      let l := if x1 = x2 then (3 * x1 * x1 + curveA) * invMod curveP (2 * y1) % curveP
        else (y2 + curveP - y1) * invMod curveP (x2 + curveP - x1) % curveP
      let x := (l * l + 2 * curveP - x1 - x2) % curveP
      some (x, (l * (x1 + curveP - x) + curveP - y1) % curveP)

/-- A multiple of a point. -/
def pointMul (k : Nat) (u : Point) : Point :=
  (upto 384).foldl (fun acc i =>
    let d := pointAdd acc acc
    if k.testBit (383 - i) then pointAdd d u else d) none

/-- Is a pair of coordinates a point of the curve. -/
def onCurve (x y : Nat) : Bool :=
  decide (x < curveP) && decide (y < curveP) && y * y % curveP == (x * x * x + curveA * x + curveB) % curveP

/-- The 97 bytes of an uncompressed point: 0x04 and the two coordinates, most significant byte first. -/
def pointBytes : Point → List Byte
  | none => []
  | some (x, y) => toBytes (4 :: beBytes 48 x ++ beBytes 48 y)

/-- The point that 97 bytes give; none when they give no point of the curve. -/
def curvePoint (bs : List Byte) : Point :=
  let x := beNat (ofBytes ((bs.drop 1).take 48))
  let y := beNat (ofBytes ((bs.drop 49).take 48))
  if bs.head? = some 4 ∧ onCurve x y then some (x, y) else none

/-- A private key in 1 … n − 1. -/
def scalarOf (k : Nat) : Nat := 1 + k % (curveN - 1)

/-- The key-agreement private key drawn at the n-th cold reset (R424). -/
def agreementScalar (colds : Nat) : Nat := scalarOf (Config.agreementKey colds)

/-- The uncompressed public half of that pair (R421, R424). -/
def agreementPublic (colds : Nat) : List Byte := pointBytes (pointMul (agreementScalar colds) (some curveG))

/-- ECDH of that private key with a public key: the first coordinate of the shared point; none when the public key is not on
the curve (R424). -/
def ecdh (colds : Nat) (epub : List Byte) : Option (List Byte) :=
  match curvePoint epub with
  | none => none
  | some p => match pointMul (agreementScalar colds) (some p) with
    | none => none
    | some (x, _) => some (toBytes (beBytes 48 x))

/-- An ECDSA signature of a message with SHA-384, r and s of 48 bytes, by a private key with a nonce (R421). -/
def ecdsaSign (key nonce : Nat) (msg : List Byte) : List Byte :=
  let r := match pointMul nonce (some curveG) with
    | some (x, _) => x % curveN
    | none => 0
  let z := beNat (ofBytes (sha384 msg))
  toBytes (beBytes 48 r ++ beBytes 48 (invMod curveN nonce * (z + r * key) % curveN))

/-- Is (r, s) a signature of a message with SHA-384 by the key with a public point (R421, R425). -/
def ecdsaVerify (pub : Nat × Nat) (msg : List Byte) (r s : Nat) : Bool :=
  let w := invMod curveN s
  let z := beNat (ofBytes (sha384 msg))
  decide (0 < r) && decide (r < curveN) && decide (0 < s) && decide (s < curveN) &&
    match pointAdd (pointMul (z * w % curveN) (some curveG)) (pointMul (r * w % curveN) (some pub)) with
    | some (x, _) => x % curveN == r
    | none => false

/-- The measurement of firmware image n, 0 to 3, of a cold reset (R420). -/
def measurement (colds n : Nat) : List Byte := sha384 (Config.firmware colds n)

/-- The device's signature over what its answer holds, with the n-th nonce drawn (R421). -/
def attest (n : Nat) (msg : List Byte) : List Byte :=
  ecdsaSign (scalarOf Config.attestKey) (scalarOf (Config.signNonce n)) (Config.spdmSigned msg)

/-- Is a debug token signed by the Switen debug authority: r and s stand at 0x40 and 0x70, little-endian (R4, R425). -/
def debugSigOk (token : List Byte) : Bool :=
  ecdsaVerify Config.debugAuthority (token.take 64) (leNat ((token.drop 64).take 48)) (leNat ((token.drop 112).take 48))

end Sys2Proof.Machine
end

