-- ==== Sys2Proof/Machine/Marks.lean ====
section
/-! DEFINITION. Solicit, marks and census: the mark directory, hand-offs, solicitations, responders and the census (R296 to
R316, R500, R501). -/

namespace Sys2Proof.Machine

/-! ### The directory (R296, R297) -/

/-- Cores of a device's core set. -/
def coresOf (s : State) (vd : Nat) : List Nat := ((s.vd vd).part.map (·.cores)).getD []
/-- The entries of a device on a core. -/
def marksOn (s : State) (core vd : Nat) : List Mark := (s.core core).marks.filter fun m => m.vd == vd
/-- MARKS of a device (R385). -/
def markGrant (s : State) (vd : Nat) : Nat := ((s.vd vd).part.map (·.marks)).getD 0
/-- The entry of a key. -/
def markFind (s : State) (core vd : Nat) (mark base : DWord) : Option Mark :=
  (marksOn s core vd).find? fun m => m.mark == mark && m.base == base
/-- An entry put in or changed; entries stand by ascending index. -/
def insertMark (m : Mark) : List Mark → List Mark
  | [] => [m]
  | k :: l => if m.ix < k.ix then m :: k :: l else if m.ix = k.ix then m :: l else k :: insertMark m l
def putMark (s : State) (core : Nat) (m : Mark) : State := s.modCore core fun k => { k with marks := insertMark m k.marks }
/-- An entry removed. -/
def dropMark (s : State) (core ix : Nat) : State := s.modCore core fun k => { k with marks := k.marks.filter fun m => m.ix != ix }
/-- The lowest free index, if the device has an entry left in its grant. -/
def freeMark (s : State) (core vd : Nat) : Option Nat :=
  if markGrant s vd ≤ (marksOn s core vd).length then none
  else (upto 4096).find? fun n => !((s.core core).marks.any fun m => m.ix == n)

/-- Two words as a 64-bit value, low word first. -/
def pairOf (v : List Word) (i : Nat) : DWord := BitVec.ofNat 64 ((v.getD i 0).toNat + 2 ^ 32 * (v.getD (i + 1) 0).toNat)

/-- The base of a tile as the directory keeps it: a scratchpad tile by its absolute row, under the tag (R297).
Beyond the rule's words: DEDUCED, log entry 29. -/
def keptBase (g : Group) (b : DWord) : DWord := if 2 ^ 63 ≤ b.toNat then b + BitVec.ofNat 64 (384 * g.spBase) else b

/-- The value rejected by the checks of a tile's descriptor (R297, R300). -/
def tileBreach (g : Group) (w0 w1 len d3 : Nat) : Option Nat :=
  if 2 ^ 31 ≤ w1 then
    if w1 ≠ 2 ^ 31 then some w1
    else if w0 % 384 ≠ 0 then some w0
    else if len % 384 ≠ 0 ∨ len = 0 then some len
    else if 384 * g.spRows < w0 + len then some w0
    else if d3 / 2 ^ 16 ≠ 0 then some d3 else none
  else if w1 / 2 ^ 20 ≠ 0 then some w1
  else if len = 0 then some len
  else if d3 / 2 ^ 16 ≠ 0 then some d3
  else none

/-! One cycle's events of a directory come in the order of R315: hand-off messages by sending core, then solicitations, then the
instructions of local groups by slot. -/

/-- The places of solicitations and of instructions in the order of R315, after every sending core. -/
def dirSolicit : Nat := 256
def dirInsn (slot : Nat) : Nat := 512 + slot

/-- Has an event of the core's directory that comes later in the order of R315 happened in the present cycle. -/
def dirLate (s : State) (core place : Nat) : Bool :=
  (s.core core).dirTurn.1 == s.now core && decide (place < (s.core core).dirTurn.2)

/-- A directory event takes place: a message in the next cycle if one that comes after it has happened in this one (R315). -/
def dirTake (s : State) (core place : Nat) : State :=
  let t := if dirLate s core place then s.now core + 1 else s.now core
  s.modCore core fun k => { k with cyc := t, dirTurn := (t, place) }

/-- Must an instruction of the directory wait: for an earlier acquire, or a load before a FENCE.st, since it counts as a store
(R274, R314); or for the next cycle, since a higher slot has acted in this one (R315). -/
def markWaits (s : State) (x : ScIss) : Bool :=
  acqPending s x.g.gid x.g.vd x.ord false || fencedLoad s x.g.gid x.ord || dirLate s x.g.core (dirInsn x.g.slot)

/-- The team that owns the rows a group sees: its own, or that of the tile its responder answers for (R297, R308). -/
def tileOwner (g : Group) : Option Nat := match g.responder with
  | some r => r.team
  | none => g.team

/-- MARKPUT (R300). -/
def execMarkput (a b : BitVec 7) (t : BitVec 2) (s : State) : Out :=
  scalarIssue (.markput a b t) { reads := [a.toNat, a.toNat + 1] ++ (upto 4).map fun i => b.toNat + i } (fun s x v =>
    let g := x.g
    let mark := pairOf v 0
    let base := keptBase g (pairOf v 2)
    let len := (v.getD 4 0).toNat
    let d3 := (v.getD 5 0).toNat
    match tileBreach g (v.getD 2 0).toNat (v.getD 3 0).toNat len d3 with
    | some w => .fault 0x40 0 (1 + 2 ^ 32 * w)
    | none =>
      if g.launch.slen ≤ d3 then .fault 0x02 0 (rangeDetail (d3 : Nat) g.launch.slen false)
      else if markWaits s x then .hold
      else if (markFind s g.core g.vd mark base).isSome then .fault 0x41 0 1
      else match freeMark s g.core g.vd with
        | none => .fault 0x41 0 2
        | some ix =>
          let spad := 2 ^ 63 ≤ base.toNat
          .done (putMark (dirTake s g.core (dirInsn g.slot)) g.core
            { ix := ix, state := .held, vd := g.vd, gen := g.gen, mark := mark, base := base, len := len, resp := d3,
              lid := g.launch.lid, launch := g.launch, answered := [], row := if spad then base.toNat % 2 ^ 63 / 384 else 0,
              team := if spad then tileOwner g else none, move := none })) s

/-- MARKDROP (R301). -/
def execMarkdrop (a b : BitVec 7) (t : BitVec 2) (s : State) : Out :=
  scalarIssue (.markdrop a b t) { reads := [a.toNat, a.toNat + 1, b.toNat, b.toNat + 1] } (fun s x v =>
    if markWaits s x then .hold
    else
      let s1 := dirTake s x.g.core (dirInsn x.g.slot)
      match markFind s x.g.core x.g.vd (pairOf v 0) (keptBase x.g (pairOf v 2)) with
      | none => .done s1
      | some m => if m.state = .held then .done (dropMark s1 x.g.core m.ix) else .hold) s

/-- The pannier entry and the offset that a scratchpad tile's new base names at its target: a peer address of the cluster, in a
pannier of the target that is armed for the device, at a row with room for `len` bytes (R218, R302). -/
def peerTile (s : State) (g : Group) (target len : Nat) (nb : DWord) : Option (Nat × Nat) :=
  match placeBreach nb.toNat, peerBreach s g nb.toNat, placeOf s g nb.toNat with
  | none, none, .peerSp q c off =>
    let pan := panAt s c q
    if c = target ∧ pan.state ≠ .free ∧ pan.vd = g.vd ∧ off % 384 = 0 ∧ off + len ≤ 384 * pan.rows then some (q, off) else none
  | _, _, _ => none

/-- The new base of a moved tile at its receiver: its kept base, first row and team; none if it is not allowed (R302). -/
def movedBase (s : State) (g : Group) (spad : Bool) (target len : Nat) (nb : DWord) : Option (DWord × Nat × Option Nat) :=
  if spad then
    (peerTile s g target len nb).map fun p =>
      let pan := panAt s target p.1
      (BitVec.ofNat 64 (2 ^ 63 + 384 * pan.first + p.2), pan.first + p.2 / 384, pan.team)
  else if nb.toNat / 2 ^ 52 = 0 then some (nb, 0, none)
  else none

/-- MARKMOVE (R302, R303): the entry departs. The new base is checked before the entry is looked for; of a tile without an entry
the length counts as one row. -/
def execMarkmove (d : BitVec 6) (a b : BitVec 7) (t : BitVec 2) (s : State) : Out :=
  scalarIssue (.markmove d a b t)
    { reads := [d.toNat, a.toNat, a.toNat + 1] ++ (upto 4).map fun i => b.toNat + i, ban := 2 } (fun s x v =>
    let g := x.g
    let target := (v.getD 0 0).toNat
    let mark := pairOf v 1
    let old := keptBase g (pairOf v 3)
    if !(coresOf s g.vd).contains target ∨ target = g.core then .fault 0x40 0 (2 + 2 ^ 32 * target)
    else
      let entry := (markFind s g.core g.vd mark old).filter fun m => m.state != .transit
      let len := (entry.map (·.len)).getD 384
      match movedBase s g (decide (2 ^ 63 ≤ old.toNat)) target len (pairOf v 5), entry with
      | none, _ => .fault 0x40 0 (3 + 2 ^ 32 * (v.getD 5 0).toNat)
      | some _, none => .fault 0x41 0 3
      | some (nb, row, team), some m =>
        if m.state ≠ .held ∨ 255 ≤ g.wcGet 3 ∨ markWaits s x then .hold
        else
          let id := s.fresh
          let moved := { m with base := nb, row := row, team := team, state := .arriving, move := some id : Mark }
          let mv : Move := { id := id, vd := g.vd, gen := g.gen, gid := g.gid, src := g.core, dst := target, srcIx := m.ix,
                             entry := moved, stage := .installing, late := [], waiting := [], forwards := [], op := id }
          let s1 := putMark { dirTake s g.core (dirInsn g.slot) with fresh := s.fresh + 1, moves := s.moves ++ [mv] } g.core
            { m with state := .transit, move := some id }
          .done (startOp s1 g.gid 3 1 (x.opRec id))) s

/-! ### Solicitations (R304) -/

/-- The cores that a scope of SOLICIT reaches from a core (R299). -/
def coresReached (s : State) (vd core scope : Nat) : List Nat :=
  (coresOf s vd).filter fun c => match scope with
    | 0 => c / 12 == core / 12
    | 1 => c / 36 == core / 36
    | _ => true

/-- The identity of an operation (R299). -/
def censusIdentity (op : Nat) : DWord := if op = 2 then 0x7FFFFFFFFFFFFFFF else if op = 3 then 0x8000000000000000 else 0
/-- The combination of two values (R299). -/
def censusCombine (op : Nat) (x y : DWord) : DWord :=
  match op with
  | 1 => x + y
  | 2 => if x.slt y then x else y
  | 3 => if x.slt y then y else x
  | 4 => x ||| y
  | _ => 0

/-- CENSUS entries granted to a device (R385). -/
def censusGrant (s : State) (vd : Nat) : Nat := ((s.vd vd).part.map (·.census)).getD 0
/-- A free entry of a core's census table within the device's grant (R304). -/
def freeCensus (s : State) (core vd : Nat) : Option Nat :=
  let here := s.solicits.filter fun x => x.core == core
  if censusGrant s vd ≤ (here.filter fun x => x.vd == vd).length then none
  else (upto 16).find? fun n => !(here.any fun x => x.ix == n)

/-- The token of a solicitation (R304). -/
def Solicit.token (x : Solicit) : Nat := 2 ^ 16 * x.seq + 2 ^ 8 * x.core + x.ix

/-- SOLICIT (R304). -/
def execSolicit (d : BitVec 6) (a b : BitVec 7) (f : BitVec 4) (t : BitVec 2) (s : State) : Out :=
  scalarIssue (.solicit d a b f t) { reads := [a.toNat, a.toNat + 1, b.toNat], writes := [(0x02, d.toNat)] } (fun s x v =>
    let g := x.g
    let op := f.toNat / 3
    let scope := f.toNat % 3
    if censusGrant s g.vd = 0 then .fault 0x43 0 3
    else if !laneQuiet x ∨ !fenceReady s g.gid x.ix (scope + 2) 0 x.seq then .hold
    else match freeCensus s g.core g.vd with
      | none => .hold
      | some ix =>
        let seq := ((s.core g.core).censusSeq + 1) % 2 ^ 16
        let cores := coresReached s g.vd g.core scope
        let q : Solicit := { sid := s.fresh, vd := g.vd, gen := g.gen, gid := g.gid, core := g.core, ix := ix, seq := seq,
                             op := op, scope := scope, mark := pairOf v 0, arg := v.getD 2 0, arriving := cores, stuck := [],
                             reported := 0, cores := cores.length, balance := 0, count := 0, value := censusIdentity op,
                             complete := false, named := none, orphan := false }
        let s1 := { s with fresh := s.fresh + 1, solicits := s.solicits ++ [q] }.modCore g.core fun k =>
          { k with censusSeq := seq }
        .done (s1.modGroup g.gid fun h =>
          (h.modSplit x.ix fun sp => { sp with vsyncSeq := x.seq }).sset x.ix d.toNat (BitVec.ofNat 32 q.token))) s

/-! ### Responder records (R308, R501) -/

/-- A record of a responder put into a responder bin of the device, or none when no bin can take it. -/
def putResponder (s : State) (core vd : Nat) (r : RespRec) : Option State :=
  let done := fun (st : State) (b : Bin) => countUnit (putBin { st with fresh := st.fresh + 1 } core
    { b with records := b.records ++ [{ r with seq := st.fresh }] }) vd r.launch 0
  match (s.core core).bins.find? fun b => b.kind == .responder && b.vd == vd && decide (b.records.length < 96) with
  | some b => some (done s b)
  | none => (freeBin s core vd).map fun n => done s (emptyBin s core n .responder vd r.launch 0 none)

/-- A message of the census network: a report of obligations, or a discharge, which counts in N when a responder completed or
none could ever run (R306, R310, R501). -/
def sendReport (s : State) (x : Solicit) (report : Option Nat) (value : Option DWord) (counts : Bool) : State :=
  let r : Report := { id := s.fresh, sid := x.sid, gen := x.gen, vd := x.vd, report := report, value := value, counts := counts }
  { s with fresh := s.fresh + 1, reports := s.reports ++ [r] }

/-- A responder for an entry: spawned as a record; where the device has no bin it is discharged at once (R308, R501). -/
def answer (s : State) (core : Nat) (x : Solicit) (m : Mark) : Option State :=
  if binGrant s x.vd = 0 then some (sendReport s x none none true)
  else putResponder s core x.vd
    { seq := 0, sid := x.sid, base := m.base, len := m.len, arg := x.arg, mark := x.mark, asker := x.core, entry := m.resp,
      launch := withJob s x.vd m.launch, row := m.row, team := m.team }

/-- A solicitation changed. -/
def modSolicit (s : State) (sid : Nat) (f : Solicit → Solicit) : State :=
  { s with solicits := s.solicits.map fun x => if x.sid == sid then f x else x }

/-- A move changed. -/
def modMove (s : State) (id : Nat) (f : Move → Move) : State :=
  { s with moves := s.moves.map fun m => if m.id == id then f m else m }

/-- The resolution of a solicitation over the remaining entries, with the obligations so far: it ends, or waits on an entry
(R305). -/
def resolveOver (x : Solicit) (core : Nat) : State → Nat → List Mark → State × Nat × Option Nat
  | s, b, [] => (s, b, none)
  | s, b, m :: ms =>
    match m.state with
    | .held =>
      if m.answered.contains x.sid then resolveOver x core s b ms
      else match answer s core x m with
        | none => (s, b, some m.ix)
        | some s1 => resolveOver x core (putMark s1 core { m with answered := m.answered ++ [x.sid] }) (b + 1) ms
    | .arriving => (s, b, some m.ix)
    | .transit =>
      (match m.move with
       | some id => modMove s id fun mv => { mv with waiting := if mv.waiting.contains x.sid then mv.waiting else mv.waiting ++ [x.sid] }
       | none => s, b, some m.ix)

/-- SOLICIT_RESOLVE of the solicitation id / 256 at core id mod 256 (R305). -/
def execSolicitResolve (id : Nat) (s : State) : Out :=
  let core := id % 256
  match s.solicits.find? fun x => x.sid == id / 256 with
  | none => .next s
  | some x =>
    let behind := s.solicits.any fun y => y.sid != x.sid && y.vd == x.vd && y.stuck.any fun k => k.1 == core
    if !x.arriving.contains core || behind then .next s
    else
      let s := dirTake s core dirSolicit
      let (from_, b0) := match x.stuck.find? fun k => k.1 == core with
        | some k => (k.2.1, k.2.2)
        | none => (0, 0)
      let es := (marksOn s core x.vd).filter fun m => m.mark == x.mark && decide (from_ ≤ m.ix)
      match resolveOver x core s b0 es with
      | (s1, b, some ix) =>
        .next (modSolicit s1 x.sid fun y => { y with stuck := (core, ix, b) :: y.stuck.filter fun k => k.1 != core })
      | (s1, b, none) =>
        let late := keyGet 0 (s1.core core).departures x.sid
        let s2 := s1.modCore core fun k => { k with departures := k.departures.filter fun p => p.1 != x.sid }
        let s3 := modSolicit s2 x.sid fun y =>
          { y with arriving := y.arriving.filter (· != core), stuck := y.stuck.filter fun k => k.1 != core }
        .next (sendReport s3 x (some (b + late)) none false)

/-! ### Hand-offs (R303, R306, R307) -/

/-- Has a core resolved a solicitation as far as an index of its directory: in full, or past it (R305, R307, R313). -/
def resolvedPast (x : Solicit) (core ix : Nat) : Bool :=
  !x.arriving.contains core || x.stuck.any fun k => k.1 == core && decide (ix < k.2.1)

/-- The open solicitations that a receiver answers late (R307). -/
def lateFor (s : State) (mv : Move) (m : Mark) : List Solicit :=
  s.solicits.filter fun x => x.vd == mv.vd && x.mark == m.mark && !x.complete && resolvedPast x mv.dst m.ix &&
    !m.answered.contains x.sid && (coresReached s x.vd x.core x.scope).contains mv.src &&
    (coresReached s x.vd x.core x.scope).contains mv.dst

/-- Late answers, one after another; the ones that no bin can take are left. -/
def answerLate (mv : Move) : State → List Solicit → State × Bool
  | s, [] => (s, true)
  | s, x :: xs =>
    match (s.core mv.dst).marks.find? fun m => m.move == some mv.id with
    | none => (s, true)
    | some m =>
      match answer s mv.dst x m with
      | none => (s, false)
      | some s1 =>
        answerLate mv (modMove (putMark s1 mv.dst { m with answered := m.answered ++ [x.sid] }) mv.id fun k =>
          { k with late := k.late ++ [x.sid] }) xs

/-- MOVE_INSTALL (R303 step 2, R307). -/
def execMoveInstall (id : Nat) (s : State) : Out :=
  match s.moves.find? fun m => m.id == id with
  | none => .next s
  | some mv =>
    if mv.stage ≠ .installing then .next s
    else
      let s := dirTake s mv.dst mv.src
      let there := (s.core mv.dst).marks.any fun m => m.move == some id
      let placed : Option State :=
        if there then some s
        else if (markFind s mv.dst mv.vd mv.entry.mark mv.entry.base).isSome then none
        else (freeMark s mv.dst mv.vd).map fun ix => putMark s mv.dst { mv.entry with ix := ix }
      match placed with
      | none => .next s
      | some s1 =>
        match (s1.core mv.dst).marks.find? fun m => m.move == some id with
        | none => .next s1
        | some m =>
          match answerLate mv s1 (lateFor s1 mv m) with
          | (s2, true) => .next (modMove s2 id fun k => { k with stage := .acking })
          | (s2, false) => .next s2

/-- MOVE_ACK (R303 step 3, R306, R307): the sender settles what waits, counts the late answers, and frees its entry. -/
def execMoveAck (id : Nat) (s : State) : Out :=
  match s.moves.find? fun m => m.id == id with
  | none => .next s
  | some mv =>
    if mv.stage ≠ .acking then .next s
    else
      let s := dirTake s mv.src mv.dst
      let settle := fun (st : State) (sid : Nat) => modSolicit st sid fun y =>
        { y with stuck := y.stuck.map fun k => if k.1 == mv.src && k.2.1 == mv.srcIx then (k.1, k.2.1 + 1, k.2.2 + 1) else k }
      let s1 := mv.waiting.foldl settle s
      let unresolved := mv.late.filter fun sid => !mv.waiting.contains sid && s.solicits.any fun x =>
        x.sid == sid && x.arriving.contains mv.src
      let s2 := s1.modCore mv.src fun k => { k with
        departures := unresolved.foldl (fun l sid => keySet l sid (keyGet 0 l sid + 1)) k.departures,
        marks := k.marks.filter fun m => m.move != some id }
      let s3 := modMove s2 id fun k =>
        { k with stage := .releasing, forwards := mv.waiting.filter (fun sid => !mv.late.contains sid), waiting := [] }
      .next (opDone s3 mv.op 1)

/-- MOVE_FORWARD (R306): the first forward on the path reaches the arriving entry. -/
def execMoveForward (id : Nat) (s : State) : Out :=
  match s.moves.find? fun m => m.id == id with
  | none => .next s
  | some mv =>
    match mv.stage, mv.forwards with
    | .releasing, sid :: rest =>
      let s := dirTake s mv.dst mv.src
      let s1 := modMove s id fun k => { k with forwards := rest }
      match s.solicits.find? fun x => x.sid == sid, (s.core mv.dst).marks.find? fun m => m.move == some id with
      | some x, some m =>
        if m.answered.contains sid then .next (sendReport s1 x none none false)
        else match answer s1 mv.dst x m with
          | none => .next s
          | some s2 => .next (putMark s2 mv.dst { m with answered := m.answered ++ [sid] })
      | some x, none => .next (sendReport s1 x none none false)
      | none, _ => .next s1
    | _, _ => .next s

/-- MOVE_RELEASE (R303 step 4): after the forwards the entry is held. -/
def execMoveRelease (id : Nat) (s : State) : Out :=
  match s.moves.find? fun m => m.id == id with
  | none => .next s
  | some mv =>
    if mv.stage ≠ .releasing ∨ mv.forwards ≠ [] then .next s
    else
      let s := dirTake s mv.dst mv.src
      let hold := fun (m : Mark) => if m.move == some id then { m with state := .held, move := none } else m
      let s1 := s.modCore mv.dst fun k => { k with marks := k.marks.map hold }
      .next { s1 with moves := s1.moves.filter (fun m => m.id != id) }

/-! ### Census (R310 to R312) -/

/-- A complete census is written to its asker, or freed with an asker that is gone (R311, R312). -/
def finishCensus (s : State) (sid : Nat) : State :=
  let free := fun (st : State) => { st with solicits := st.solicits.filter fun y => y.sid != sid }
  match s.solicits.find? fun x => x.sid == sid with
  | none => s
  | some x =>
    if !x.complete then s
    else if x.orphan then free s
    else match x.named, s.group? x.gid with
      | some (ix, born, n), some g =>
        if (g.status = .running ∨ g.status = .faulting ∨ g.status = .trapped) ∧ residentOn s g.core g.vd then
          let v := if x.op = 0 then BitVec.ofNat 64 x.count else x.value
          let ws := [(n, BitVec.ofNat 32 v.toNat), (n + 1, BitVec.ofNat 32 (v.toNat / 2 ^ 32)), (n + 2, BitVec.ofNat 32 x.count)]
          free (s.modGroup x.gid fun h => ws.foldl (fun k w => k.deliver ix born w.1 w.2) h)
        else s
      | _, _ => s

/-- CENSUS (R311). -/
def execCensus (d : BitVec 6) (a : BitVec 7) (t : BitVec 2) (s : State) : Out :=
  scalarIssue (.census d a t)
    { reads := [a.toNat], writes := (upto 3).map fun i => (0x02, d.toNat + i) } (fun s x v =>
    let token := (v.getD 0 0).toNat
    match s.solicits.find? fun q => q.token == token - 16 * bitsOf token 4 4 && q.gid == x.g.gid && q.named == none with
    | none => .fault 0x42 0 token
    | some q =>
      let s1 := modSolicit s q.sid fun y => { y with named := some (x.ix, x.sp.born, d.toNat) }
      let s2 := s1.modGroup x.g.gid fun g => { g with locks := g.locks ++ (upto 3).map fun i => (x.ix, d.toNat + i) }
      .done (finishCensus s2 q.sid)) s

/-- CENSUS_REPORT: a report or a discharge reaches the census entry (R310). -/
def execCensusReport (id : Nat) (s : State) : Out :=
  match s.reports.find? fun r => r.id == id with
  | none => .next s
  | some r =>
    let s1 := { s with reports := s.reports.filter fun k => k.id != id }
    let s2 := modSolicit s1 r.sid fun x =>
      let y := match r.report with
        | some b => { x with reported := x.reported + 1, balance := x.balance + (b : Nat) }
        | none => { x with balance := x.balance - 1, count := (x.count + if r.counts then 1 else 0) % 2 ^ 32,
                           value := censusCombine x.op x.value (r.value.getD (censusIdentity x.op)) }
      { y with complete := x.complete || (y.reported == y.cores && y.balance == 0) }
    .next (finishCensus s2 r.sid)

/-! ### Responders (R308, R309) -/

/-- The pending record of a device on a core that was spawned first, with its bin. -/
def firstRecord (s : State) (core vd : Nat) : Option (Bin × RespRec) :=
  (((s.core core).bins.filter fun b => b.kind == .responder && b.vd == vd).flatMap fun b =>
    b.records.map fun r => (b, r)).foldl (fun (m : Option (Bin × RespRec)) p => match m with
      | some q => if p.2.seq < q.2.seq then some p else some q
      | none => some p) none

/-- RESPONDER_START (R308). -/
def execResponderStart (core vd : Nat) (s : State) : Out :=
  if !hereNow s core vd then .next s
  else
    match firstRecord s core vd with
    | none => .next s
    | some (b, r) =>
      match freeSlots s core vd, freeRows s core vd r.launch.vregs with
      | slot :: _, some row =>
        let spad := 2 ^ 63 ≤ r.base.toNat
        let base : DWord := if spad then 0x8000000000000000 else r.base
        let sregs := [0, 0, 0, 1] ++ dwords base ++ [BitVec.ofNat 32 r.len, r.arg] ++ dwords r.mark ++
          [BitVec.ofNat 32 r.asker]
        let g := startGroup s core vd slot r.launch 0 r.entry sregs (~~~(0 : LaneMask)) fmtReset row
        let g1 := { g with responder := some { sid := r.sid, sent := none, team := r.team },
                           spBase := if spad then r.row else 0, spRows := if spad then r.len / 384 else 0 }
        let left := b.records.filter fun k => k.seq != r.seq
        let s2 := if left = [] then removeBin s core b.bix else putBin s core { b with records := left }
        .next (addGroup s2 g1)
      | _, _ => .next s

/-- RESPOND (R309). -/
def execRespond (a : BitVec 7) (t : BitVec 2) (s : State) : Out :=
  scalarIssue (.respond a t) { reads := [a.toNat, a.toNat + 1], ban := 2 } (fun s x v =>
    match x.g.responder with
    | none => .fault 0x43 0 1
    | some r =>
      if r.sent ≠ none then .fault 0x43 0 2
      else if !laneQuiet x then .hold
      else .done (s.modGroup x.g.gid fun g => { g with responder := some { r with sent := some (pairOf v 0) } })) s

/-- A responder's obligation is discharged with its value, or the identity (R309, R500). -/
def discharge (s : State) (r : Responder) (value : Option DWord) : State :=
  match s.solicits.find? fun x => x.sid == r.sid with
  | none => s
  | some x => sendReport s x none value true

/-- RESPONDER_COMPLETE: a responder retires (R309, R324). -/
def execResponderComplete (gid : Nat) (s : State) : Out :=
  match s.group? gid with
  | none => .next s
  | some g =>
    match g.responder with
    | none => .next s
    | some r =>
      if g.status ≠ .running ∨ g.liveSplits ≠ [] ∨ g.handler ≠ none ∨ !groupDrained s g 4 then .next s
      else match s.writebackSome g.vd gid with
        | some s1 => .next s1
        | none => .next (discharge (countRetired (dropGroup s g) g 4) r r.sent)

end Sys2Proof.Machine
end

