-- ==== Sys2Proof/Machine/Tasks.lean ====
section
/-! DEFINITION. Queues, records and placement: launch, task and fence records with their faults (R317 to R322, R497, R498,
R509), placement by the front end (R330, R331), QPUSH, CANCEL and CTRRD (R325, R326, R328), and the courier with its depots
(R229, R329). -/

namespace Sys2Proof.Machine

/-! ### Reading records (R322, R497) -/

/-- A record fault: code, byte offset of the field, which record (0 queue record, 1 launch record, 2 context), the value
found, and the address outside the mappings for code 5. -/
structure RecFault where
  code : Nat
  off : Nat
  which : Nat
  value : Nat
  addr : Option Nat := none
  deriving DecidableEq, Repr

/-- The first address of `n` bytes that lies outside a device's mappings. -/
def firstOutside (s : State) (vd va n : Nat) : Option Nat :=
  if n = 0 then none
  else ((upto (n / 65536 + 2)).map fun i => if i = 0 then va else (va / 65536 + i) * 65536).find? fun a =>
    decide (a < va + n) && (hubPlace s vd a).isNone

/-- A record names bytes: a fault of code 5 if one lies outside the mappings. -/
def outsideFault (s : State) (vd va n off which : Nat) : Option RecFault :=
  (firstOutside s vd va n).map fun a => { code := 5, off := off, which := which, value := a / 2 ^ 32, addr := some a }

/-- The first check of a list that fails. -/
def firstFault : List (Bool × RecFault) → Option RecFault
  | [] => none
  | (bad, f) :: l => if bad then some f else firstFault l

/-- Where the image descriptor of a launch record stands (R509). -/
def imageAt (kc : Nat) : Nat := (0x40 + 4 * kc + 7) / 8 * 8

/-- The checks of a launch record by its own words (R317, R509), as offsets from its start. -/
def launchChecks (w : Nat → Nat → Nat) : List (Bool × RecFault) :=
  let bad := fun (off : Nat) (b : Bool) => (b, ({ code := 4, off := off, which := 1, value := w off 4 } : RecFault))
  let slen := w 0x10 4
  let kc := bitsOf (w 0x20 4) 20 7
  [bad 0 (w 0 8 % 128 != 0), bad 8 (w 0x14 4 != 0 && w 8 8 % 128 != 0), bad 0x10 (slen == 0 || decide (2 ^ 20 < slen)),
   bad 0x14 (decide (2 ^ 20 < w 0x14 4)),
   bad 0x1C (bitsOf (w 0x1C 4) 28 3 != 0 || decide (slen ≤ bitsOf (w 0x1C 4) 0 20)),
   bad 0x20 (bitsOf (w 0x20 4) 27 5 != 0 || decide (64 < kc) ||
     (bitsOf (w 0x20 4) 0 20 + 1) % (bitsOf (w 0x1C 4) 20 3 + 1) != 0),
   bad 0x24 (bitsOf (w 0x24 4) 27 5 != 0 || decide (4096 < bitsOf (w 0x24 4) 14 13) || decide (8192 < bitsOf (w 0x24 4) 0 14)),
   bad 0x28 (w 0x28 8 % 16 != 0), bad 0x30 (w 0x30 8 % 16 != 0), bad 0x38 (w 0x38 8 % 16 != 0)]

/-- The checks of the image descriptor (R509). -/
def imageChecks (w : Nat → Nat → Nat) : List (Bool × RecFault) :=
  let d := imageAt (bitsOf (w 0x20 4) 20 7)
  let bad := fun (off : Nat) (b : Bool) => (b, ({ code := 4, off := d + off, which := 1, value := w (d + off) 4 } : RecFault))
  let n := w (d + 8) 4
  [bad 0 (w d 8 % 16 != 0), bad 8 (n == 0 || n % 16 != 0),
   bad 12 (bitsOf (w (d + 12) 4) 13 19 != 0 ||
     decide (384 * bitsOf (w 0x24 4) 0 14 < 384 * bitsOf (w (d + 12) 4) 0 13 + n))]

/-- The launch that a record's words give. -/
def launchOf (w : Nat → Nat → Nat) : Launch where
  lid := BitVec.ofNat 32 (w 0x18 4)
  scode := w 0 8
  lcode := w 8 8
  slen := w 0x10 4
  llen := w 0x14 4
  vregs := 8 * (bitsOf (w 0x1C 4) 23 5 + 1)
  team := bitsOf (w 0x1C 4) 20 3 + 1
  groups := bitsOf (w 0x20 4) 0 20 + 1
  entry := bitsOf (w 0x1C 4) 0 20
  consts := (upto (bitsOf (w 0x20 4) 20 7)).map fun i => BitVec.ofNat 32 (w (0x40 + 4 * i) 4)
  sprows := bitsOf (w 0x24 4) 0 14
  accrows := bitsOf (w 0x24 4) 14 13
  lctr := w 0x28 8
  gctr := w 0x30 8
  pctr := w 0x38 8
  jctr := 0
  image :=
    let d := imageAt (bitsOf (w 0x20 4) 20 7)
    if bitsOf (w 0x1C 4) 31 1 = 1 then some (w d 8, w (d + 8) 4, bitsOf (w (d + 12) 4) 0 13) else none

/-- The check of JOBCTR as a unit is dispatched (R322, R354, R497). -/
def jobFault (s : State) (vd : Nat) : Option RecFault :=
  let j := jobCtr s vd
  if j % 16 ≠ 0 then some { code := 6, off := 0x50, which := 2, value := j }
  else if j = 0 then none
  else outsideFault s vd j 16 0x50 2

/-- A launch record read for a queue record: its words, then what it names (R317, R322, R509). -/
def readLaunch (s : State) (vd addr : Nat) : Except RecFault Launch :=
  match outsideFault s vd addr 64 8 0 with
  | some f => .error f
  | none =>
    let w := fun off n => hubNat s vd (addr + off) n
    match firstFault (launchChecks w) with
    | some f => .error f
    | none =>
      let l := launchOf w
      let kc := l.consts.length
      let d := imageAt kc
      let spi := l.image.isSome
      let named : List (Option RecFault) :=
        [outsideFault s vd (addr + 0x40) (4 * kc) 0x20 1,
         if spi then outsideFault s vd (addr + d) 16 0x1C 1 else none,
         if spi then firstFault (imageChecks w) else none,
         match l.image with
         | some i => outsideFault s vd i.1 i.2.1 d 1
         | none => none,
         outsideFault s vd l.scode (4 * l.slen) 0 1,
         outsideFault s vd l.lcode (12 * l.llen) 8 1,
         if l.lctr = 0 then none else outsideFault s vd l.lctr 16 0x28 1,
         if l.gctr = 0 then none else outsideFault s vd l.gctr 16 0x30 1,
         if l.pctr = 0 then none else outsideFault s vd l.pctr 16 0x38 1]
      match named.findSome? id with
      | some f => .error f
      | none => .ok l

/-- A launch of which nothing is known. -/
def nullLaunch : Launch where
  lid := 0
  scode := 0
  lcode := 0
  slen := 0
  llen := 0
  vregs := 0
  team := 1
  groups := 0
  entry := 0
  consts := []
  sprows := 0
  accrows := 0
  lctr := 0
  gctr := 0
  pctr := 0
  jctr := 0
  image := none

/-- A parsed record with nothing in it. -/
def emptyParsed (pos kind : Nat) : Parsed where
  pos := pos
  kind := kind
  cancelled := false
  launch := nullLaunch
  index := 0
  arg := 0
  tile := 0
  succ := 0
  entry := 0
  counters := []
  placed := 0
  tracker := none

/-- Words that must be zero: the first that is not. -/
def zeroFault (w : Nat → Nat → Nat) (offs : List Nat) : Option RecFault :=
  (offs.find? fun o => w o 4 != 0).map fun o => { code := 2, off := o, which := 0, value := w o 4 }

/-- The offsets of the words from byte `lo` to byte `hi`. -/
def wordsFrom (lo hi : Nat) : List Nat := (upto ((hi - lo) / 4)).map fun i => lo + 4 * i

/-- A fence record (R321). -/
def parseFence (pos : Nat) (w : Nat → Nat → Nat) : Except RecFault Parsed :=
  let n := w 4 4 % 16
  let base := w 8 8
  if w 4 4 / 16 ≠ 0 ∨ n = 0 ∨ 12 < n then .error { code := 2, off := 4, which := 0, value := w 4 4 }
  else if base % 4 ≠ 0 then .error { code := 6, off := 8, which := 0, value := base }
  else match zeroFault w (wordsFrom (0x10 + 4 * n) 0x40) with
    | some f => .error f
    | none => .ok { emptyParsed pos 3 with counters := (upto n).map fun j =>
        (base + 4 * bitsOf (w (0x10 + 4 * j) 4) 20 12, bitsOf (w (0x10 + 4 * j) 4) 0 20) }

/-- A task record or a launch entry (R319, R320). -/
def parseUnits (s : State) (vd pos kind : Nat) (w : Nat → Nat → Nat) : Except RecFault Parsed :=
  let zeros := if kind = 1 then wordsFrom 0x30 0x40 else 4 :: wordsFrom 0x10 0x20 ++ wordsFrom 0x2C 0x40
  let w2c := w 0x2C 4
  let start := firstFault
    [(kind == 1 && bitsOf w2c 20 11 != 0, { code := 2, off := 0x2C, which := 0, value := w2c }),
     (w 8 8 % 64 != 0, { code := 6, off := 8, which := 0, value := w 8 8 }),
     (w 0x20 8 % 4 != 0, { code := 6, off := 0x20, which := 0, value := w 0x20 8 })]
  match (zeroFault w zeros).or start with
  | some f => .error f
  | none =>
    match readLaunch s vd (w 8 8) with
    | .error f => .error f
    | .ok l =>
      let use := kind = 1 ∧ bitsOf w2c 31 1 = 1
      if w 0x28 4 ≠ l.lid.toNat then .error { code := 3, off := 0x28, which := 0, value := w 0x28 4 }
      else if use ∧ l.slen ≤ bitsOf w2c 0 20 then .error { code := 2, off := 0x2C, which := 0, value := w2c }
      else match if w 0x20 8 = 0 then none else outsideFault s vd (w 0x20 8) 4 0x20 0 with
        | some f => .error f
        | none => .ok { emptyParsed pos kind with
            launch := l
            index := w 4 4
            arg := BitVec.ofNat 64 (w 0x10 8)
            tile := BitVec.ofNat 64 (w 0x18 8)
            succ := w 0x20 8
            entry := if use then bitsOf w2c 0 20 else l.entry }

/-- What a record holds: its fault, or the record; with CXL set a record of a valid KIND retires as cancelled whatever else
it holds (R318, R322, R497). -/
def parseRecord (s : State) (vd pos : Nat) (w : Nat → Nat → Nat) : Except RecFault Parsed :=
  let head := w 0 4
  let kind := head / 2 ^ 28
  let cxl := head % 2 = 1
  if kind = 0 ∨ 3 < kind then .error { code := 1, off := 0, which := 0, value := head }
  else
    let whole := if head / 2 % 2 ^ 27 ≠ 0 then .error { code := 2, off := 0, which := 0, value := head }
      else if kind = 3 then parseFence pos w else parseUnits s vd pos kind w
    if !cxl then whole
    else match whole with
      | .ok p => .ok { p with cancelled := true }
      | .error _ =>
        let l := if w 8 8 % 64 = 0 ∧ kind ≠ 3 then match readLaunch s vd (w 8 8) with
            | .ok l => l
            | .error _ => nullLaunch
          else nullLaunch
        .ok { emptyParsed pos kind with
          cancelled := true
          launch := l
          succ := if kind ≠ 3 ∧ w 0x20 8 % 4 = 0 then w 0x20 8 else 0 }

/-! ### Queues -/

/-- A queue of a device. -/
def queueOf (s : State) (vd q : Nat) : Option Queue := (s.vd vd).queues.find? fun k => k.q == q
/-- A queue changed. -/
def modQueue (s : State) (vd q : Nat) (f : Queue → Queue) : State :=
  s.modVd vd fun d => { d with queues := d.queues.map fun k => if k.q == q then f k else k }
/-- Records of a queue's ring. -/
def Queue.size (q : Queue) : Nat := 2 ^ q.logsz
/-- The address of the record at a position (R327). -/
def Queue.at_ (q : Queue) (pos : Nat) : Nat := q.base + 64 * (pos % q.size)
/-- Has a record fault stopped the queue (R497). -/
def queueStopped (s : State) (vd q : Nat) : Bool := s.hub.stops.any fun x => x.1 == vd && x.2.1 == q
/-- Does the front end work for a device: it is not fenced and no reset of it is under way (R454, R487). -/
def deviceWorks (s : State) (vd : Nat) : Bool := !(s.vd vd).fenced && (s.vd vd).resetting.isNone

/-- A record fault stops its queue at the record and is posted (R322, R497). -/
def stopQueue (s : State) (vd : Nat) (q : Queue) (pos : Nat) (f : RecFault) : State :=
  let key := match hubPlace s vd (q.at_ pos) with
    | some l => l.key
    | none => 2 ^ 200
  let r : RingRec := { type := 4, code := f.code, vd := vd, gen := (s.vd vd).gen, spc := q.q, w14 := pos % 2 ^ 20,
                       addr := f.addr.getD (q.at_ pos), detail := f.off + 2 ^ 12 * f.which + 2 ^ 32 * (f.value % 2 ^ 32) }
  postMirrored (s.modHub fun h => { h with stops := (vd, q.q, key) :: h.stops }) vd stRecord r

/-- A tracker of a launch entry put in place, or of one whose units are all cancelled (R324). -/
def addTracker (s : State) (vd : Nat) (l : Launch) (succ : Nat) (allPlaced : Bool) (program : Option Nat) : State :=
  let t : Tracker := { tid := s.fresh, vd := vd, gen := (s.vd vd).gen, lid := l.lid, lctr := l.lctr, succ := succ,
                       allPlaced := allPlaced, live := 0, program := program }
  { s with fresh := s.fresh + 1, trackers := s.trackers ++ [t] }

/-- The units of a parsed record that never ran retire as cancelled (R324, R325). -/
def cancelRecord (s : State) (vd : Nat) (p : Parsed) : State :=
  let l := p.launch
  if p.kind = 1 then
    if l.groups = 0 then hubAdd s vd p.succ 1
    else (upto l.team).foldl (fun st _ => cancelUnplaced st vd l p.succ) s
  else if p.kind = 2 then
    if l.groups = 0 then hubAdd s vd p.succ 1
    else
      let s1 := (upto (l.groups - p.placed * l.team)).foldl (fun st _ => cancelUnplaced st vd l 0) s
      match p.tracker with
      | some _ => modTracker s1 p.tracker fun t => { t with allPlaced := true }
      | none => addTracker s1 vd l p.succ true none
  else s

/-- Teams of a launch. -/
def Launch.teams (l : Launch) : Nat := l.groups / l.team

/-- Has a parsed record been dispatched, cancelled or passed in full. -/
def Parsed.over (p : Parsed) : Bool := p.cancelled || (p.kind == 1 && p.placed == 1) || (p.kind == 2 && p.placed == p.launch.teams)

/-- CONS advances past the head records that are over (R327). -/
def advanceQueue (s : State) (vd q : Nat) : State :=
  match queueOf s vd q with
  | none => s
  | some k =>
    let n := (k.parsed.takeWhile Parsed.over).length
    if n = 0 then s
    else
      let s1 := modQueue s vd q fun j => { j with parsed := j.parsed.drop n }
      hubWord s1 vd (k.ctrl + 4) (hubNat s vd (k.ctrl + 4) 4 + n)

/-- The parsed records of a queue are dropped, to be parsed again later; what has become of them is kept (R330). -/
def dropParsed (k : Queue) : Queue :=
  match k.parsed with
  | [] => k
  | p :: _ =>
    let old := k.parsed.filter fun r => r.over || decide (0 < r.placed) || r.tracker.isSome
    { k with parsed := [], head := BitVec.ofNat 32 p.pos,
             begun := old.map (fun r => { pos := r.pos, placed := r.placed, tracker := r.tracker, ended := r.over : Begun }) ++ k.begun }

/-- What the front end reads to parse the record at a queue's head: the control words, the record, and the launch record that it
names with its constants and its image descriptor (R317 to R320, R509). -/
def parseReads (s : State) (vd : Nat) (k : Queue) : List (Nat × Nat) :=
  let at_ := k.at_ k.head.toNat
  let kind := hubNat s vd at_ 4 / 2 ^ 28
  let l := hubNat s vd (at_ + 8) 8
  [(k.ctrl, 12), (at_, 64)] ++
    (if (kind = 1 ∨ kind = 2) ∧ l % 64 = 0 then [(l, imageAt (bitsOf (hubNat s vd (l + 0x20) 4) 20 7) + 16)] else [])

/-- QUEUE_PARSE: the next record of a queue, up to 16 ahead of CONS and not beyond a fence that has not passed (R321, R322,
R330). -/
def execQueueParse (vd q : Nat) (s : State) : Out :=
  match queueOf s vd q with
  | none => .next s
  | some k =>
    if k.proxy || queueStopped s vd q || !deviceWorks s vd || decide (16 ≤ k.parsed.length) ||
        (k.parsed.any fun p => p.kind == 3) || k.head.toNat == hubNat s vd k.ctrl 4 then .next s
    else
      let pos := k.head.toNat
      match hubFails s vd (parseReads s vd k) with
      | some b => .next (fenceOwner s vd b.1 0xFF b.2)
      | none =>
        let before := k.begun.find? fun b => b.pos == pos
        match (if before.any (·.ended) then .ok { emptyParsed pos 2 with cancelled := true }
               else parseRecord s vd pos fun off n => hubNat s vd (k.at_ pos + off) n) with
        | .error f => .next (stopQueue s vd k pos f)
        | .ok p0 =>
          let p := match before with
            | some b => { p0 with placed := b.placed, tracker := b.tracker }
            | none => p0
          let s1 := modQueue s vd q fun j =>
            { j with parsed := j.parsed ++ [p], begun := j.begun.filter (fun b => b.pos != pos), head := j.head + 1 }
          let s2 := if p.cancelled && !before.any (·.ended) then cancelRecord s1 vd p else s1
          .next (completeLaunches (advanceQueue s2 vd q))

/-- FENCE_RECORD_READ: the fence at the head of a queue passes when every counter is satisfied at one reading (R321). -/
def execFenceRecordRead (vd q : Nat) (s : State) : Out :=
  match queueOf s vd q with
  | none => .next s
  | some k =>
    match k.parsed with
    | p :: _ =>
      if p.kind ≠ 3 ∨ !deviceWorks s vd ∨ queueStopped s vd q then .next s
      else
        let outside : Option RecFault := (p.counters.zipIdx).findSome? fun c => outsideFault s vd c.1.1 4 (0x10 + 4 * c.2) 0
        match outside with
        | some f =>
          .next (stopQueue (modQueue s vd q dropParsed) vd k p.pos f)
        | none =>
        match hubFails s vd ((k.ctrl, 12) :: p.counters.map fun c => (c.1, 4)) with
        | some b => .next (fenceOwner s vd b.1 0xFF b.2)
        | none =>
          if p.counters.all fun c => decide (c.2 ≤ hubNat s vd c.1 4) then
            .next (advanceQueue (modQueue s vd q fun j => { j with parsed := { p with cancelled := true } :: j.parsed.drop 1 }) vd q)
          else .next s
    | [] => .next s

/-! ### Placement (R330, R331) -/

/-- A queue's eligible cores (R330). -/
def eligibleCores (s : State) (vd aff : Nat) : List Nat :=
  match (s.vd vd).part with
  | none => []
  | some p => p.cores.filter fun c => aff = 0 || Nat.testBit aff (c / 12)

/-- Cores of a list by occupied slots of the device, then by index; the first is taken (R331). -/
def bestCore (s : State) (vd : Nat) : List Nat → Option Nat
  | [] => none
  | c :: l =>
    match bestCore s vd l with
    | none => some c
    | some d =>
      let n := fun k => (groupsOn s k vd).length
      if n c < n d ∨ (n c = n d ∧ c < d) then some c else some d

/-- The core on which a team of a launch is placed (R330, R331, R389): one where the device is resident or saved out, or
where placing it makes the device resident. -/
def coreFor (s : State) (vd aff : Nat) (l : Launch) : Option Nat :=
  bestCore s vd ((eligibleCores s vd aff).filter fun c => teamFits s c vd l)

/-- Is a queue eligible (R330). -/
def queueEligible (s : State) (vd : Nat) (k : Queue) (l : Launch) : Bool :=
  (eligibleCores s vd k.aff).any fun c => residentOn s c vd || (wouldBeResident s c vd && teamFits s c vd l)

/-- Every queue with its device. -/
def allQueues (s : State) : List (Nat × Queue) := s.vds.flatMap fun v => v.2.queues.map fun k => (v.1, k)

/-- A queue inserted in ascending device, then queue number. -/
def insertQueue (x : Nat × Queue) : List (Nat × Queue) → List (Nat × Queue)
  | [] => [x]
  | y :: l => if x.1 < y.1 ∨ (x.1 = y.1 ∧ x.2.q < y.2.q) then x :: y :: l else y :: insertQueue x l

/-- The queues of a priority in their cyclic order, from after the one picked last (R331). -/
def queueOrder (s : State) (prio : Nat) : List (Nat × Queue) :=
  let all := ((allQueues s).filter fun x => x.2.prio == prio && !x.2.proxy).foldl (fun l x => insertQueue x l) []
  match s.hub.turns.find? fun t => t.1 == prio with
  | none => all
  | some (_, v, q) =>
    let after := fun (x : Nat × Queue) => decide (v < x.1) || (x.1 == v && decide (q < x.2.q))
    all.filter after ++ all.filter fun x => !after x

/-- The head unit of a queue, if the front end may place it now, with its core. -/
def headFor (s : State) (vd : Nat) (k : Queue) : Option (Parsed × Nat) :=
  match k.parsed with
  | [] => none
  | p :: _ =>
    if p.kind = 3 ∨ p.over ∨ !deviceWorks s vd ∨ !queueEligible s vd k p.launch ∨ launchCancelled s vd (withJob s vd p.launch) then none
    else (coreFor s vd k.aff p.launch).map fun c => (p, c)

/-- The queue picked: highest priority, then the turn (R331). -/
def pickQueue (s : State) : Option (Nat × Queue × Parsed × Nat) :=
  (((upto 8).reverse).flatMap fun prio => queueOrder s prio).findSome? fun x =>
    (headFor s x.1 x.2).map fun h => (x.1, x.2, h.1, h.2)

/-- Is the head unit of a queue one that CANCEL has reached (R325). -/
def headCancelled (s : State) (vd : Nat) (k : Queue) : Option Parsed :=
  match k.parsed with
  | [] => none
  | p :: _ =>
    if p.kind ≠ 3 ∧ !p.over ∧ deviceWorks s vd ∧ launchCancelled s vd (withJob s vd p.launch) then some p else none

/-- Head units of launches with CXL set retire as cancelled, one after the other (R325). -/
def cancelHeads : Nat → State → Nat × Nat → State
  | 0, s, _ => s
  | fuel + 1, s, x =>
    match queueOf s x.1 x.2 with
    | none => s
    | some k => match headCancelled s x.1 k with
      | none => s
      | some p =>
        cancelHeads fuel (completeLaunches (advanceQueue (modQueue (cancelRecord s x.1 p) x.1 x.2 fun j =>
          { j with parsed := { p with cancelled := true } :: j.parsed.drop 1 }) x.1 x.2)) x

/-- A team of the picked queue's head is placed (R324, R331). -/
def placeHead (s : State) (vd : Nat) (k : Queue) (p : Parsed) (core : Nat) : State :=
  let s0 := s.modHub fun h =>
    { h with turns := (k.prio, vd, k.q) :: h.turns.filter fun t => t.1 != k.prio }
  let l := p.launch
  if p.kind = 1 then
    let u : UnitArgs := { index := p.index, arg := p.arg, tile := p.tile, entry := p.entry, succ := p.succ, ranked := false }
    advanceQueue (modQueue (placeTeam s0 core vd l u) vd k.q fun j =>
      { j with parsed := { p with placed := 1 } :: j.parsed.drop 1 }) vd k.q
  else
    let tid := p.tracker.getD s0.fresh
    let s1 := if p.tracker.isSome then s0
      else addTracker s0 vd l p.succ false none
    let u : UnitArgs := { index := p.placed, entry := l.entry, tracker := some tid }
    let s2 := modTracker (placeTeam s1 core vd l u) (some tid) fun t =>
      { t with allPlaced := decide (p.placed + 1 = l.teams) }
    advanceQueue (modQueue s2 vd k.q fun j =>
      { j with parsed := { p with placed := p.placed + 1, tracker := some tid } :: j.parsed.drop 1 }) vd k.q

/-- UNIT_PLACE (R325, R330, R331, R333); with a JOBCTR that cannot be the head unit is a record fault (R322, R354). -/
def execUnitPlace (s : State) : Out :=
  let s1 := ((allQueues s).map fun x => (x.1, x.2.q)).foldl (cancelHeads 16) s
  match pickQueue s1 with
  | none => .next s1
  | some (vd, k, p, core) => match jobFault s1 vd with
    | some f => .next (stopQueue (modQueue s1 vd k.q dropParsed) vd k p.pos f)
    | none => .next (placeHead s1 vd k p core)

/-! ### CANCEL (R325, R469) -/

/-- Translate the bytes of a scalar instruction that has made its own checks. -/
def reachScalar (s : State) (x : ScIss) (kind : AccKind) (width : Nat) (addrs : List Nat)
    (go : State → List Reached → ScRes) : ScRes :=
  match reachAll s x.g { space := 2, kind := kind, fe := 0, width := width, fid := 0x03 } (addrs.map fun a => (127, a)) [] none [] [] with
  | .fault _ c a d => .fault c a d
  | .park s1 why page hosts pages _ addr =>
    let (id, s2) := parkAt s1 x.g x.ix none pages why page hosts addr (some (scFaultRec x 0x23 addr 0))
    .stay (s2.modGroup x.g.gid fun g => g.modSplit x.ix fun sp => { sp with block := .park id })
  | .go s1 rs => go s1 rs

/-- The open bins of cancelled launches are discarded (R469). -/
def dropOpenBins (s : State) (vd : Nat) : State :=
  let cores := s.cores.map (·.1)
  cores.foldl (fun st c => st.modCore c fun k => { k with
    bins := k.bins.filter fun b => !(b.vd == vd && b.kind != .responder && !b.fired && launchCancelled s vd b.launch),
    carries := k.carries.filter fun r => !(r.vd == vd && launchCancelled s vd r.launch) }) s

/-- CXL is set in a word, and what follows from it (R325, R333). -/
def setCancel (s : State) (vd : Nat) (l : Loc) (unit : Bool) : State :=
  let s1 := (s.land l (natLe 4 (Nat.lor (leNat ((upto 4).map fun i => s.homeByte vd (l.plus i))) 1))).bumpLine l
  if unit then s1 else completeLaunches (dropOpenBins s1 vd)

/-- CANCEL at a level: 0 unit, 1 launch, 2 graph, 3 phase, 4 job. Beyond the rule's words: DEDUCED, log entry 31. -/
def cancelAt (i : Instr) (a : BitVec 7) (level : Nat) (s : State) : Out :=
  scalarIssue i { reads := [a.toNat, a.toNat + 1] } (fun s x v =>
    let addr := (v.getD 0 0).toNat + 2 ^ 32 * (v.getD 1 0).toNat
    let align := if level = 0 then 64 else 16
    if addr / 2 ^ 52 ≠ 0 then .fault 0x10 addr (1 + 2 ^ 8 * 0x03)
    else if addr % align ≠ 0 then .fault 0x11 addr (align + 2 ^ 16 * 0x03)
    else reachScalar s x .write 4 [if level = 0 then addr else addr + 12] fun s1 rs =>
      match rs with
      | r :: _ =>
        if s1.stores.any fun e => e.gid == x.g.gid && e.meets r.place.key 4 then .hold
        else match lineFault s1 r.place r.addr 0 with
          | some (c, ad, d) => .fault c ad d
          | none => .done (setCancel (countReached s1 x.g.vd rs) x.g.vd r.place (level == 0))
      | [] => .hold) s

/-- CANCEL.unit (R325). -/
def execCancelUnit (a : BitVec 7) (t : BitVec 2) (s : State) : Out := cancelAt (.cancelUnit a t) a 0 s
/-- CANCEL.launch (R325). -/
def execCancelLaunch (a : BitVec 7) (t : BitVec 2) (s : State) : Out := cancelAt (.cancelLaunch a t) a 1 s
/-- CANCEL.graph (R325). -/
def execCancelGraph (a : BitVec 7) (t : BitVec 2) (s : State) : Out := cancelAt (.cancelGraph a t) a 2 s
/-- CANCEL.phase (R325). -/
def execCancelPhase (a : BitVec 7) (t : BitVec 2) (s : State) : Out := cancelAt (.cancelPhase a t) a 3 s
/-- CANCEL.job (R325). -/
def execCancelJob (a : BitVec 7) (t : BitVec 2) (s : State) : Out := cancelAt (.cancelJob a t) a 4 s

/-- CTRRD (R326). -/
def execCtrrd (d : BitVec 6) (a : BitVec 7) (t : BitVec 2) (s : State) : Out :=
  scalarIssue (.ctrrd d a t)
    { reads := [a.toNat, a.toNat + 1], writes := (upto 4).map fun i => (0x02, d.toNat + i) } (fun s x v =>
    let addr := (v.getD 0 0).toNat + 2 ^ 32 * (v.getD 1 0).toNat
    if addr / 2 ^ 52 ≠ 0 then .fault 0x10 addr (1 + 2 ^ 8 * 0x03)
    else if addr % 16 ≠ 0 then .fault 0x11 addr (16 + 2 ^ 16 * 0x03)
    else reachScalar s x .read 16 [addr] fun s1 rs =>
      if 255 ≤ x.g.wcGet 0 then .hold
      else
        let s2 := countReached s1 x.g.vd rs
        let r := x.opRec s2.fresh
        let els := rs.map fun q => { loc := q.place, len := 16, dst := .sregs4 x.ix d.toNat, page := q.page, va := q.addr,
                                     lane := 127 : LoadEl }
        .done (startLoad { s2 with fresh := s2.fresh + 1 } x.g x.ord (some 4) 0 r els)) s

/-! ### QPUSH (R328) -/

/-- The checks of a source of `n` records: code, ADDR, DETAIL (R328). -/
def pushBreach (g : Group) (addr n : Nat) : Option (Nat × Nat × Nat) :=
  let spad := decide (2 ^ 63 ≤ addr)
  let off := addr % 2 ^ 32
  if spad ∧ addr / 2 ^ 32 % 2 ^ 31 ≠ 0 then some (0x10, addr, 3 + 2 ^ 8 * 0x04)
  else if !spad ∧ addr / 2 ^ 52 ≠ 0 then some (0x10, addr, 1 + 2 ^ 8 * 0x04)
  else if addr % 64 ≠ 0 then some (0x11, addr, 64 + 2 ^ 16 * 0x04)
  else if spad ∧ 384 * g.spRows < off + 64 * n then some (0x12, addr, max off (384 * g.spRows) % 2 ^ 32 + 2 ^ 32 * g.spRows)
  else none

/-- QPUSH: it issues, counted on wc2; what follows is QPUSH_PUBLISH's. -/
def execQpush (d : BitVec 6) (a b : BitVec 7) (f : BitVec 4) (t : BitVec 2) (s : State) : Out :=
  scalarIssue (.qpush d a b f t) { reads := [a.toNat, b.toNat, b.toNat + 1], writes := [(0x02, d.toNat)] } (fun s x v =>
    let qn := (v.getD 0 0).toNat
    let addr := (v.getD 1 0).toNat + 2 ^ 32 * (v.getD 2 0).toNat
    let n := f.toNat + 1
    match queueOf s x.g.vd qn with
    | none => .fault 0x44 0 qn
    | some q =>
      match pushBreach x.g addr n with
      | some (c, ad, dt) => .fault c ad dt
      | none =>
        reachScalar s x .read 64 (if 2 ^ 63 ≤ addr then [] else (upto n).map fun i => addr + 64 * i) fun s1 rs =>
          if 255 ≤ x.g.wcGet 2 then .hold
          else
            let s2 := countReached s1 x.g.vd rs
            let r := x.opRec s2.fresh
            let s3 := startOp { s2 with fresh := s2.fresh + 2 } x.g.gid 2 1 r
            let src : Place := if 2 ^ 63 ≤ addr then .localSp (addr % 2 ^ 32) else .dev addr
            let p : Push := { id := s2.fresh + 1, vd := x.g.vd, gen := x.g.gen, gid := x.g.gid, op := r.op, q := qn,
                              base := q.base, ctrl := q.ctrl, size := q.size, first := 0, count := n, src := some src,
                              spBase := x.g.spBase, records := [], post := none, spad := none, stage := 0, split := x.ix, reg := d.toNat,
                              ord := x.ord }
            .done { s3 with pushes := s3.pushes ++ [p] }) s

/-- A push changed, and one ended. -/
def setPush (s : State) (p : Push) : State := { s with pushes := replaceBy (fun k => k.id == p.id) p s.pushes }
def dropPush (s : State) (id : Nat) : State := { s with pushes := s.pushes.filter fun p => p.id != id }

/-- QPUSH completes with a count (R328). -/
def endPush (s : State) (p : Push) (n : Nat) : State :=
  opDone (writeDst (dropPush s p.id) p.gid p.ord.born (.sreg p.split p.reg) n) p.op 1

/-- The source bytes of a push as they stand. -/
def pushBytes (s : State) (p : Push) : List Byte :=
  match p.src, s.group? p.gid with
  | some (.dev va), _ => match hubBytes s p.vd va (64 * p.count) with
    | .ok bs => bs
    | .error _ => List.replicate (64 * p.count) 0
  | some (.localSp off), some g => s.agentBytes g.core p.vd (.spad g.core (384 * p.spBase + off)) (64 * p.count)
  | _, _ => List.replicate (64 * p.count) 0

/-- Records written to ring positions from `first` on (R327). -/
def writeRing (s : State) (vd base size first : Nat) (bs : List Byte) : State :=
  (upto (bs.length / 64)).foldl (fun st i =>
    let a := base + 64 * ((first + i) % size)
    let s1 := hubWrite st vd a ((bs.drop (64 * i)).take 64)
    match hubPlace st vd a with
    | some l => s1.bumpLine l
    | none => s1) s

/-- QPUSH_PUBLISH: a QPUSH goes one step further: the release and the reservation, the copying of its records, PROD (R328). -/
def execQpushPublish (id : Nat) (s : State) : Out :=
  match s.pushes.find? fun p => p.id == id && p.post.isNone with
  | none => .next s
  | some p =>
    if !deviceWorks s p.vd then .next s
    else if p.stage = 0 then
      if !storesDone s p.gid p.ord.seq 4 || !loadsDone s p.gid p.ord then .next s
      else
        let res := hubNat s p.vd (p.ctrl + 8) 4
        let cons := hubNat s p.vd (p.ctrl + 4) 4
        if (queueOf s p.vd p.q).isSome ∧ (res + 2 ^ 32 - cons) % 2 ^ 32 + p.count ≤ p.size then
          .next (setPush (hubWord s p.vd (p.ctrl + 8) (res + p.count)) { p with stage := 1, first := BitVec.ofNat 32 res })
        else .next (endPush s p 0)
    else if p.stage = 1 then
      match match p.src with
        | some (.dev va) => hubBad s p.vd va (64 * p.count)
        | _ => none with
      | some b =>
        let va := match p.src with
          | some (.dev va) => va
          | _ => 0
        let agent := if b.1 = 0x17 then 3 * 2 ^ 4 else 0
        .next (dropPush (opDone (opFault (fenceWalks s p.vd 0xFF va (64 * p.count)) p.op 127 b.1 (va / 128 * 128) (b.2 - agent)) p.op 1) id)
      | none =>
        let bs := pushBytes s p
        .next (setPush (writeRing s p.vd p.base p.size p.first.toNat bs) { p with stage := 2, records := [] })
    else if hubNat s p.vd p.ctrl 4 = p.first.toNat then
      .next (endPush (hubWord s p.vd p.ctrl (p.first.toNat + p.count)) p p.count)
    else .next s

/-! ### The courier (R229, R329) -/

/-- Records that a post holds (R327). Beyond the rule's words: DESIGN CHOICE, log entry 33. -/
def postHolds (s : State) (vd : Nat) (k : Queue) : Nat :=
  (hubNat s vd k.ctrl 4 + 2 ^ 32 - hubNat s vd (k.ctrl + 4) 4) % 2 ^ 32

/-- Has a batch of a post not ended. -/
def batchOut (s : State) (vd q : Nat) : Bool := s.pushes.any fun p => p.vd == vd && p.post == some q

/-- May the courier work for a post: the device works, no batch is out, and the depot's memory can be reached (R484, R495). -/
def courierMay (s : State) (vd : Nat) (k : Queue) : Bool :=
  k.proxy && deviceWorks s vd && !batchOut s vd k.q &&
  match if 2 ^ 63 ≤ k.depot.toNat then none else hubPlace s vd k.depot.toNat with
  | some (.peer port _ _) => ((s.hub.ports[port]?).map (·.up)).getD false
  | _ => true

/-- The oldest `n` records of a post. -/
def postRecords (s : State) (vd : Nat) (k : Queue) (n : Nat) : List Byte :=
  let cons := hubNat s vd (k.ctrl + 4) 4
  (upto n).flatMap fun i => match hubBytes s vd (k.at_ (cons + i)) 64 with
    | .ok bs => bs
    | .error _ => List.replicate 64 0

/-- The base and the size of the ring that a depot's control words belong to: a queue of the device, or the peer's, which
only the peer knows. -/
def depotRing (s : State) (vd depot : Nat) : Nat × Nat :=
  match (s.vd vd).queues.find? fun k => k.ctrl == depot with
  | some k => (k.base, k.size)
  | none => (Config.depotBase depot, 2 ^ (6 + Config.depotLog depot % 11))

/-- A batch to a depot in memory: room is reserved and the records are written (R329, steps 1 and 2). -/
def depotBatch (s : State) (vd : Nat) (k : Queue) (n : Nat) : State :=
  let ctrl := k.depot.toNat
  let ring := depotRing s vd ctrl
  let res := hubNat s vd (ctrl + 8) 4
  let cons := hubNat s vd (ctrl + 4) 4
  if ring.2 < (res + 2 ^ 32 - cons) % 2 ^ 32 + n then s
  else
    let s1 := writeRing (hubWord s vd (ctrl + 8) (res + n)) vd ring.1 ring.2 res (postRecords s vd k n)
    let p : Push := { id := s1.fresh, vd := vd, gen := (s.vd vd).gen, gid := 0, op := 0, q := k.q, base := ring.1,
                      ctrl := ctrl, size := ring.2, first := BitVec.ofNat 32 res, count := n, src := none, spBase := 0,
                      records := [], post := some k.q, spad := none, stage := 2, split := 0, reg := 0,
                      ord := { split := 0, born := 0, lane := false, seq := 0, ref := 0 } }
    { s1 with fresh := s1.fresh + 1, pushes := s1.pushes ++ [p] }

/-- A batch to a scratchpad depot: it claims the next places of the share, and their granules become empty (R229, steps 1 and
2). -/
def spadBatch (s : State) (vd : Nat) (k : Queue) (n : Nat) : State :=
  let dep := k.depot.toNat
  let core := bitsOf dep 48 8
  let e := panFirst s vd + bitsOf dep 42 6
  let j := bitsOf dep 38 4
  let p := panAt s core e
  match p.shares[j]? with
  | none => s
  | some sh =>
    if !panIs s vd core e .filling || !residentOn s core vd || sh.prod != 0x10 || decide (sh.expected < sh.claimed + 64) then s
    else
      let take := min n ((sh.expected - sh.claimed) / 64)
      let at_ := 384 * p.first + ((p.shares.take j).map (·.expected)).sum + sh.claimed
      let s1 := modPan s core e fun q => { q with shares := claimShare q.shares j (64 * take) }
      let s2 := setEmpty s1 core (granulesOf at_ (64 * take))
      let p : Push := { id := s.fresh, vd := vd, gen := (s.vd vd).gen, gid := 0, op := 0, q := k.q, base := 0, ctrl := k.ctrl,
                        size := 0, first := 0, count := take, src := none, spBase := 0, records := postRecords s vd k take,
                        post := some k.q, spad := some (core, e, j, at_), stage := 1, split := 0, reg := 0,
                        ord := { split := 0, born := 0, lane := false, seq := 0, ref := 0 } }
      { s2 with fresh := s.fresh + 1, pushes := s2.pushes ++ [p] }

/-- The claimed batch of a post. -/
def spadPush (s : State) (vd q : Nat) : Option Push := s.pushes.find? fun p => p.vd == vd && p.post == some q && p.spad.isSome

/-- The records of a claimed batch are written and delivered on their share, and the post's CONS goes on (R229, steps 3 and
4). -/
def endSpadBatch (s : State) (p : Push) : State :=
  match p.spad with
  | none => s
  | some (core, e, j, at_) =>
    let s1 := portClock (dropPush s p.id) core
    let s2 := setFull (s1.land (.spad core at_) p.records) core (granulesOf at_ (64 * p.count))
    hubWord (countShare s2 core e j (64 * p.count)) p.vd (p.ctrl + 4) (hubNat s p.vd (p.ctrl + 4) 4 + p.count)

/-- The courier takes a batch of `n` records of a post; a failing line of the post fences the device (R329, R481). -/
def courierSend (s : State) (vd : Nat) (k : Queue) (n : Nat) : State :=
  let cons := hubNat s vd (k.ctrl + 4) 4
  match hubFails s vd ((k.ctrl, 12) :: (upto n).map fun i => (k.at_ (cons + i), 64)) with
  | some b => fenceOwner s vd b.1 0xFF b.2
  | none => if 2 ^ 63 ≤ k.depot.toNat then spadBatch s vd k n else depotBatch s vd k n

/-- COURIER_BATCH: the post holds 64 records, or a timeout has marked it; a batch of 1 to 64 records goes (R329). A batch that has
claimed its bytes of a scratchpad depot is written (R229). -/
def execCourierBatch (vd q k : Nat) (s : State) : Out :=
  match queueOf s vd q, spadPush s vd q with
  | none, _ => .next s
  | some _, some b => .next (endSpadBatch s b)
  | some p, none =>
    let held := postHolds s vd p
    if !courierMay s vd p || held < 64 || k = 0 || 64 < k then .next s
    else .next (courierSend s vd p k)

/-- COURIER_TIMEOUT: 512 hub cycles have passed since the oldest unsent record arrived: what the post holds, up to 64
records, goes (R329). -/
def execCourierTimeout (vd q : Nat) (s : State) : Out :=
  match queueOf s vd q with
  | none => .next s
  | some p =>
    let held := postHolds s vd p
    if !courierMay s vd p || held = 0 then .next s else .next (courierSend s vd p (min held 64))

/-- DEPOT_PUBLISH: the depot's PROD has reached the batch: it advances, and the post's CONS with it (R329, steps 3 and 4). -/
def execDepotPublish (id : Nat) (s : State) : Out :=
  match s.pushes.find? fun p => p.id == id && p.post.isSome && p.spad.isNone with
  | none => .next s
  | some p =>
    if !deviceWorks s p.vd || hubNat s p.vd p.ctrl 4 ≠ p.first.toNat then .next s
    else
      let s1 := hubWord (dropPush s id) p.vd p.ctrl (p.first.toNat + p.count)
      match queueOf s p.vd p.q with
      | none => .next s1
      | some k => .next (hubWord s1 p.vd (k.ctrl + 4) (hubNat s p.vd (k.ctrl + 4) 4 + p.count))

end Sys2Proof.Machine
end

