-- ==== Sys2Proof/Machine/Manifest.lean ====
section
/-! DEFINITION. Manifests: their fields and rules (R337, R338, R354 to R357, R364, R385, R401, R413, R423), writing and
reading slots (R339 to R342), and the choice of the next step (R346, R350). -/

namespace Sys2Proof.Machine

/-! ### CRC-32C (R337) -/

/-- One bit of the reflected CRC. -/
def crcBit (c : Nat) : Nat := if c % 2 = 1 then Nat.xor (c / 2) 0x82F63B78 else c / 2
/-- One byte of the CRC. -/
def crcByte (c : Nat) (b : Byte) : Nat :=
  let x := Nat.xor c b.toNat
  crcBit (crcBit (crcBit (crcBit (crcBit (crcBit (crcBit (crcBit x)))))))
/-- CRC-32C of RFC 3720. -/
def crc32c (bs : List Byte) : Nat := Nat.xor (bs.foldl crcByte 0xFFFFFFFF) 0xFFFFFFFF

/-! ### Fields -/

/-- A little-endian number of a manifest. -/
def manAt (b : List Byte) (off n : Nat) : Nat := leNat ((b.drop off).take n)
/-- Bits hi to lo of the field that starts at an offset. -/
def manField (b : List Byte) (off hi lo : Nat) : Nat := bitsOf (manAt b off (hi / 8 + 1)) lo (hi - lo + 1)

/-- The fields of a body: offset, high bit, low bit, fixed (R354 to R357, R364, R385, R401, R413, R423). -/
def bodyFields : Nat → List (Nat × Nat × Nat × Bool)
  | 1 => [(0x30, 191, 0, true), (0x48, 31, 16, true), (0x48, 9, 5, true), (0x48, 4, 0, true), (0x4C, 28, 16, true),
          (0x4C, 11, 0, true), (0x50, 29, 16, true), (0x50, 12, 0, true), (0x54, 28, 16, true), (0x54, 11, 0, true),
          (0x58, 31, 28, true), (0x58, 20, 14, true), (0x58, 13, 8, true), (0x58, 4, 0, true), (0x5C, 28, 16, true),
          (0x5C, 4, 0, true), (0x60, 31, 0, true), (0x64, 31, 16, true), (0x64, 12, 0, true), (0x68, 23, 16, false),
          (0x68, 11, 0, false)]
  | 2 => [(0x30, 1, 1, false), (0x30, 0, 0, true), (0x34, 4, 0, true), (0x38, 4, 0, false), (0x3C, 31, 0, false),
          (0x40, 15, 0, false), (0x44, 7, 4, true), (0x44, 3, 0, true), (0x48, 63, 0, false), (0x50, 63, 0, false)]
  | 3 => [(0x30, 63, 0, true), (0x38, 63, 0, true), (0x40, 31, 30, true), (0x40, 29, 29, true), (0x44, 31, 16, true),
          (0x44, 6, 0, true), (0x48, 63, 0, false), (0x50, 63, 0, true)]
  | 4 => [(0x30, 63, 0, true), (0x38, 63, 0, true), (0x40, 63, 0, true), (0x48, 31, 0, true), (0x4C, 17, 17, true),
          (0x4C, 16, 16, true), (0x4C, 15, 7, false), (0x4C, 6, 6, false), (0x4C, 5, 5, true), (0x4C, 4, 4, false),
          (0x4C, 3, 3, false), (0x4C, 2, 0, true), (0x50, 10, 0, true), (0x54, 31, 16, true), (0x54, 14, 8, true),
          (0x54, 3, 0, true)]
  | 5 => [(0x30, 63, 0, true), (0x38, 63, 0, true), (0x40, 31, 31, true), (0x40, 27, 16, false), (0x40, 10, 8, false),
          (0x40, 4, 0, true), (0x48, 63, 0, true)]
  | 6 => [(0x30, 63, 0, false), (0x38, 31, 0, false), (0x3C, 13, 12, false), (0x3C, 11, 0, false)]
  | 7 => [(0x30, 11, 0, false)]
  | 8 => [(0x30, 31, 0, true), (0x34, 31, 16, true), (0x38, 775, 0, true), (0x9C, 319, 0, true)]
  | _ => []

/-- The assigned bits of a body, from byte 0x30. -/
def bodyMask (kind : Nat) : Nat :=
  (bodyFields kind).foldl (fun m f => Nat.lor m ((2 ^ (f.2.1 - f.2.2.1 + 1) - 1) * 2 ^ (8 * (f.1 - 0x30) + f.2.2.1))) 0

/-- The offsets of words with a bit set that the body does not assign (R337). -/
def zeroBreaches (kind : Nat) (b : List Byte) : List Nat :=
  let mask := bodyMask kind
  (wordsFrom 0x30 0x100).filter fun o =>
    let w := manAt b o 4
    Nat.land w (bitsOf mask (8 * (o - 0x30)) 32) != w

/-! ### Partition, context and the other bodies as records -/

/-- The numbers of the bits that are set, below `n`. -/
def bitList (x n : Nat) : List Nat := (upto n).filter fun i => x.testBit i

/-- The partition of a body (R385). -/
def partitionOf (b : List Byte) : Partition where
  cores := bitList (manField b 0x30 191 0) 144
  region := manField b 0x48 31 16
  gfirst := manField b 0x48 4 0
  gcount := manField b 0x48 9 5
  rfirst := manField b 0x4C 11 0
  rcount := manField b 0x4C 28 16
  sfirst := manField b 0x50 12 0
  scount := manField b 0x50 29 16
  afirst := manField b 0x54 11 0
  acount := manField b 0x54 28 16
  slots := bitList (manField b 0x58 31 28) 4
  pfirst := manField b 0x58 13 8
  pcount := manField b 0x58 20 14
  bins := manField b 0x58 4 0
  marks := manField b 0x5C 28 16
  census := manField b 0x5C 4 0
  chsets := bitList (manField b 0x60 31 0) 32
  oasis := bitList (manField b 0x64 31 16) 16
  qcount := manField b 0x64 12 0
  tokshare := manField b 0x68 23 16
  eshare := manField b 0x68 11 0

/-- The checks of a partition body on its own: offset and whether it is broken (R385, R386). -/
def partitionChecks (b : List Byte) : List (Nat × Bool) :=
  let p := partitionOf b
  let none_ := p.cores.isEmpty
  let range := fun (first count least cap : Nat) => decide (count < least) || decide (cap < first + count)
  let per := fun (off : Nat) (bad : Bool) => (off, if none_ then manAt b off 4 % 2 ^ 32 != 0 else bad)
  [(0x30, manField b 0x30 191 144 != 0),
   (0x48, if none_ then manField b 0x48 9 0 != 0 else range p.gfirst p.gcount 1 24),
   per 0x4C (range p.rfirst p.rcount 8 4096 || p.rcount % 8 != 0), per 0x50 (range p.sfirst p.scount 0 8192),
   per 0x54 (range p.afirst p.acount 0 4096),
   per 0x58 (range p.pfirst p.pcount 0 64 || decide (16 < p.bins)),
   per 0x5C (decide (4096 < p.marks) || decide (16 < p.census)),
   (0x64, decide (4096 < p.qcount)), (0x68, decide (144 < p.tokshare))]

/-- The checks of a context body (R354). -/
def contextChecks (b : List Byte) : List (Nat × Bool) :=
  let slice := manField b 0x38 4 0
  [(0x38, (decide (1 ≤ slice) && decide (slice ≤ 13)) || slice == 31),
   (0x44, decide (8 < manField b 0x44 7 4) || decide (8 < manField b 0x44 3 0))]

/-- The checks of a window body (R413). -/
def windowChecks (b : List Byte) : List (Nat × Bool) :=
  let size := manAt b 0x30 8
  let kind := manField b 0x40 31 30
  let joiner := manField b 0x40 29 29 == 1
  let weight := kind == 1 && !joiner
  [(0x30, if joiner then size != 0 else size == 0 || size % 65536 != 0 || decide (2 ^ 40 < size)),
   (0x38, if weight then manAt b 0x38 8 % 128 != 0 else manAt b 0x38 8 != 0),
   (0x40, kind == 0 || kind == 3),
   (0x44, if joiner then manField b 0x44 6 0 == 0 || decide (64 < manField b 0x44 6 0) else manAt b 0x44 4 != 0),
   (0x48, joiner && manAt b 0x48 8 != 0),
   (0x50, !weight && manAt b 0x50 8 != 0)]

/-- The page size of a mapping body (R355). -/
def bodyPage (b : List Byte) : Nat := if manField b 0x4C 5 5 = 1 then 2 ^ 28 else 2 ^ 16

/-- The checks of a mapping body on its own (R355, R364, R376). -/
def mappingChecks (b : List Byte) : List (Nat × Bool) :=
  let va := manAt b 0x30 8
  let size := manAt b 0x38 8
  let srca := manAt b 0x40 8
  let loc := manField b 0x4C 2 0
  let self := manField b 0x4C 16 16 == 1
  let pexp := manField b 0x4C 17 17 == 1
  let pg256 := manField b 0x4C 5 5 == 1
  let pool := manField b 0x50 10 0
  let pvd := manField b 0x54 14 8
  let port := manField b 0x54 3 0
  let page := bodyPage b
  [(0x30, va % page != 0 || decide (0x000FF00000000000 < va + size) || (self && va % 2 ^ 28 != 0)),
   (0x38, size == 0 || size % page != 0 || (self && decide (2 ^ 36 < size))),
   (0x40, loc != 0 && (srca % page != 0 || (loc == 1 && decide (2 ^ 52 < srca + size)))),
   (0x48, if loc == 0 then decide (size < manAt b 0x48 4) else manAt b 0x48 4 != 0),
   (0x4C, decide (3 < loc) || (pexp && (loc != 0 || self)) || (self && (pg256 || decide (1 < loc)))),
   (0x50, (!self && pool != 0) || decide (1024 < pool) || (self && loc == 0 && decide (pool < size / 65536))),
   (0x54, (loc != 3 && manField b 0x54 31 16 != 0) || (if loc == 2 || pexp then decide (64 < pvd) else pvd != 0 || port != 0))]

/-- The checks of a queue body (R356). -/
def queueChecks (b : List Byte) : List (Nat × Bool) :=
  let proxy := manField b 0x40 31 31 == 1
  let depot := manAt b 0x48 8
  let spad := decide (2 ^ 63 ≤ depot)
  [(0x30, manAt b 0x30 8 % 64 != 0), (0x38, manAt b 0x38 8 % 16 != 0),
   (0x40, decide (manField b 0x40 4 0 < 6) || decide (16 < manField b 0x40 4 0)),
   (0x48, if !proxy then depot != 0 else spad && (bitsOf depot 56 7 != 0 || bitsOf depot 0 38 != 0))]

/-- The checks of a resident-program body (R357). -/
def programChecks (b : List Byte) : List (Nat × Bool) :=
  let n := manAt b 0x38 4
  [(0x30, manAt b 0x30 8 % 64 != 0), (0x38, n % 64 != 0 || decide (n < 128) || decide (2 ^ 24 < n)),
   (0x3C, decide (1 < manField b 0x3C 13 12))]

/-- The checks of an envelope body (R401). -/
def envelopeChecks (b : List Byte) : List (Nat × Bool) :=
  let w := manField b 0x30 11 0
  [(0x30, w != 0 && (decide (w < 1500) || decide (2600 < w)))]

/-- The checks of a body by its kind. -/
def bodyChecks (kind : Nat) (b : List Byte) : List (Nat × Bool) :=
  match kind with
  | 1 => partitionChecks b
  | 2 => contextChecks b
  | 3 => windowChecks b
  | 4 => mappingChecks b
  | 5 => queueChecks b
  | 6 => programChecks b
  | 7 => envelopeChecks b
  | 8 => [(0x10, !((upto (manField b 4 7 4)).any fun j =>
      manField b (0x10 + 4 * j) 31 28 == 3 && manField b (0x10 + 4 * j) 15 0 == manField b 0x34 31 16))]
  | _ => []

/-! ### The head of a manifest (R337, R338) -/

/-- KIND, OWNER, TVD, NDEP and ID. -/
def manKind (b : List Byte) : Nat := manField b 4 31 24
def manOwner (b : List Byte) : Nat := manField b 4 23 16
def manTvd (b : List Byte) : Nat := manField b 4 15 8
def manDeps (b : List Byte) : Nat := manField b 4 7 4
def manId (b : List Byte) : Nat := manField b 8 15 0
/-- VERSION. -/
def manVer (b : List Byte) : Word := BitVec.ofNat 32 (manAt b 0 4)

/-- Is a kind allowed to a domain (R338). -/
def kindAllowed (dom kind : Nat) : Bool :=
  if dom = 0 then decide (1 ≤ kind) && decide (kind ≤ 7) else [2, 3, 4, 5, 6, 8].contains kind

/-- May a domain name a target device (R335, R338). -/
def tvdAllowed (dom kind tvd : Nat) : Bool :=
  if dom = 0 then (if kind = 1 ∨ kind = 7 then decide (tvd ≤ 64) else tvd == 0)
  else tvd == if dom ≤ 64 then dom else dom - 64

/-- The ID column of R338. -/
def idAllowed (kind tvd id : Nat) : Bool :=
  match kind with
  | 1 | 2 => id == 0
  | 7 => id == 0 && tvd == 0
  | _ => true

/-- The first offset at which a field rule is broken (R337). -/
def fieldBreach (b : List Byte) : Option Nat :=
  let nd := manDeps b
  let depBad := fun (j : Nat) => if j < nd then manField b (0x10 + 4 * j) 27 16 != 0 else manAt b (0x10 + 4 * j) 4 != 0
  if manField b 4 3 0 ≠ 0 ∨ 8 < nd then some 4
  else if manField b 8 31 16 ≠ 0 then some 8
  else match (upto 8).find? depBad with
    | some j => some (0x10 + 4 * j)
    | none =>
      let bad := zeroBreaches (manKind b) b ++ ((bodyChecks (manKind b) b).filter (·.2)).map (·.1)
      match bad with
      | [] => none
      | o :: l => some (l.foldl min o)

/-- The first dependency that breaks R338. -/
def depBreach (b : List Byte) : Option Nat :=
  ((upto (manDeps b)).find? fun j =>
    let dk := manField b (0x10 + 4 * j) 31 28
    let did := manField b (0x10 + 4 * j) 15 0
    !(decide (1 ≤ dk) && decide (dk ≤ 8) && (decide (dk < manKind b) || (dk == manKind b && decide (did < manId b))))).map
    fun j => 0x10 + 4 * j

/-- The first fixed field that differs (R353). -/
def fixedBreach (old new : List Byte) : Option Nat :=
  ((bodyFields (manKind new)).find? fun f => f.2.2.2 &&
    manField old f.1 f.2.1 f.2.2.1 != manField new f.1 f.2.1 f.2.2.1).map (·.1)

/-- The examination of a stable record up to its claim: REASON and the DETAIL of its conflict record (R341, R502).
Beyond the rule's words: DEDUCED, log entry 35. -/
def examine (s : State) (dom ix : Nat) (b : List Byte) : Option (Nat × Nat) :=
  let kind := manKind b
  if manOwner b ≠ dom then some (0x07, 0)
  else if 8 < kind then some (0x0A, 4)
  else if !kindAllowed dom kind then some (0x08, 0)
  else if !tvdAllowed dom kind (manTvd b) then some (0x12, 0)
  else if !idAllowed kind (manTvd b) (manId b) then some (0x08, 0)
  else match fieldBreach b, depBreach b with
    | some o, _ => some (0x0A, o)
    | none, some o => some (0x0C, o)
    | none, none =>
      match claimant s (manTvd b) kind (manId b) with
      | some r => if r.dom = dom ∧ r.ix = ix then none else some (0x09, r.dom + 2 ^ 8 * r.ix)
      | none => none

/-! ### Dependencies (R338, R350) -/

/-- The triples that a record depends on. -/
def depsOf (b : List Byte) : List (Nat × Nat × Nat) :=
  let kind := manKind b
  let tvd := manTvd b
  (if kind = 1 ∨ kind = 7 then [] else (tvd, 1, 0) :: if kind = 2 then [] else [(tvd, 2, 0)]) ++
  (upto (manDeps b)).map (fun j => (tvd, manField b (0x10 + 4 * j) 31 28, manField b (0x10 + 4 * j) 15 0)) ++
  if kind = 4 ∧ manField b 0x4C 2 0 = 3 then [(tvd, 3, manField b 0x54 31 16)] else []

/-- The owner record that a converged joiner names (R414). -/
def joinedOwner (b : List Byte) : Option (Nat × Nat × Nat) :=
  if manKind b = 3 ∧ manField b 0x40 29 29 = 1 then some (manField b 0x44 6 0, 3, manField b 0x44 31 16) else none

/-- A converged record that depends on a triple, explicitly or implicitly, or as a joiner of the window (R350, R414). -/
def dependant (s : State) (t : Nat × Nat × Nat) : Option (Nat × Nat × Nat) :=
  (s.hub.slots.find? fun r => match r.conv with
    | some b => (depsOf b).contains t || joinedOwner b == some t
    | none => false).map fun r => (r.tvd, r.kind, r.id)

/-! ### Writing and reading slots (R339 to R342) -/

/-- The lines of an area that a write covers whole fail no more; a failing line that it covers in part fences (R481). -/
def areaLines (s : State) (dom off n : Nat) : State :=
  (upto ((off % 128 + n + 127) / 128)).foldl (fun st i =>
    let a := off / 128 * 128 + 128 * i
    if off ≤ a ∧ a + 128 ≤ off + n then clearBad st (.area dom a) else fenceBad st 0 0xFF (.area dom a)) s

/-- Bytes written into an area: its slots only; the slots that they touch become dirty (R336, R340). -/
def areaWrite (s : State) (dom off : Nat) (data : List Byte) : State :=
  if !areaExists s dom || decide (0x40000 ≤ off) || data == [] then s
  else
    let bs := data.take (0x40000 - off)
    let s1 := areaLines (s.land (.area dom off) bs) dom off bs.length
    (upto ((off % 256 + bs.length + 255) / 256)).foldl (fun st i =>
      putSlot st { slotAt st dom (off / 256 + i) with dirty := true }) s1

/-- SLOT_WRITE (R340). -/
def execSlotWrite (dom off : Nat) (data : List Byte) (s : State) : Out := .next (areaWrite s dom off data)

/-- A claim is freed: slots in conflict 0x09 are examined again (R341, R346). -/
def recheckClaims (s : State) : State :=
  s.modHub fun h => { h with slots := h.slots.map fun (r : RSlot) =>
    if r.state == .conflict && r.reason == 0x09 then { r with dirty := true } else r }

/-- An entry of a slot that holds no record any more (R344). -/
def RSlot.emptied (r : RSlot) (ver : Word) : RSlot :=
  { RSlot.fresh r.dom r.ix with seenVer := ver, dirty := r.dirty }

/-- Has the slot's record taken any effect. -/
def hasEffect (s : State) (r : RSlot) : Bool := r.conv.isSome || (r.kind == 6 && r.claims && (programOf s r.tvd r.id).isSome)

/-- A program that was partly placed and whose record is now in conflict: what there is of it goes (R344, R359). -/
def leftover (s : State) (r : RSlot) : Bool := r.conv.isNone && r.want.isNone && !r.deleting && hasEffect s r

/-- The slot's record is to go: at once if it has no effect, by a deletion step otherwise (R339, R342, R361). -/
def dropRecord (s : State) (r : RSlot) (ver : Word) : State :=
  if hasEffect s r then setEntry s { r with deleting := true, want := none, state := .pending, reason := 0, seenVer := ver } 0
  else
    let s1 := setEntry s (r.emptied ver) 0
    if r.claims then recheckClaims s1 else s1

/-- The first dependency of a record that has not converged makes it wait (R350). -/
def depsWait (s : State) (b : List Byte) : Bool := (depsOf b).any fun t => !recConverged s t.1 t.2.1 t.2.2

/-- A stable record whose slot holds no other: it is examined. A slot keeps the claim that it has (R341). -/
def judge (s : State) (r : RSlot) (b : List Byte) : State :=
  let v := manVer b
  let described := { r with kind := manKind b, tvd := manTvd b, id := manId b, seenVer := v, want := none, deleting := false }
  let conflict := fun (reason det : Nat) => setEntry s { described with state := .conflict, reason := reason } det
  let pending := setEntry s { described with
    state := .pending, reason := if !r.running && depsWait s b then 1 else 0, want := some b, claims := true } 0
  match examine s r.dom r.ix b, r.conv with
  | some (reason, det), _ => conflict reason det
  | none, none => pending
  | none, some old =>
    if v.toNat ≤ r.convVer.toNat ∧ b.drop 4 ≠ old.drop 4 then conflict 0x06 0
    else if v = r.convVer then setEntry s { described with state := .converged, reason := doneReason s r } 0
    else match if r.convVer.toNat < v.toNat then fixedBreach old b else none with
      | some o => conflict 0x0B o
      | none => pending

/-- ReadSlot and what follows from it (R340 to R342). -/
def readSlot (s : State) (dom ix : Nat) : State :=
  let r := { slotAt s dom ix with dirty := false }
  let b := s.bytesAt (.area dom (256 * ix)) 256
  let v := manVer b
  let s1 := putSlot s r
  if v.toNat % 2 = 1 then s1
  else if manKind b = 0 then (if r.claims then dropRecord s1 r v else setEntry s1 (r.emptied v) 0)
  else if crc32c (b.drop 0x30) ≠ manAt b 0x0C 4 then setEntry s1 { r with seenVer := v, reason := 0x05 } 0
  else if r.claims && (r.tvd != manTvd b || r.kind != manKind b || r.id != manId b) then
    let s2 := dropRecord s1 r v
    if hasEffect s1 r then s2 else judge s2 (slotAt s2 dom ix) b
  else judge s1 r b

/-- Does a slot hold a newer version of its program, for a restart that is ending the old launch to create (R359). -/
def supersedes (s : State) (r : RSlot) : Bool :=
  let b := s.bytesAt (.area r.dom (256 * r.ix)) 256
  r.want.isSome && (programOf s r.tvd r.id).any (fun p => r.want != some p.record) &&
  (manVer b).toNat % 2 == 0 && manKind b == r.kind && manTvd b == r.tvd && manId b == r.id &&
  crc32c (b.drop 0x30) == manAt b 0x0C 4 && (examine s r.dom r.ix b).isNone && decide (r.convVer.toNat < (manVer b).toNat)

/-- A slot whose record's step runs is read when the step has ended (R361), but for a newer version that a restart takes (R359). -/
def stepHolds (s : State) (r : RSlot) : Bool := r.running && !supersedes s r

/-- The device that an area serves. -/
def domDevice (dom : Nat) : Nat := if dom ≤ 64 then dom else dom - 64

/-- May the reconciler read an area now (R439, R488, R495). -/
def areaReadable (s : State) (dom : Nat) : Bool :=
  s.hub.boot == 4 && areaExists s dom && deviceWorks s (domDevice dom)

/-- A slot inserted by ascending domain, then index. -/
def insertSlot (x : Nat × Nat) : List (Nat × Nat) → List (Nat × Nat)
  | [] => [x]
  | y :: l => if x.1 < y.1 ∨ (x.1 = y.1 ∧ x.2 < y.2) then x :: y :: l else y :: insertSlot x l

/-- The slots of a pass: every dirty slot of an area that may be read (R341). -/
def newPass (s : State) : List (Nat × Nat) :=
  (s.hub.slots.filter fun r => r.dirty && areaReadable s r.dom && !stepHolds s r).foldl (fun l r => insertSlot (r.dom, r.ix) l) []

/-! ### The checks before a step (R350) -/

/-- Do two ranges meet. -/
def rangesMeet (a n b m : Nat) : Bool := decide (0 < n) && decide (0 < m) && decide (a < b + m) && decide (b < a + n)

/-- The converged partitions of the other devices. -/
def otherParts (s : State) (vd : Nat) : List Partition :=
  s.vds.filterMap fun v => if v.1 = vd then none else v.2.part

/-- Must a partition wait for room (R386). -/
def partitionWaits (s : State) (vd : Nat) (p : Partition) : Bool :=
  let others := otherParts s vd
  let common := fun (o : Partition) => p.cores.any fun c => o.cores.contains c
  let shares := fun (o : Partition) => p.region != 0 && o.region == p.region
  (others.any fun o => common o && ((!shares o && (rangesMeet p.gfirst p.gcount o.gfirst o.gcount ||
      rangesMeet p.rfirst p.rcount o.rfirst o.rcount || rangesMeet p.sfirst p.scount o.sfirst o.scount ||
      rangesMeet p.afirst p.acount o.afirst o.acount || p.slots.any fun n => o.slots.contains n)) ||
    rangesMeet p.pfirst p.pcount o.pfirst o.pcount)) ||
  (others.any fun o => (p.chsets.any fun c => o.chsets.contains c) || p.oasis.any fun c => o.oasis.contains c) ||
  (p.cores.any fun c =>
    let on := others.filter fun o => o.cores.contains c
    decide (4096 < p.marks + (on.map (·.marks)).sum) || decide (16 < p.bins + (on.map (·.bins)).sum) ||
    decide (16 < p.census + (on.map (·.census)).sum)) ||
  decide (4096 < p.qcount + (others.map (·.qcount)).sum) ||
  (p.region != 0 && decide (8 ≤ (others.filter fun o => o.region == p.region).length))

/-- Does a partition of a region disagree with another of the region (R386). -/
def regionDisagrees (s : State) (vd : Nat) (p : Partition) : Bool :=
  p.region != 0 && (otherParts s vd).any fun o => o.region == p.region &&
    !(o.cores == p.cores && o.gfirst == p.gfirst && o.gcount == p.gcount && o.rfirst == p.rfirst && o.rcount == p.rcount &&
      o.sfirst == p.sfirst && o.scount == p.scount && o.afirst == p.afirst && o.acount == p.acount && o.slots == p.slots)

/-- Units of `u` frames, aligned, from free frames in rising order: as many as there are, up to `n` (R412).
Beyond the rule's words: DESIGN CHOICE, log entry 18. -/
def unitsFrom : List (Nat × Nat) → Nat → Nat → List (Nat × Nat)
  | [], _, _ => []
  | r :: l, n, u =>
    let first := (r.1 + u - 1) / u * u
    let k := min n ((r.1 + r.2 - first) / u)
    if k = 0 then unitsFrom l n u else (first, k * u) :: unitsFrom l (n - k) u

/-- Frames of runs. -/
def runLength (runs : List (Nat × Nat)) : Nat := (runs.map (·.2)).sum

/-- Frames of `bytes` bytes. -/
def framesOf (bytes : Nat) : Nat := (bytes + 65535) / 65536

/-- A run of frames taken. -/
def takeRun (free : List (Nat × Nat)) (q : Nat × Nat) : List (Nat × Nat) :=
  free.flatMap fun r =>
    if r.1 ≤ q.1 ∧ q.1 + q.2 ≤ r.1 + r.2 then
      (if r.1 < q.1 then [(r.1, q.1 - r.1)] else []) ++
      (if q.1 + q.2 < r.1 + r.2 then [(q.1 + q.2, r.1 + r.2 - (q.1 + q.2))] else [])
    else [r]

/-- Runs of frames merged where they touch. -/
def mergeFrames : List (Nat × Nat) → List (Nat × Nat)
  | [] => []
  | r :: l => match mergeFrames l with
    | q :: m => if r.1 + r.2 = q.1 then (r.1, r.2 + q.2) :: m else r :: q :: m
    | [] => [r]

/-- A run of frames given back. -/
def giveRun (free : List (Nat × Nat)) (q : Nat × Nat) : List (Nat × Nat) :=
  if q.2 = 0 then free
  else mergeFrames ((free.filter fun r => r.1 < q.1) ++ [q] ++ free.filter fun r => q.1 ≤ r.1)

/-- Frames given back. -/
def giveFrames (d : VDev) (runs : List (Nat × Nat)) : VDev := { d with frames := runs.foldl giveRun d.frames }

/-- `n` units of `u` frames allocated; none when too few are free (R412). -/
def allot (d : VDev) (n u : Nat) : Option (List (Nat × Nat) × VDev) :=
  let runs := unitsFrom d.frames n u
  if runLength runs < n * u then none else some (runs, { d with frames := runs.foldl takeRun d.frames })

/-- Several allocations one after the other. -/
def allotAll (d : VDev) : List (Nat × Nat) → Option (List (List (Nat × Nat)) × VDev)
  | [] => some ([], d)
  | (n, u) :: l => (allot d n u).bind fun p => (allotAll p.2 l).map fun q => (p.1 :: q.1, q.2)

/-- The tables that a device's records need and that it has not (R362). -/
def missingTables (d : VDev) : List (Nat × Nat) :=
  (neededTables d).filter fun t => !(d.tables.any fun q => q.1 == t.1 && q.2.1 == t.2)

/-- A device's missing tables built, in frames of its own; none when too few are free (R362, R412). -/
def buildTables (d : VDev) : Option VDev :=
  let need := missingTables d
  (allot d need.length 1).map fun p =>
    { p.2 with tables := p.2.tables ++ (need.zipIdx).map fun t => (t.1.1, t.1.2, frameAt p.1 t.2) }

/-- The tables that no record of a device needs any more go, with their frames (R352). -/
def dropTables (d : VDev) : VDev :=
  let stays := fun (t : Nat × Nat × Nat) => (neededTables d).contains (t.1, t.2.1)
  giveFrames { d with tables := d.tables.filter stays } (((d.tables.filter fun t => !stays t)).map fun t => (t.2.2, 1))

/-- The frames that a mapping takes but for its tables at levels 1 and 2: its level-3 tables and pool (SELF), or its pages: number
and unit (R355, R362, R376). -/
def mappingFrames (m : Mapping) : List (Nat × Nat) :=
  if m.self then [(m.tables, 1), (m.pool, 1)]
  else if m.loc = 0 then [(if m.pg256 then m.size / 2 ^ 28 else m.size / 2 ^ 16, if m.pg256 then 2 ^ 12 else 1)] else []

/-- A mapping given its frames and tables; none when too few frames are free (R355, R362, R376, R412). -/
def placeMapping (d : VDev) (m : Mapping) : Option (Mapping × VDev) :=
  (allotAll d (mappingFrames m)).bind fun p =>
    let m1 : Mapping := if m.self then { m with tableRuns := p.1.getD 0 [], poolRuns := p.1.getD 1 [] } else { m with runs := p.1.getD 0 [] }
    (buildTables { p.2 with maps := p.2.maps ++ [m1] }).map fun d1 => (m1, d1)

/-- Is every byte of a range in a converged writable mapping of the device (R356). -/
def writableRange (s : State) (vd va n : Nat) : Bool :=
  (upto (n / 65536 + 2)).all fun i =>
    let a := if i = 0 then va else (va / 65536 + i) * 65536
    decide (va + n ≤ a) || (s.vd vd).maps.any fun m => !m.system && decide (m.va ≤ a) && decide (a < m.va + m.size) && m.w

/-- The bytes of a weight window's image and tree, or of an exchange window (R413, R415). -/
def windowBytes (b : List Byte) : Nat :=
  let size := manAt b 0x30 8
  if manField b 0x40 31 30 = 1 then size + treeBytes size else size

/-- The owner record that a joiner may join now (R414). -/
def joinable (s : State) (vd : Nat) (b : List Byte) : Bool :=
  match claimant s (manField b 0x44 6 0) 3 (manField b 0x44 31 16) with
  | some r => match r.conv with
    | some o => manField o 0x40 29 29 == 0 && manField o 0x40 31 30 == manField b 0x40 31 30 &&
        decide (1 ≤ vd) && (manAt o 0x48 8).testBit (vd - 1)
    | none => false
  | none => false

/-- Has a depot of a queue its core outside the device's core set (R229). -/
def depotOutside (s : State) (vd : Nat) (b : List Byte) : Bool :=
  decide (2 ^ 63 ≤ manAt b 0x48 8) && match (s.vd vd).part with
    | some p => !p.cores.contains (bitsOf (manAt b 0x48 8) 48 8)
    | none => true

/-- The cores on which a program's team could go, and whether it fits on one (R331, R358). -/
def programCore (s : State) (p : Program) : Option Nat := coreFor s p.vd p.aff p.launch

/-- Does a device exceed its energy share (R403). -/
def overEnergy (s : State) (vd : Nat) : Bool :=
  match (s.vd vd).part with
  | some p => p.eshare != 0 && decide (p.eshare < (s.vd vd).power)
  | none => false

/-! ### Contexts, mappings and programs as records -/

/-- The context of a body; what its creation fixes is given (R354, R419, R426). -/
def contextOf (b : List Byte) (effMask : Nat) (unlocked : Bool) : Context where
  stallchk := manField b 0x30 1 1 = 1
  prot := manField b 0x30 0 0 = 1
  vismask := manField b 0x34 4 0
  slice := if manField b 0x38 4 0 = 0 then 20 else manField b 0x38 4 0
  budget := if manAt b 0x3C 4 = 0 then 20000 else manAt b 0x3C 4
  bintimer := if manField b 0x40 15 0 = 0 then 1024 else manField b 0x40 15 0
  notlog := manField b 0x44 7 4
  errlog := manField b 0x44 3 0
  handler := manAt b 0x48 8
  jobctr := manAt b 0x50 8
  effMask := effMask
  unlocked := unlocked

/-- A context given the frames of its notification queue, and its tables; none when too few are free (R374, R412). -/
def placeContext (d : VDev) (c : Context) : Option VDev :=
  (allot d 2 1).bind fun p => buildTables { p.2 with sysRuns := p.1, ctx := some c }

/-- Do two ranges of addresses meet. -/
def spansMeet (a n b m : Nat) : Bool := decide (a < b + m) && decide (b < a + n)

/-- The mapping of a body, with no frames. -/
def mappingOf (b : List Byte) (id : Nat) : Mapping where
  id := id
  va := manAt b 0x30 8
  size := manAt b 0x38 8
  srca := manAt b 0x40 8
  loc := manField b 0x4C 2 0
  w := manField b 0x4C 3 3 = 1
  x := manField b 0x4C 4 4 = 1
  pg256 := manField b 0x4C 5 5 = 1
  ace := manField b 0x4C 6 6 = 1
  thresh := manField b 0x4C 15 7
  self := manField b 0x4C 16 16 = 1
  pexp := manField b 0x4C 17 17 = 1
  pool := manField b 0x50 10 0
  wid := manField b 0x54 31 16
  pvd := manField b 0x54 14 8
  port := manField b 0x54 3 0
  runs := []
  poolRuns := []
  tableRuns := []
  cnt := []
  system := false

/-- Does a mapping meet another of its device, or the span of a self-managed one (R355, R376). -/
def mappingOverlaps (d : VDev) (m : Mapping) : Bool :=
  (d.maps.filter fun k => !k.system).any fun k =>
    spansMeet m.va m.span k.va k.span && (spansMeet m.va m.size k.va k.size || k.self || m.self)

/-- The breach of a mapping against what exists: the offset of its field (R355, R364, R376, R414, R437).
Beyond the rule's words: DEDUCED, log entry 36. -/
def mappingBreach (s : State) (vd : Nat) (m : Mapping) : Option Nat :=
  if mappingOverlaps (s.vd vd) m then some 0x30
  else if m.loc = 3 then match windowOf s vd m.wid with
    | some w => if m.x || (!w.exchange && m.w) then some 0x4C else none
    | none => none
  else if m.loc = 2 ∧ !((s.hub.ports[m.port]?).map (·.up)).getD false then some 0x54
  else none

/-- The groups of a launch that are units: responders answer on (R325, R359). -/
def launchGroups (s : State) (vd : Nat) (lid : Word) : List Group :=
  s.groups.filter fun g => g.vd == vd && g.launch.lid == lid && g.responder.isNone

/-- The address at which a program's image is mapped (R358). -/
def programVa (id : Nat) : Nat := 0x000FF00000000000 + 2 ^ 24 * id

/-- The mapping of a program's image (R358). -/
def imageMapping (id bytes : Nat) : Mapping :=
  { mappingOf (List.replicate 256 0) id with va := programVa id, size := 65536 * framesOf bytes, x := true, system := true }

/-- The pending reason that holds a record's creation or change, or 0: a conflict with what exists is no wait (R350, R354 to
R359, R386, R403, R412 to R414, R436). -/
def bodyWait (s : State) (r : RSlot) (b : List Byte) : Nat :=
  let d := s.vd r.tvd
  match r.kind with
  | 1 => if r.conv.isNone ∧ !regionDisagrees s r.tvd (partitionOf b) ∧ partitionWaits s r.tvd (partitionOf b) then 0x02 else 0
  | 2 => if manField b 0x30 0 0 = 1 ∧ d.tdi ≠ .run then 0x01
    else if d.ctx.isNone ∧ (placeContext d (contextOf b 0 false)).isNone then 0x02 else 0
  | 3 =>
    if r.conv.isSome then 0
    else if manField b 0x40 29 29 = 1 then (if joinable s r.tvd b then 0 else 0x01)
    else if 256 ≤ s.hub.windows.length ∨ (allot d (framesOf (windowBytes b)) 1).isNone then 0x02 else 0
  | 4 =>
    let m := mappingOf b r.id
    if r.conv.isNone ∧ (mappingBreach s r.tvd m).isNone ∧ (placeMapping d m).isNone then 0x02 else 0
  | 5 =>
    if r.conv.isSome then 0
    else if !writableRange s r.tvd (manAt b 0x30 8) (64 * 2 ^ manField b 0x40 4 0) || !writableRange s r.tvd (manAt b 0x38 8) 16 ||
        depotOutside s r.tvd b then 0x0D
    else match d.part with
      | some p => if p.qcount ≤ r.id then 0x02 else 0
      | none => 0x02
  | 6 =>
    match programOf s r.tvd r.id with
    | none => if (placeMapping d (imageMapping r.id (manAt b 0x38 4))).isNone then 0x02 else 0
    | some p =>
      if p.record = b then
        (if launchCancelled s r.tvd (withJob s r.tvd p.launch) then 0 else if overEnergy s r.tvd then 0x0E
         else if (programCore s p).isSome then 0 else 0x02)
      else if manField b 0x3C 13 12 = 0 ∧ launchGroups s r.tvd p.launch.lid ≠ [] then 0x03 else 0
  | _ => 0

/-! ### NextStep (R350) -/

/-- Records to delete, in descending KIND, then descending ID; pending records in ascending order. -/
def insertRec (down : Bool) (x : RSlot) : List RSlot → List RSlot
  | [] => [x]
  | y :: l =>
    let lt := decide (x.kind < y.kind) || (x.kind == y.kind && decide (x.id < y.id))
    if lt != down then x :: y :: l else y :: insertRec down x l

/-- A reason, where the entry does not show a torn read, which stands until the slot is read again (R340, R503). -/
def RSlot.reasonOr (r : RSlot) (reason : Nat) : Nat := if r.reason = 0x05 then 0x05 else reason

/-- The deletions of a device in order; those that a converged record holds back are in conflict 0x04. -/
def nextDeletion (s : State) : List RSlot → Option RSlot × State
  | [] => (none, s)
  | r :: l =>
    if !r.deleting then (some r, s)
    else match dependant s (r.tvd, r.kind, r.id) with
      | some t =>
        let held := { r with state := .conflict, reason := if r.state = .conflict then r.reasonOr 0x04 else 0x04 }
        nextDeletion (setEntry s held (2 ^ 40 * t.2.1 + 2 ^ 32 * t.1 + t.2.2)) l
      | none =>
        let r1 := { r with state := .pending, reason := r.reasonOr 0 }
        (some r1, setEntry s r1 0)

/-- Why a record's creation or change waits, or 0 (R350). -/
def waitOf (s : State) (r : RSlot) (b : List Byte) : Nat := if depsWait s b then 1 else bodyWait s r b

/-- The creations and changes of a device in order; those that must wait show why. -/
def nextChange (s : State) : List RSlot → Option RSlot × State
  | [] => (none, s)
  | r :: l =>
    match r.want with
    | none => nextChange s l
    | some b =>
      let why := waitOf s r b
      let r1 := { r with reason := r.reasonOr why }
      if why = 0 then (some r1, setEntry s r1 0) else nextChange (setEntry s r1 0) l

/-- The record of a device whose step is under way (R350). -/
def runningSlot (s : State) (vd : Nat) : Option RSlot := s.hub.slots.find? fun r => r.tvd == vd && r.running

/-- The next step of a device, that under way before any other: a deletion (true), or a creation or change, and the state with
the reasons of those that wait (R350). -/
def nextStep (s : State) (vd : Nat) : Option (Bool × RSlot) × State :=
  if s.hub.boot ≠ 4 ∨ !deviceWorks s vd then (none, s)
  else match runningSlot s vd with
  | some r => (some (r.want.isNone, r), s)
  | none =>
    let mine := s.hub.slots.filter fun r => r.tvd == vd && r.claims
    match nextDeletion s ((mine.filter fun r => r.deleting || leftover s r).foldl (fun l r => insertRec true r l) []) with
    | (some r, s1) => (some (true, r), s1)
    | (none, s1) =>
      match nextChange s1 ((mine.filter fun r => r.want.isSome && !r.deleting).foldl (fun l r => insertRec false r l) []) with
      | (some r, s2) => (some (false, r), s2)
      | (none, s2) => (none, s2)

/-- The reasons of a device's records after a step (R346, R350). -/
def settleDevice (s : State) (vd : Nat) : State := (nextStep s vd).2

/-- A step goes on in a later event; when it has to wait for room, for energy or for groups, it rests and others may run (R350,
R358). -/
def goOn (s : State) (r : RSlot) (b : List Byte) : State :=
  let why := waitOf s r b
  settleDevice (setEntry s { r with state := .pending, reason := r.reasonOr why, running := why == 0 } 0) r.tvd

/-- The slots that are still to be read: those of the pass under way, or of a new one (R341). -/
def slotsToRead (s : State) : List (Nat × Nat) :=
  let old := s.hub.pass.filter fun p => (slotAt s p.1 p.2).dirty && areaReadable s p.1 && !stepHolds s (slotAt s p.1 p.2)
  if old = [] then newPass s else old

/-- A failing line of a slot (R481). -/
def slotBad (s : State) (dom ix : Nat) : Option (Nat × Nat) :=
  (hubLineBad s (.area dom (256 * ix))).or (hubLineBad s (.area dom (256 * ix + 128)))

/-- READ_SLOT: the next slot of the pass is read; a failing line of it is device 0's, and fences the package (R340, R341, R481). -/
def execReadSlot (dom slot : Nat) (s : State) : Out :=
  match slotsToRead s with
  | p :: rest =>
    if p ≠ (dom, slot) then .next s
    else match slotBad s dom slot with
    | some b => .next (fenceOwner s 0 b.1 0xFF b.2)
    | none =>
      let s1 := readSlot (s.modHub fun h => { h with pass := rest }) dom slot
      .next (if rest = [] then (upto 65).foldl settleDevice s1 else s1)
  | [] => .next s

end Sys2Proof.Machine
end

