-- ==== Sys2Proof/Machine/Steps.lean ====
section
/-! DEFINITION. The reconciler's creations and changes: partitions (R385, R386), contexts with their rings (R354, R448),
windows (R413 to R417), mappings (R355, R364, R376), queues (R356), resident programs (R357 to R360), the envelope (R401)
and key releases (R423, R424); and what deleting a record undoes (R352). -/

namespace Sys2Proof.Machine

/-! ### How a step ends -/

/-- The end of a creation or change: its effect is in place, it is in conflict, or it cannot end yet. -/
inductive StepEnd where
  | ok (s : State)
  | conflict (s : State) (reason detail : Nat)
  | wait (s : State)

/-- The entry after a step (R344, R348, R361). -/
def endStep (r : RSlot) (b : List Byte) : StepEnd → State
  | .ok s =>
    let done := { r with state := .converged, reason := r.reasonOr 0, conv := some b, convVer := manVer b, want := none,
                         running := false }
    settleDevice (setEntry s done 0) r.tvd
  | .conflict s reason detail =>
    settleDevice (setEntry s { r with state := .conflict, reason := reason, want := none, running := false } detail) r.tvd
  | .wait s => s

/-- The next step of a device, if it is a creation or change of a kind (R350). -/
def stepOf (s : State) (vd kind : Nat) (f : State → RSlot → List Byte → StepEnd) : Out :=
  match nextStep s vd with
  | (some (false, r), s1) =>
    match r.want with
    | some b => if r.kind = kind then .next (endStep r b (f s1 r b)) else .next s
    | none => .next s
  | _ => .next s

/-! ### Partitions (R385, R386, R405, R422) -/

/-- A new key drawn for a device (R405). -/
def drawKey (s : State) (vd : Nat) : State :=
  (s.modVd vd fun d => { d with key := some s.hub.draws }).modHub fun h => { h with draws := h.draws + 1 }

/-- A partition step completes: the layout generation rises (R422). -/
def bumpLayout (s : State) : State := s.modHub fun h => { h with layoutGen := h.layoutGen + 1 }

/-- The slots of a device that holds them alone are granted, invalid and zero (R239). -/
def grantSlots (s : State) (vd : Nat) (p : Partition) : State :=
  if p.region ≠ 0 then s
  else p.cores.foldl (fun st c => p.slots.foldl (fun st n => setSlot (st.clearBytes (.slot c n 0) slotBytes) c vd n .invalid) st) s

/-- The creation or change of a partition. -/
def makePartition (s : State) (r : RSlot) (b : List Byte) : StepEnd :=
  let p := partitionOf b
  if regionDisagrees s r.tvd p then .conflict s 0x0A 0x48
  else if r.conv.isSome then
    .ok (bumpLayout (s.modVd r.tvd fun d => { d with
      part := d.part.map fun (q : Partition) => { q with tokshare := p.tokshare, eshare := p.eshare } }))
  else
    let s1 := drawKey s r.tvd
    let s2 := s1.modVd r.tvd fun d => { d with part := some p, counted := true, frames := [(0, p.chsets.length * Config.framesPerSet)] }
    .ok (bumpLayout (grantSlots (s2.modVd r.tvd fun d => (buildTables d).getD d) r.tvd p))

/-- STEP_PARTITION (R385, R386, R388). -/
def execStepPartition (vd : Nat) (s : State) : Out := stepOf s vd 1 makePartition

/-! ### Contexts (R354, R418, R419, R426, R448) -/

/-- A ring takes a new size: its unread entries move, the oldest first; those that find no room are dropped (R448). -/
def resizeRing (s : State) (vd size : Nat) : State :=
  let old := (s.vd vd).ringSize
  if vd = 0 ∨ old = size then s
  else
    let prod := sysWord s vd ringCtl
    let cons := sysWord s vd (ringCtl + 8)
    let unread := min old ((prod + 2 ^ 32 - cons) % 2 ^ 32)
    let kept := min unread size
    let entries := (upto kept).map fun i => s.bytesAt (.sys vd (ringEntries + 64 * ((cons + i) % old))) 64
    let s1 := (s.clearBytes (.sys vd ringEntries) (64 * old)).modVd vd fun d => { d with ringSize := size }
    let s2 := (entries.zipIdx).foldl (fun st p => st.putBytes (.sys vd (ringEntries + 64 * ((cons + p.2) % size))) p.1) s1
    if unread ≤ size then s2
    else
      setStatus (setSysWord (setSysWord s2 vd ringCtl (cons + size)) vd (ringCtl + 4)
        (sysWord s2 vd (ringCtl + 4) + (unread - size))) vd stOverflow

/-- The creation or change of a context. -/
def makeContext (s : State) (r : RSlot) (b : List Byte) : StepEnd :=
  match (s.vd r.tvd).ctx with
  | some c => .ok (s.modVd r.tvd fun d => { d with ctx := some (contextOf b c.effMask c.unlocked) })
  | none =>
    let open_ := s.hub.duState == 1
    let c := contextOf b (if open_ then 0x1F else manField b 0x34 4 0) open_
    match placeContext (s.vd r.tvd) c with
    | none => .wait s
    | some d => .ok (resizeRing (s.setVd r.tvd d) r.tvd (2 ^ (c.errlog + 4)))

/-- STEP_CONTEXT (R354, R418, R436, R448). -/
def execStepContext (vd : Nat) (s : State) : Out := stepOf s vd 2 makeContext

/-! ### Windows (R413 to R417) -/

/-- Change the window record `id` of device `vd`. -/
def onWindow (s : State) (vd id : Nat) (f : Window → Window) : State :=
  let upd (w : Window) : Window := if w.vd == vd && w.id == id then f w else w
  s.modHub fun h => { h with windows := h.windows.map upd }

/-- The creation or change of a window; `readOk` is how the read of a weight image ends. -/
def makeWindow (readOk : Bool) (s : State) (r : RSlot) (b : List Byte) : StepEnd :=
  let wvd := if manField b 0x40 29 29 = 1 then manField b 0x44 6 0 else r.tvd
  let wid := if manField b 0x40 29 29 = 1 then manField b 0x44 31 16 else r.id
  let renew (w : Window) : Window := { w with members := manAt b 0x48 8 }
  let join (w : Window) : Window := { w with joiners := w.joiners ++ [(r.tvd, r.id)] }
  if r.conv.isSome then .ok (onWindow s r.tvd r.id renew)
  else if manField b 0x40 29 29 = 1 then .ok (onWindow s wvd wid join)
  else
    let weight := manField b 0x40 31 30 = 1
    let n := windowBytes b
    match allot (s.vd r.tvd) (framesOf n) 1 with
    | none => .wait s
    | some (runs, d) =>
      if weight ∧ !readOk then .conflict s 0x0A 0x38
      else
        let w : Window :=
          { uid := s.fresh, vd := r.tvd, id := r.id, exchange := !weight, size := manAt b 0x30 8, runs := runs,
            members := manAt b 0x48 8, root := BitVec.ofNat 64 (manAt b 0x50 8),
            key := if weight then none else some (Config.drawnKey s.hub.draws), joiners := [], leaves := [], inner := [],
            bad := [], broken := none }
        let s1 := (s.setVd r.tvd d).modHub fun h =>
          { h with windows := h.windows ++ [w], draws := if weight then h.draws else h.draws + 1 }
        let s2 := { s1 with fresh := s1.fresh + 1 }
        .ok (if weight then s2.copyBytes (.host (manAt b 0x38 8)) (.win w.uid 0) n else s2)

/-- STEP_WINDOW (R413, R414, R415, R417). -/
def execStepWindow (vd : Nat) (readOk : Bool) (s : State) : Out := stepOf s vd 3 (makeWindow readOk)

/-! ### Mappings (R355, R364, R376) -/

/-- The entry of page `k` of a self-managed mapping as it is created (R363, R376). -/
def selfEntry (m : Mapping) (k : Nat) : Nat :=
  let frame := if m.loc = 1 then m.srca / 65536 + k else k
  frame % 2 ^ 36 * 2 ^ 16 + m.loc * 2 ^ 5 + 2 ^ 4 + (if m.x then 8 else 0) + (if m.w then 4 else 0) + 1 +
    (if m.ace then 2 ^ 54 else 0)

/-- Bytes of host memory copied to the start of what lies in runs of frames; its lines are written (R355, R411). -/
def copyIn (s : State) (vd src : Nat) (runs : List (Nat × Nat)) (n : Nat) : State :=
  (upto ((n + 127) / 128)).foldl (fun st i => st.bumpLine (.hbm vd (hbmAt runs (128 * i))))
    ((s.mem.filter fun c => decide ((Loc.host src).key ≤ c.1) && decide (c.1 < (Loc.host src).key + n)).foldl
      (fun st c => { st with mem := st.mem.write (Loc.hbm vd (hbmAt runs (c.1 - (Loc.host src).key))).key c.2 }) s)

/-- The entries of a self-managed mapping's tables written (R376). -/
def writeTables (s : State) (vd : Nat) (m : Mapping) : State :=
  (upto (m.size / 65536)).foldl (fun st k =>
    st.putBytes (.hbm vd (selfEntryAt m (m.va + 65536 * k))) (natLe 8 (selfEntry m k))) s

/-- The creation of a mapping. -/
def createMapping (readOk : Bool) (s : State) (r : RSlot) (b : List Byte) : StepEnd :=
  let m0 := mappingOf b r.id
  match mappingBreach s r.tvd m0, placeMapping (s.vd r.tvd) m0 with
  | some o, _ => .conflict s 0x0A o
  | none, none => .wait s
  | none, some (m, d) =>
    let ilen := manAt b 0x48 4
    if ilen ≠ 0 ∧ !readOk then .conflict s 0x0A 0x40
    else
      let s1 := s.setVd r.tvd d
      let s2 := if m.self then writeTables s1 r.tvd m else s1
      .ok (if ilen = 0 then s2 else copyIn s2 r.tvd m.srca (if m.self then m.poolRuns else m.runs) ilen)

/-- Cached translations of a mapping's pages are dropped on every core (R351, R368, R372). -/
def dropTranslations (s : State) (vd : Nat) (m : Mapping) : State := dropTlb s vd (s.vd vd).gen (m.va / 65536) (m.span / 65536)

/-- The change of a mapping: W, X, ACE and THRESH (R355, R376). -/
def changeMapping (s : State) (r : RSlot) (b : List Byte) : StepEnd :=
  match (s.vd r.tvd).maps.find? fun m => m.id == r.id && !m.system with
  | none => .ok s
  | some m =>
    let m1 := { mappingOf b r.id with runs := m.runs, poolRuns := m.poolRuns, tableRuns := m.tableRuns, cnt := m.cnt }
    match windowOf s r.tvd m.wid with
    | some w =>
      if m.loc = 3 ∧ (m1.x || (!w.exchange && m1.w)) then .conflict s 0x0A 0x4C
      else .ok (put s m m1)
    | none => .ok (put s m m1)
where
  put (s : State) (m m1 : Mapping) : State :=
    dropTranslations (s.modVd r.tvd fun d => { d with maps := d.maps.map fun (k : Mapping) =>
      if k.id == m.id && !k.system then m1 else k }) r.tvd m

/-- STEP_MAPPING (R355, R364, R376, R412). -/
def execStepMapping (vd : Nat) (readOk : Bool) (s : State) : Out :=
  stepOf s vd 4 fun st r b => if r.conv.isSome then changeMapping st r b else createMapping readOk st r b

/-! ### Queues (R356) -/

/-- The creation or change of a queue: RES takes PROD, and a stopped queue parses again (R327, R497). -/
def makeQueue (s : State) (r : RSlot) (b : List Byte) : StepEnd :=
  let s0 := s.modHub fun h => { h with stops := h.stops.filter fun x => !(x.1 == r.tvd && x.2.1 == r.id) }
  if r.conv.isSome then
    .ok (modQueue s0 r.tvd r.id fun k => { k with aff := manField b 0x40 27 16, prio := manField b 0x40 10 8 })
  else
    let ctrl := manAt b 0x38 8
    let prod := hubNat s r.tvd ctrl 4
    let q : Queue := { q := r.id, base := manAt b 0x30 8, ctrl := ctrl, proxy := manField b 0x40 31 31 = 1,
                       depot := BitVec.ofNat 64 (manAt b 0x48 8), aff := manField b 0x40 27 16, prio := manField b 0x40 10 8,
                       logsz := manField b 0x40 4 0, parsed := [], begun := [], head := BitVec.ofNat 32 (hubNat s r.tvd (ctrl + 4) 4),
                       taken := 0 }
    let s1 := if hubNat s r.tvd (ctrl + 8) 4 = prod then s0 else hubWord s0 r.tvd (ctrl + 8) prod
    .ok (s1.modVd r.tvd fun d => { d with queues := d.queues ++ [q] })

/-- STEP_QUEUE (R327, R356). -/
def execStepQueue (vd : Nat) (s : State) : Out := stepOf s vd 5 makeQueue

/-! ### Resident programs (R357 to R360) -/

/-- Does a program's image, as words of the host's memory, break R317 or R509, or reach past its end (R357). -/
def imageBreach (w : Nat → Nat → Nat) (n : Nat) : Bool :=
  let kc := bitsOf (w 0x20 4) 20 7
  let d := imageAt kc
  let spi := bitsOf (w 0x1C 4) 31 1 = 1
  (firstFault (launchChecks w)).isSome || decide (n < 0x40 + 4 * kc) || decide (n < w 0 8 + 4 * w 0x10 4) ||
  (w 0x14 4 != 0 && decide (n < w 8 8 + 12 * w 0x14 4)) ||
  (spi && (decide (n < d + 16) || (firstFault (imageChecks w)).isSome || decide (n < w d 8 + w (d + 8) 4)))

/-- The creation of a program up to the placing of its teams (R358). -/
def createProgram (readOk : Bool) (s : State) (r : RSlot) (b : List Byte) : StepEnd :=
  let n := manAt b 0x38 4
  let w := fun off k => s.natAt (.host (manAt b 0x30 8 + off)) k
  match programOf s r.tvd r.id, placeMapping (s.vd r.tvd) (imageMapping r.id n) with
  | some _, _ => .wait s
  | none, none => .wait s
  | none, some (m, d) =>
    if !readOk ∨ imageBreach w n then .conflict s 0x10 0
    else
      let va := programVa r.id
      let l0 := launchOf w
      let l := { l0 with lid := BitVec.ofNat 32 (0x60000000 + r.id), scode := va + l0.scode, lcode := (va + l0.lcode) % 2 ^ 64,
                         image := l0.image.map fun i => (va + i.1, i.2) }
      let s1 := copyIn (s.setVd r.tvd d) r.tvd (manAt b 0x30 8) m.runs n
      let put := fun (st : State) (off k v : Nat) => st.putBytes (.hbm r.tvd (hbmAt m.runs off)) (natLe k v)
      let s2 := put (put (put s1 0 8 l.scode) 8 8 l.lcode) 0x18 4 (0x60000000 + r.id)
      let s3 := match l.image with
        | some i => put s2 (imageAt l.consts.length) 8 i.1
        | none => s2
      let p : Program := { vd := r.tvd, id := r.id, record := b, launch := l, runs := m.runs,
                           aff := manField b 0x3C 11 0, placed := 0, tracker := s3.fresh }
      let s4 := (addTracker s3 r.tvd l 0 false (some r.id)).modHub fun h => { h with programs := h.programs ++ [p] }
      .wait (goOn s4 r b)

/-- STEP_PROGRAM_CREATE (R357, R358). -/
def execStepProgramCreate (vd : Nat) (readOk : Bool) (s : State) : Out := stepOf s vd 6 (createProgram readOk)

/-- A program changed. -/
def modProgram (s : State) (vd id : Nat) (f : Program → Program) : State :=
  s.modHub fun h => { h with programs := h.programs.map fun p => if p.vd == vd && p.id == id then f p else p }

/-- A program whose teams have all been placed or cancelled converges (R351, R358). -/
def programPlaced (s : State) (r : RSlot) (p : Program) : State :=
  let s1 := modTracker s (some p.tracker) fun t => { t with allPlaced := true }
  completeLaunches (endStep r p.record (.ok s1))

/-- PROGRAM_TEAM_PLACE: the next team of a program that is being created, unless another step of the device runs (R331, R350, R358,
R403). -/
def execProgramTeamPlace (vd id : Nat) (s : State) : Out :=
  match programOf s vd id, claimant s vd 6 id with
  | some p, some r =>
    if r.want ≠ some p.record ∨ r.deleting ∨ !deviceWorks s vd ∨ s.hub.boot ≠ 4 ∨ (runningSlot s vd).any (· != r) then .next s
    else if launchCancelled s vd (withJob s vd p.launch) then
      let left := (p.launch.teams - p.placed) * p.launch.team
      let s1 := (upto left).foldl (fun st _ => cancelUnplaced st vd p.launch 0) s
      .next (programPlaced (modProgram s1 vd id fun q => { q with placed := q.launch.teams }) r p)
    else match if overEnergy s vd then none else programCore s p with
      | none => .next (goOn s r p.record)
      | some core =>
        let u : UnitArgs := { index := p.placed, entry := p.launch.entry, ranked := false, tracker := some p.tracker }
        let s1 := modProgram (placeTeam s core vd p.launch u) vd id fun q => { q with placed := q.placed + 1 }
        .next (if p.placed + 1 = p.launch.teams then programPlaced s1 r p else goOn s1 r p.record)
  | _, _ => .next s

/-- A group whose program stops, or whose halted state is discarded, retires as cancelled (R359, R451). -/
def discardGroup (s : State) (g : Group) : State :=
  let s1 : State := { s with ops := s.ops.filter fun r => r.gid != g.gid, feqs := s.feqs.filter fun q => q.gid != g.gid }
  countRetired (dropGroup (s1.writeback g.vd g.gid) g) g 8

/-- Has everything that a group issued completed. -/
def groupIdle (s : State) (g : Group) : Bool :=
  g.status == .halted || groupDrained s g 4

/-- What is left of a launch: pending or resident responders (R359). -/
def launchResponders (s : State) (vd : Nat) (lid : Word) : Bool :=
  (s.groups.any fun g => g.vd == vd && g.launch.lid == lid && g.responder.isSome) ||
  s.cores.any fun k => k.2.bins.any fun b => b.vd == vd && b.records.any fun q => q.launch.lid == lid

/-- The marks of a launch leave the directory, as MARKDROP would; those that are moving stay until they have arrived
(R301, R359). -/
def dropLaunchMarks (s : State) (vd : Nat) (lid : Word) : State :=
  { s with cores := s.cores.map fun k => (k.1, { k.2 with
      marks := k.2.marks.filter fun m => !(m.vd == vd && m.launch.lid == lid && m.state == .held) }) }

/-- Bins of a launch are discarded; the group of one that has fired counts as cancelled (R359, R469). -/
def dropLaunchBins (s : State) (vd : Nat) (lid : Word) : State :=
  let mine := fun (b : Bin) => b.vd == vd && b.lid == lid && b.kind != .responder
  let fired := s.cores.flatMap fun k => k.2.bins.filter fun b => mine b && b.fired
  let s1 : State := { s with cores := s.cores.map fun k => (k.1, { k.2 with
    bins := k.2.bins.filter fun b => !mine b, carries := k.2.carries.filter fun c => !(c.vd == vd && c.launch.lid == lid) }) }
  fired.foldl (fun st b => countUnit st vd b.launch 8) s1

/-- Frames of a device cleared. -/
def clearRuns (s : State) (vd : Nat) (runs : List (Nat × Nat)) : State :=
  runs.foldl (fun st q => st.clearBytes (.hbm vd (65536 * q.1)) (65536 * q.2)) s

/-- Frames of a device cleared and given back; their lines stop failing (R352, R388). -/
def freeRuns (s : State) (vd : Nat) (runs : List (Nat × Nat)) : State :=
  (clearRuns s vd runs).modVd vd fun d => { giveFrames d runs with bad := d.bad.filter fun q =>
    !(runs.any fun r => decide (512 * r.1 ≤ q.1) && decide (q.1 < 512 * (r.1 + r.2))) }

/-- A program's image is removed, with its frames (R359, R360). -/
def removeImage (s : State) (p : Program) : State :=
  let s1 := (freeRuns s p.vd p.runs).modVd p.vd fun d => dropTables { d with maps := d.maps.filter fun m => !(m.system && m.id == p.id) }
  { s1.modHub (fun h => { h with programs := h.programs.filter fun q => !(q.vd == p.vd && q.id == p.id) }) with
    trackers := s1.trackers.filter fun t => t.tid != p.tracker }

/-- A program is taken down as far as it can be now; true when its image is gone (R359, R360). -/
def teardown (s : State) (p : Program) (stop : Bool) : State × Bool :=
  let lid := p.launch.lid
  let s1 : State := if stop then { s with groups := s.groups.map fun g =>
    if g.vd == p.vd && g.launch.lid == lid && g.responder.isNone then { g with stopping := true } else g } else s
  let s2 := if stop then ((launchGroups s1 p.vd lid).filter fun g => groupIdle s1 g).foldl discardGroup s1 else s1
  if launchGroups s2 p.vd lid ≠ [] then (s2, false)
  else
    let s3 := dropLaunchMarks s2 p.vd lid
    let moving := s3.cores.any fun k => k.2.marks.any fun m => m.vd == p.vd && m.launch.lid == lid
    if launchResponders s3 p.vd lid ∨ moving then (s3, false)
    else (removeImage (dropLaunchBins s3 p.vd lid) p, true)

/-- STEP_PROGRAM_RESTART: the old launch ends by the policy of the new version, step by step; then nothing of it is in effect and
the new version is created (R359). -/
def execStepProgramRestart (vd : Nat) (s : State) : Out :=
  match nextStep s vd with
  | (some (false, r), s1) =>
    match r.want, programOf s vd r.id with
    | some b, some p =>
      if r.kind ≠ 6 ∨ p.record = b then .next s
      else
        let (s2, gone) := teardown s1 p (manField b 0x3C 13 12 == 1)
        .next (if gone then goOn s2 { r with conv := none, convVer := 0 } b
               else setEntry s2 { r with state := .pending, reason := r.reasonOr 0, running := true } 0)
    | _, _ => .next s
  | _ => .next s

/-! ### The envelope and key releases (R401, R423, R424) -/

/-- STEP_ENVELOPE (R401). -/
def execStepEnvelope (s : State) : Out :=
  stepOf s 0 7 fun st _ b => .ok (st.modHub fun h => { h with limit := if manField b 0x30 11 0 = 0 then 2600 else manField b 0x30 11 0 })

/-- A manifest's copy inserted by ascending target device. -/
def insertBody (x : Nat × List Byte) : List (Nat × List Byte) → List (Nat × List Byte)
  | [] => [x]
  | y :: l => if x.1 < y.1 then x :: y :: l else y :: insertBody x l

/-- The layout digest: SHA-384 over the bodies of the converged partition records, in ascending TVD (R421). -/
def layoutDigest (s : State) : List Byte :=
  let parts := s.hub.slots.filterMap fun r => match r.conv with
    | some b => if r.kind = 1 then some (r.tvd, b.drop 0x30) else none
    | none => none
  sha384 ((parts.foldl (fun l p => insertBody p l) []).flatMap (·.2))

/-- The ASCII bytes of "BT7A window key" (R424). Beyond the rule's words: DEDUCED, log entry 19. -/
def keyInfo : List Byte := [0x42, 0x54, 0x37, 0x41, 0x20, 0x77, 0x69, 0x6E, 0x64, 0x6F, 0x77, 0x20, 0x6B, 0x65, 0x79]

/-- Is an MLOADB of a window admitted (R424). -/
def windowLoading (s : State) (uid : Nat) : Bool :=
  s.engops.any fun o => o.admitted && match o.kind with
    | .mloadb _ src _ _ wx _ _ =>
      let reads := fun va => match weightAt s o.vd va with
        | some (w, _) => w.uid == uid
        | none => false
      (match src with
        | .dev va => reads va
        | _ => false) || (match wx with
        | some va => reads va
        | none => false)
    | _ => false

/-- The release of a window's key. -/
def releaseKey (s : State) (r : RSlot) (b : List Byte) : StepEnd :=
  let wid := manField b 0x34 31 16
  let isProt := match (s.vd r.tvd).ctx with
    | some c => c.prot
    | none => false
  if !isProt then .conflict s 0x08 0
  else match s.hub.windows.find? fun w => w.vd == r.tvd && w.id == wid && !w.exchange with
    | none => .conflict s 0x0A 0x34
    | some w =>
      if manAt b 0x30 4 ≠ s.hub.layoutGen.toNat then .conflict s 0x0F s.hub.layoutGen.toNat
      else match ecdh s.hub.colds ((b.drop 0x38).take 97) with
        | none => .conflict s 0x0A 0x38
        | some z =>
          let kek := hkdf (layoutDigest s) z (keyInfo ++ natLe 2 r.tvd ++ natLe 2 wid)
          match unwrap kek ((b.drop 0x9C).take 40) with
          | none => .conflict s 0x0A 0x9C
          | some key =>
            if w.key.isSome ∧ w.key ≠ some key ∧ windowLoading s w.uid then .wait s
            else .ok (s.modHub fun h => { h with windows := h.windows.map fun (k : Window) =>
              if k.uid == w.uid then { k with key := some key } else k })

/-- STEP_KEY_RELEASE (R418, R423, R424, R504). -/
def execStepKeyRelease (vd : Nat) (s : State) : Out := stepOf s vd 8 releaseKey

/-! ### What a deletion undoes (R352, R388, R414, R448) -/

/-- The memory of a mapping is cleared and given back. -/
def freeMapping (s : State) (vd : Nat) (m : Mapping) : State := freeRuns s vd (m.tableRuns ++ m.poolRuns ++ m.runs)

/-- An owner's window goes: its lines, its frames, its key (R352, R424). -/
def removeWindow (s : State) (w : Window) : State :=
  let n := if w.exchange then w.size else w.size + treeBytes w.size
  let s1 := (s.clearBytes (.win w.uid 0) n).modVd w.vd fun d => giveFrames d w.runs
  s1.modHub fun h => { h with windows := h.windows.filter fun k => k.uid != w.uid, staged := h.staged.filter fun t => t.uid != w.uid }

/-- The effect of a record of a kind is undone. -/
def undoRecord (s : State) (vd kind id : Nat) : State :=
  match kind with
  | 2 =>
    let s1 := s.modVd vd fun d => { dropTables { giveFrames d d.sysRuns with ctx := none } with sysRuns := [] }
    resizeRing s1 vd 16
  | 3 =>
    let s1 := match s.hub.windows.find? fun w => w.vd == vd && w.id == id with
      | some w => removeWindow s w
      | none => s
    s1.modHub fun h => { h with windows := h.windows.map fun (w : Window) =>
      { w with joiners := w.joiners.filter fun j => j != (vd, id) } }
  | 4 => match (s.vd vd).maps.find? fun m => m.id == id && !m.system with
    | some m => (freeMapping (dropTranslations s vd m) vd m).modVd vd fun d =>
        dropTables { d with maps := d.maps.filter fun k => !(k.id == id && !k.system) }
    | none => s
  | 5 => (s.modVd vd fun d => { d with queues := d.queues.filter fun k => k.q != id }).modHub fun h =>
      { h with stops := h.stops.filter fun x => !(x.1 == vd && x.2.1 == id) }
  | 7 => s.modHub fun h => { h with limit := 2600 }
  | _ => s

end Sys2Proof.Machine
end

