-- ==== Sys2Proof/Machine/Resets.lean ====
section
/-! DEFINITION. Resets of virtual devices and of the package (R383, R384, R486 to R496, R506, R507), the deletion of records
(R352, R360), VF Enable (R448, R494), the states of a TDI (R436) and the bring-up (R439). -/

namespace Sys2Proof.Machine

/-! ### Step 4: resources cleared (R388, R487) -/

/-- Does a number lie in a range. -/
def inRange (lo n x : Nat) : Bool := decide (lo ≤ x) && decide (x < lo + n)

/-- What a device holds on a core by its number goes: panniers, seals, directory entries, bins, translations, its saved
slots, its token and its divisions. -/
def purgeHeld (s : State) (vd c : Nat) : State :=
  let sids := (s.solicits.filter fun x => x.vd == vd).map (·.sid)
  let gids := (s.groups.filter fun g => g.vd == vd).map (·.gid)
  let away (k : Slice) : Slice := if k.resident = some vd then { k with resident := none, last := vd, leaving := false, idle := false } else k
  let undiv (d : Option Division) : Option Division := d.filter fun e => !gids.contains e.gid
  let ofVd := (s.engops.filter fun o => o.vd == vd).map (·.id)
  let eng (e : Engine) : Engine :=
    { e with token := if e.token = some vd then none else e.token, pass := e.pass.filter fun i => !ofVd.contains i }
  let s1 := (upto 4).foldl (fun (st : State) n => st.clearBytes (.slotImage c vd n 0) slotBytes) s
  s1.modCore c fun k => { k with
    divs := k.divs.map undiv, pans := k.pans.filter fun p => p.2.vd != vd, seals := k.seals.filter fun e => e.vd != vd,
    savedSlots := k.savedSlots.filter fun p => p.1 != vd, engine := eng k.engine, marks := k.marks.filter fun m => m.vd != vd,
    departures := k.departures.filter fun p => !sids.contains p.1, bins := k.bins.filter fun b => b.vd != vd,
    carries := k.carries.filter fun r => r.vd != vd,
    tlb := k.tlb.filter fun e => e.vd != vd, hosts := k.hosts.filter fun e => e.vd != vd,
    slices := k.slices.map away, strides := k.strides.filter fun r => r.vd != vd }

/-- The rows of a device's ranges on a core are cleared (R388). -/
def clearRows (s : State) (p : Partition) (c : Nat) : State :=
  (s.clearBytes (.spad c (384 * p.sfirst)) (384 * p.scount)).modCore c fun k => { k with
    empties := k.empties.filter fun n => !inRange (24 * p.sfirst) (24 * p.scount) n,
    accs := k.accs.filter fun a => !inRange p.afirst p.acount a.1,
    poison := k.poison.filter fun q =>
      !((q.1 == 0 && inRange p.rfirst p.rcount q.2.1) || (q.1 == 1 && inRange p.gfirst p.gcount (q.2.1 / 16)) ||
        ((q.1 == 2 || q.1 == 3) && inRange p.sfirst p.scount q.2.1) || (q.1 == 4 && inRange p.afirst p.acount q.2.1)) }

/-- The rows and slots of a device's ranges on a core are cleared (R388). -/
def purgeRows (s : State) (vd : Nat) (p : Partition) (c : Nat) : State :=
  clearRows (p.slots.foldl (fun (st : State) n => setSlot (st.clearBytes (.slot c n 0) slotBytes) c vd n .invalid) s) p c

/-- What a device has on one core is cleared; its ranges only where it is resident in them.
Beyond the rule's words: DEDUCED, log entry 39. -/
def purgeCore (s : State) (vd : Nat) (p : Partition) (c : Nat) : State :=
  let there := residentOn s c vd
  let s1 := if there then purgeRows s vd p c else s
  purgeHeld s1 vd c

/-- Everything in flight of a device, its groups and its teams go (R384, R487). -/
def purgeFlight (s : State) (vd : Nat) : State :=
  let gids := (s.groups.filter fun g => g.vd == vd).map (·.gid)
  let s1 := (s.teams.filter fun t => t.vd == vd).foldl (fun (st : State) t => st.clearBytes (.image t.tid 0) (384 * t.spRows)) s
  let s2 : State := { s1 with
    groups := s.groups.filter fun g => g.vd != vd, teams := s.teams.filter fun t => t.vd != vd,
    stores := s.stores.filter fun e => e.vd != vd, loads := s.loads.filter fun o => o.vd != vd,
    ops := s.ops.filter fun r => !gids.contains r.gid, feqs := s.feqs.filter fun q => !gids.contains q.gid,
    parks := s.parks.filter fun q => q.vd != vd, copies := s.copies.filter fun c => c.vd != vd,
    engops := s.engops.filter fun o => o.vd != vd, moves := s.moves.filter fun m => m.vd != vd,
    solicits := s.solicits.filter fun x => x.vd != vd, reports := s.reports.filter fun r => r.vd != vd,
    pushes := s.pushes.filter fun q => q.vd != vd, trackers := s.trackers.filter fun t => t.vd != vd,
    hostReqs := s.hostReqs.filter fun h => h.vd != vd }
  s2.modHub fun h => { h with
    staged := h.staged.filter fun t => t.vd != vd, tokenReqs := h.tokenReqs.filter fun t => t.2 != vd,
    stops := h.stops.filter fun x => x.1 != vd }

/-- The harts of a device stop, and their architectural state is clear (R431). -/
def stopHarts (s : State) (oasis : List Nat) : State :=
  let stop (h : Hart) : Hart := { Hart.reset with entry := h.entry, arg := h.arg, mtimecmp := h.mtimecmp, state := 2 }
  s.modHub fun h => { h with harts := h.harts.zipIdx.map fun p => if oasis.contains p.2 then stop p.1 else p.1 }

/-! ### Step 3: areas (R487, R488) -/

/-- An area is set to zero and its entries to absent; ASEQ counts each entry that changes. -/
def zeroArea (s : State) (dom : Nat) : State :=
  let s1 := s.clearBytes (.area dom 0) 0x40000
  (s.hub.slots.filter fun r => r.dom == dom).foldl (fun st r => setEntry st (RSlot.fresh r.dom r.ix) 0) s1

/-- The areas that serve a virtual function's device. -/
def zeroAreas (s : State) (vd : Nat) : State := if vd = 0 then s else zeroArea (zeroArea s vd) (0x40 + vd)

/-! ### The start of a reset (R486, R487, R492, R494) -/

/-- Is a group on its way off its core by R391 to R396. -/
def Group.leaves (g : Group) : Bool :=
  g.status == .trapped || g.status == .saving ||
  (g.status == .running && match g.handler with
    | some h => !h.resume
    | none => false)

/-- The cores on which saves of a device are under way, with the number of groups and whether one was forced (R492). -/
def savesOf (s : State) (vd : Nat) : List (Nat × Nat × Bool) :=
  (((s.vd vd).part.map (·.cores)).getD []).filterMap fun c =>
    let gs := (groupsOn s c vd).filter fun g => g.leaves
    if gs = [] then none else some (c, gs.length, gs.any fun g => g.status == .saving)

/-- Does a device hold any record, group or bin (R494). -/
def holdsAny (s : State) (vd : Nat) : Bool :=
  (s.hub.slots.any fun r => r.claims && r.tvd == vd) || (s.groups.any fun g => g.vd == vd) ||
  s.cores.any fun k => k.2.bins.any fun b => b.vd == vd

/-- A reset of a device begins: its generation rises, its work stops, for causes 1 and 5 its areas are zeroed, and its
resources are cleared, halted groups counting as retired cancelled (R487, steps 1 to 4).
Beyond the rule's words: DEDUCED, log entry 38. -/
def startReset (s : State) (vd cause : Nat) (deletePart : Bool) : State :=
  let d := s.vd vd
  let why := if d.fenced ∧ cause ≠ 3 ∧ cause ≠ 5 then 6 else cause
  let r : Resetting :=
    { cause := why, oldGen := d.gen, saves := savesOf s vd, groups := (s.groups.filter fun g => g.vd == vd).length,
      held := holdsAny s vd, deletePart := deletePart, cleared := false }
  let s1 := (s.groups.filter fun g => g.vd == vd && g.status == .halted).foldl (fun st g => countRetired st g 8) s
  let noWork (k : Queue) : Queue := { k with parsed := [], begun := [] }
  let s2 := s1.modVd vd fun e => { e with
    gen := if e.counted then (e.gen + 1) % 2 ^ 16 else e.gen, resetting := some r, waiters := [], queues := e.queues.map noWork,
    tdi := if cause = 1 then .unlocked else e.tdi }
  let s3 := if cause = 1 ∨ cause = 5 then zeroAreas s2 vd else s2
  let s4 := match d.part with
    | some p => stopHarts (p.cores.foldl (fun st c => purgeCore st vd p c) s3) p.oasis
    | none => s3
  purgeFlight s4 vd

/-! ### Steps 5 and 6: records and the key (R487, R489 to R491) -/

/-- The claims of a device's records other than its partition end; joiners of its windows fall back (R489). -/
def endClaims (s : State) (vd : Nat) : State :=
  let s1 := (s.hub.slots.filter fun r => r.claims && r.tvd == vd && r.kind != 1).foldl (fun st r =>
    setEntry st { r.emptied r.seenVer with dirty := true } 0) s
  let joins (r : RSlot) : Bool := r.kind == 3 && r.tvd != vd && match r.conv with
    | some b => manField b 0x40 29 29 == 1 && manField b 0x44 6 0 == vd
    | none => false
  (s1.hub.slots.filter joins).foldl (fun st r =>
    setEntry st { r with state := .pending, reason := 1, convVer := 0, conv := none, want := (r.want.orElse fun _ => r.conv) } 0) s1

/-- The records of a device are undone in descending kind, then ID; every window loses its key and every mapping its memory
(R352, R487). -/
def undoRecords (s : State) (vd : Nat) : State :=
  let s1 := (s.hub.programs.filter fun p => p.vd == vd).foldl removeImage s
  let s2 := (s1.vd vd).queues.foldl (fun st k => undoRecord st vd 5 k.q) s1
  let s3 := ((s2.vd vd).maps.filter fun m => !m.system).foldl (fun st m => undoRecord st vd 4 m.id) s2
  let wins := (s3.hub.windows.filter fun w => w.vd == vd).map (·.id) ++
    s3.hub.windows.flatMap fun w => (w.joiners.filter fun j => j.1 == vd).map (·.2)
  let s4 := wins.foldl (fun st i => undoRecord st vd 3 i) s3
  if (s4.vd vd).ctx.isSome then undoRecord s4 vd 2 0 else s4

/-- DEVICE_RESET: the records of a device whose reset has begun are deleted, its notification queue and energy block are
emptied, and the security processor draws its new key (R405, R487, R490, R491). -/
def execDeviceReset (vd : Nat) (s : State) : Out :=
  match (s.vd vd).resetting with
  | none => .next s
  | some r =>
    if r.cleared then .next s
    else
      let s1 := endClaims (undoRecords s vd) vd
      let s2 := (s1.clearBytes (.sys vd 0) 16).clearBytes (.sys vd 0x20000) 0x30
      let s3 := s2.modVd vd fun d => { d with
        leaves := [], inner := [], bad := d.bad.filter (fun b => decide (2 ^ 60 ≤ b.1)), maps := [], resetting := some { r with cleared := true } }
      let s4 := if (s3.vd vd).part.isSome then drawKey s3 vd else s3
      .next (recheckClaims s4)

/-! ### Step 7 (R487, R492, R494, R496, R507) -/

/-- The partition of a device goes: every range, its memory and its key are released (R352, R388). -/
def dropPartition (s : State) (vd : Nat) : State :=
  let s1 := bumpLayout (s.modVd vd fun d => { d with
    part := none, frames := [], tables := [], sysRuns := [], key := none })
  let s2 := (s1.hub.slots.filter fun r => r.claims && r.tvd == vd && r.kind == 1 && r.deleting).foldl (fun st r =>
    setEntry st { r.emptied r.seenVer with dirty := true } 0) s1
  recheckClaims s2

/-- The event that reports a reset (R449, R492, R494, R507). -/
def postReset (s : State) (vd : Nat) (r : Resetting) : State :=
  let new := 2 ^ 32 * (s.vd vd).gen
  if r.cause = 5 then (if r.held then postEvent s 0x08 vd r.oldGen (r.groups % 2 ^ 16 + new) else s)
  else if r.saves ≠ [] then
    r.saves.foldl (fun st c => postEvent st 0x09 vd r.oldGen
      (c.1 + 2 ^ 8 * c.2.1 + (if c.2.2 then 2 ^ 16 else 0) + new)) s
  else postEvent s 0x01 vd r.oldGen (r.cause + new)

/-- The rings of the virtual functions are removed when the last reset of VF Enable's clearing is complete (R448, R494). -/
def dropRings (s : State) : State :=
  if s.vds.any fun p => (p.2.resetting.map (·.cause)) == some 5 then s
  else (upto 65).foldl (fun (st : State) v =>
    if v = 0 ∨ (st.vd v).ringSize = 0 then st
    else (st.clearBytes (.sys v 0) 0x100000).modVd v fun d => { d with ringSize := 0 }) s

/-- RESET_COMPLETE: nothing of an earlier generation is left, and the reset is complete (R487, step 7). Events of VF
Enable's clearing come in ascending device number (R494). -/
def execResetComplete (vd : Nat) (s : State) : Out :=
  match (s.vd vd).resetting with
  | none => .next s
  | some r =>
    let earlier := s.vds.any fun p => decide (p.1 < vd) && (p.2.resetting.map (·.cause)) == some 5
    if !r.cleared ∨ (r.cause = 5 ∧ earlier) then .next s
    else
      let s1 := setStatus (postReset s vd r) vd stReset
      let s2 := s1.modVd vd fun d => { d with resetting := none, fenced := false }
      let s3 := if r.deletePart then dropPartition s2 vd else s2
      .next (settleDevice (if r.cause = 5 then dropRings s3 else s3) vd)

/-! ### What starts a reset -/

/-- FUNCTION_LEVEL_RESET of virtual function `vd`; device 0 has none (R486, R488, R496). -/
def execFunctionLevelReset (vd : Nat) (s : State) : Out :=
  if vd = 0 ∨ 64 < vd ∨ !s.hub.vfEnable then .next s else .next (startReset s vd 1 false)

/-- TDI_LEAVE_RUN: event 0x03, then the reset (R436, R506, R507). -/
def execTdiLeaveRun (vd : Nat) (error : Bool) (s : State) : Out :=
  if vd = 0 ∨ 64 < vd ∨ (s.vd vd).tdi ≠ .run then .next s
  else
    let s1 := postEvent s 0x03 vd (s.vd vd).gen (if error then 3 else 0)
    .next (startReset (s1.modVd vd fun d => { d with tdi := if error then .error else .unlocked }) vd 4 false)

/-- TDI_ENTERS_RUN (R436). -/
def execTdiEntersRun (vd : Nat) (s : State) : Out :=
  if vd = 0 ∨ 64 < vd ∨ !s.hub.vfEnable then .next s
  else .next (settleDevice (s.modVd vd fun d => { d with tdi := .run }) vd)

/-- VF_ENABLE_SET: the areas and the rings of 16 entries come into being (R349, R448, R494). -/
def execVfEnableSet (s : State) : Out :=
  if s.hub.vfEnable ∨ (s.vds.any fun p => (p.2.resetting.map (·.cause)) == some 5) then .next s
  else
    let s1 := s.modHub fun h => { h with vfEnable := true, aseq := h.aseq.filter fun a => a.1 == 0 }
    .next ((upto 65).foldl (fun (st : State) v =>
      if v = 0 then st
      else st.modVd v fun d => { d with
        ringSize := 16, status := if d.fenced then BitVec.ofNat 32 stFenced else 0, fcount := 0, hdrlog := 0, insp := 0,
        tdi := .unlocked }) s1)

/-- VF_ENABLE_CLEAR: every virtual device is reset with cause 5, and the virtual functions' areas cease to exist (R494). A
device whose reset is under way completes it as cause 5 (R508). -/
def execVfEnableClear (s : State) : Out :=
  if !s.hub.vfEnable then .next s
  else
    let one := fun (st : State) (v : Nat) =>
      if v = 0 then st
      else match (st.vd v).resetting with
        | some r => zeroAreas (st.modVd v fun d => { d with resetting := some { r with cause := 5 } }) v
        | none => startReset st v 5 false
    let s1 := (upto 65).foldl one s
    .next (s1.modHub fun h => { h with
      vfEnable := false, slots := h.slots.filter fun r => r.dom == 0, pass := h.pass.filter fun p => p.1 == 0 })

/-! ### Deletions (R342, R350, R352, R360, R496) -/

/-- The partition's deletion of a fenced device: no step of the device runs, and nothing defers it (R454, R496). -/
def fencedDeletion (s : State) (vd : Nat) : Option RSlot :=
  if (s.vd vd).fenced ∧ (s.vd vd).resetting.isNone ∧ s.hub.boot = 4 then
    s.hub.slots.find? fun r => r.tvd == vd && r.kind == 1 && r.deleting
  else none

/-- Have the accesses that began through a mapping ended. Beyond the rule's words: DEDUCED, log entry 37. -/
def mappingQuiet (s : State) (vd id : Nat) : Bool :=
  match (s.vd vd).maps.find? fun m => m.id == id && !m.system with
  | some m => accessesDone s vd (s.vd vd).gen (m.va / 2 ^ 16) (m.span / 2 ^ 16 + 1) s.fresh
  | none => true

/-- A deleted record's entry goes absent, and its slot is read again (R342, R352). -/
def finishDelete (s : State) (r : RSlot) : State :=
  settleDevice (recheckClaims (setEntry s { r.emptied r.seenVer with dirty := true } 0)) r.tvd

/-- The image of a program is gone: with its record, or with a refused version's record that stays in conflict (R344). -/
def endDelete (s : State) (r : RSlot) : State :=
  if r.deleting then finishDelete s r else settleDevice (putSlot s { r with running := false }) r.tvd

/-- STEP_DELETE: the deletion that NextStep chooses (R350, R352, R360, R383, R388). A context's or partition's deletion
resets the device; a program's ends its launch first, step by step. -/
def execStepDelete (vd : Nat) (s : State) : Out :=
  match fencedDeletion s vd with
  | some _ => .next (startReset s vd 3 true)
  | none =>
    match nextStep s vd with
    | (some (true, r), s1) =>
      if r.kind = 1 then .next (startReset s1 vd 3 true)
      else if r.kind = 2 then .next (startReset (finishDelete (undoRecord s1 vd 2 0) r) vd 2 false)
      else if r.kind = 6 then
        match programOf s1 vd r.id with
        | some p =>
          let (s2, gone) := teardown s1 p true
          .next (if gone then endDelete s2 r
                 else setEntry s2 { r with state := if r.deleting then .pending else r.state, running := true } 0)
        | none => .next (finishDelete s1 r)
      else if r.kind = 4 ∧ !mappingQuiet s1 vd r.id then .next s1
      else .next (finishDelete (undoRecord s1 vd r.kind r.id) r)
    | _ => .next s

/-! ### The package (R421, R424, R425, R439) -/

/-- Is a place the memory of the host or of a peer. -/
def outsideKey (k : Nat) : Bool :=
  decide (k < 2 ^ 112) || (decide ((Loc.peer 0 0 0).key ≤ k) && decide (k < (Loc.win 0 0).key))

/-- COLD_RESET: everything of the package is as after reset; what lies outside it stays (R439). New key-agreement keys and
a new nonce belong to each cold reset (R424, R425), and a new key of device 0 (R406). -/
def execColdReset (s : State) : Out :=
  let z := State.reset
  .next { z.modVd 0 fun d => { d with key := some s.hub.draws } with
    mem := s.mem.filter fun c => outsideKey c.1
    hub := { z.hub with colds := s.hub.colds + 1, draws := s.hub.draws + 1, duNonce := s.hub.duNonce + 1 }
    agenda := s.agenda, free := s.free, fresh := s.fresh }

/-- The peer links are trained; which ports have a partner is not the device's to say (R437, R439). -/
def trainLinks (s : State) : State :=
  (upto 16).foldl (fun st n =>
    let (up, s1) := st.takeBit
    s1.modHub fun h => { h with ports := listSet h.ports n { up := up, retries := 0, seq := 0 } }) s

/-- BOOTSTATE_ADVANCE: the next stage is reached, or the bring-up stops with event 0x06 (R439, R507). At stage 1 either the
HBM or the host link may have failed. Beyond the rule's words: DEDUCED, log entry 46. -/
def execBootstateAdvance (ok : Bool) (s : State) : Out :=
  if 4 ≤ s.hub.boot then .next s
  else if ok then
    let s1 := s.modHub fun h => { h with boot := h.boot + 1 }
    .next (if s.hub.boot = 2 then trainLinks s1 else s1)
  else if s.hub.boot = 3 then .next s
  else
    let (link, s1) := s.takeBit
    let why := match s.hub.boot with
      | 0 => 1
      | 1 => if link then 3 else 2
      | _ => 4
    .next ((postEvent s1 0x06 0 (s.vd 0).gen (s.hub.boot + 2 ^ 8 * why)).modHub fun h => { h with boot := 0xFF })

end Sys2Proof.Machine
end

