-- ==== Sys2Proof/Machine/VDev.lean ====
section
/-! DEFINITION. Time slices: the trap at a slice's end, the handler, forced saves, the change of residents and the return
(R387 to R400), with the pool of power tokens and the energy blocks (R401, R402, R438). -/

namespace Sys2Proof.Machine

/-! ### Work and choice (R389, R390) -/

/-- Has a device a queue unit that fits on a core (R331). -/
def unitFits (s : State) (core vd : Nat) : Bool :=
  deviceWorks s vd && (s.vd vd).queues.any fun k => !k.proxy && !queueStopped s vd k.q && (eligibleCores s vd k.aff).contains core &&
    match k.parsed with
    | [] => false
    | p :: _ => p.kind != 3 && !p.over && teamFits s core vd p.launch

/-- Has a device work on a core (R389). -/
def hasWork (s : State) (core vd : Nat) : Bool :=
  groupsOn s core vd != [] || (s.core core).bins.any (fun b => b.vd == vd && (b.fired || b.records != [])) || unitFits s core vd

/-- The devices of a region, ascending. -/
def regionDevices (s : State) (region : Nat) : List Nat :=
  allDevices.filter fun v => match (s.vd v).part with
    | some p => p.region == region
    | none => false

/-- The devices of a region in the order of choice after a device: ascending, wrapping around (R390). -/
def choiceOrder (s : State) (region after : Nat) : List Nat :=
  let all := regionDevices s region
  (all.filter fun v => after < v) ++ all.filter fun v => v < after

/-- The first other device with work; fenced ones are skipped (R390, R454). -/
def nextDevice (s : State) (core region after : Nat) : Option Nat :=
  (choiceOrder s region after).find? fun v => !(s.vd v).fenced && hasWork s core v

/-- The lowest device of a region with work (R389). -/
def lowestDevice (s : State) (core region : Nat) : Option Nat :=
  (regionDevices s region).find? fun v => !(s.vd v).fenced && hasWork s core v

/-! ### Leaving (R391 to R396) -/

/-- A copy has a transfer under way or to come that is not parked (R396). -/
def copyFlying (s : State) (c : Copy) : Bool :=
  c.claimed && (!c.admitted || (c.active.any fun x => !copyParked s c x) || (c.portions != [] && (takeEntries s c).isSome))

/-- The device's admitted engine instructions and copies on a core, and every copy that has claimed bytes of one of its
panniers there, have completed, and the courier's batches; parked transfers are not waited for (R262, R396). -/
def coreQuiet (s : State) (core vd : Nat) : Bool :=
  (s.engops.all fun o => !(o.core == core && o.vd == vd && o.admitted && !o.isPoint)) &&
  (s.copies.all fun c => !(c.vd == vd && (c.core == core || c.panCore == core) && copyFlying s c)) &&
  s.pushes.all fun p => !(p.vd == vd && p.spad.any fun x => x.1 == core)

/-- A group of an outgoing device is trapped, or is saved by the hardware at once when it is in its resume phase (R391). -/
def expelGroup (t : Nat) (s : State) (g : Group) : State :=
  if g.status = .running ∧ g.handler.isSome then s.modGroup g.gid fun h => { h with status := .saving, trapAt := t }
  else trapGroup s g.gid t

/-- Length of the slice of a device in local cycles (R354, R390). -/
def sliceCycles (s : State) (vd : Nat) : Nat := 2 ^ (((s.vd vd).ctx.map (·.slice)).getD 20)

/-- The cycle in which the resident device's slice expires (R390). -/
def sliceEnd (s : State) (k : Slice) : Option Nat :=
  if k.leaving then none else k.resident.map fun v => k.since + sliceCycles s v

/-- Can a group retire now (R93). -/
def retires (s : State) (g : Group) : Bool :=
  g.status == .running && g.liveSplits == [] && g.handler == none && g.responder == none && groupDrained s g 4

/-- Has a slice expired whose device has work: as its last cycle has ended (R390, R400). -/
def sliceDue (s : State) (core : Nat) (k : Slice) : Bool :=
  match k.resident, sliceEnd s k with
  | some v, some e => decide (e < s.now core) && hasWork s core v
  | _, _ => false

/-- SLICE_EXPIRY: the resident device begins a new slice, or its groups are trapped. What happens in the cycle of expiry comes
first: merges at JOIN, and retirements (R390, R391, R400, R443). -/
def execSliceExpiry (core region : Nat) (s : State) : Out :=
  match sliceOf s core region with
  | none => .next s
  | some k =>
    match k.resident with
    | none => .next s
    | some v =>
      if !sliceDue s core k then .next s
      else match (groupsOn s core v).find? (retires s) with
        | some g => execGroupRetire g.gid s
        | none =>
          if (nextDevice s core region v).isNone then .next (setSlice s core { k with since := k.since + sliceCycles s v })
          else .next ((groupsOn s core v).foldl (expelGroup (s.now core)) (setSlice (mergeGroups s core) core { k with leaving := true }))

/-- Is every fixed-latency result of a group written by cycle `t`, and has each started batch ended or been suspended
(R391). -/
def trapReady (g : Group) (t : Nat) : Bool :=
  (g.batches.all fun b => !b.started || b.suspended) &&
  (g.pend.all fun p => decide (p.ready ≤ t)) &&
  (g.fpend.all fun f => decide (3 * f.1 ≤ t)) && g.splits.all fun sp => decide (3 * sp.laneReady ≤ t)

/-- Why a device has no valid handler record: 0 HANDLER is zero, 1 it cannot be read, 2 it breaks R392 (R507). -/
def handlerWhy (s : State) (vd : Nat) : Nat :=
  match (s.vd vd).ctx with
  | none => 0
  | some c => if c.handler = 0 then 0 else if (handlerBytes s vd c.handler).isNone then 1 else 2

/-- HANDLER_START: the handler split starts in its save phase; without a valid record the trap is a forced save (R391 to
R393, R507). Engine instructions that were not admitted are taken back (R262). -/
def execHandlerStart (gid : Nat) (s : State) : Out :=
  match s.group? gid with
  | none => .next s
  | some g =>
    let t := s.now g.core
    if g.status ≠ .trapped then .next s
    else match handlerRec s g.vd with
      | some r =>
        if trapReady g t then .next ((reissueEng s gid).modGroup gid fun h =>
          { enterHandler h false r.save r.scode r.slen t s.fresh with resumeAt := (r.scode, r.slen, r.resume) })
        else .next s
      | none =>
        let s1 := s.setGroup { g with status := .saving }
        .next (postEvent s1 0x02 g.vd g.gen (g.core + 2 ^ 8 * g.slot + 2 ^ 16 * handlerWhy s g.vd))

/-- YDONE: the handler split ends; the group leaves its core, or its frozen splits issue again (R396, R471). -/
def execYdone (t : BitVec 2) (s : State) : Out :=
  scalarIssue (.ydone t) {} (fun s x _ =>
    match x.g.handler with
    | none => .fault 0x0B 0 3
    | some h =>
      if x.ix ≠ 8 then .fault 0x0B 0 3
      else if !laneQuiet x then .hold
      else if h.resume then .over (s.modGroup x.g.gid leaveHandler)
      else .over (s.modGroup x.g.gid fun g => { leaveHandler g with
        status := .savedCoop, cycBefore := cyclesOf g x.t, cycSince := x.t })) s

/-- The cycle in which the budget of a group's save phase runs out, counted from the trap (R396). -/
def budgetEnd (s : State) (g : Group) : Option Nat :=
  let saves := g.status == .trapped || (g.status == .running && match g.handler with
    | some h => !h.resume
    | none => false)
  if saves then some (g.trapAt + ((s.vd g.vd).ctx.map (·.budget)).getD 20000) else none

/-- Has a group's save phase overrun its budget: as the last cycle of the budget has ended (R396). -/
def budgetOver (s : State) (g : Group) : Bool := (budgetEnd s g).any fun e => decide (e < s.now g.core)

/-- HANDLER_BUDGET_EXPIRY: the save phase has overrun its budget; the handler split is discarded, and the hardware saves the
group. A YDONE of the last cycle wins (R396). Beyond the rule's words: DEDUCED, log entry 41. -/
def execHandlerBudgetExpiry (gid : Nat) (s : State) : Out :=
  match s.group? gid with
  | none => .next s
  | some g =>
    if budgetOver s g then
      .next ((dropParks s fun p => p.gid == gid && p.who == 8).modGroup gid fun h => { h with status := .saving, handler := none })
    else .next s

/-- A team's rows are to be restored (R398). -/
def markForced (s : State) (tid : Option Nat) : State :=
  let mark (t : Team) : Team := if some t.tid = tid then { t with forced := true } else t
  { s with teams := s.teams.map mark }

/-- FORCED_SAVE: when its waits are over, the hardware has saved the group (R396). What of its team stands in the core's rows
is kept by REGION_SWITCH, before they are cleared. -/
def execForcedSave (gid : Nat) (s : State) : Out :=
  match s.group? gid with
  | none => .next s
  | some g =>
    if g.status ≠ .saving ∨ !(g.batches.all fun b => !b.started || b.suspended) ∨ !coreQuiet s g.core g.vd then .next s
    else .next ((markForced (reissueEng s gid) g.team).modGroup gid fun h =>
      { h with status := .savedForced, cycBefore := cyclesOf h (s.now h.core), cycSince := s.now h.core })

/-! ### The change of residents (R387, R397 to R399) -/

/-- The rows of a force-saved team are kept (R396). -/
def saveTeam (s : State) (t : Team) : State :=
  let keep (u : Team) : Team :=
    if u.tid = t.tid then
      { u with imageEmpty := (s.core t.core).empties.filter fun n => inRange (24 * t.spBase) (24 * t.spRows) n,
               imageAcc := (s.core t.core).accs.filter fun a => inRange t.accBase t.accRows a.1 }
    else u
  let s1 := s.copyBytes (.spad t.core (384 * t.spBase)) (.image t.tid 0) (384 * t.spRows)
  { s1 with teams := s1.teams.map keep }

/-- The rows of a team come back: as kept, or cleared (R398). -/
def restoreTeam (s : State) (t : Team) : State :=
  let drop (u : Team) : Team := if u.tid = t.tid then { u with forced := false, imageEmpty := [], imageAcc := [] } else u
  let s1 := (s.copyBytes (.image t.tid 0) (.spad t.core (384 * t.spBase)) (384 * t.spRows)).clearBytes (.image t.tid 0) (384 * t.spRows)
  let s2 := s1.modCore t.core fun k => { k with
    empties := t.imageEmpty.foldl (fun l n => insertNat n l) k.empties,
    accs := t.imageAcc.foldl (fun l a => keySet l a.1 a.2) k.accs }
  { s2 with teams := s2.teams.map drop }

/-- The parsed units of a queue whose device is resident on no core of the queue's eligible set are dropped (R330). -/
def dropUnits (s : State) (vd : Nat) : State :=
  s.modVd vd fun d => { d with queues := d.queues.map fun k =>
    if (eligibleCores s vd k.aff).any fun c => residentOn s c vd then k else dropParsed k }

/-- The state of a group on its return (R398). -/
def returnGroup (t born : Nat) (g : Group) : Group :=
  let h : Group := { g with cycSince := t }
  let again (k : Group) : Group := enterHandler k true k.resumeAt.2.2 k.resumeAt.1 k.resumeAt.2.1 t born
  match g.status with
  | .savedCoop => again { h with
      sregs := List.replicate 48 0, vregs := List.replicate h.launch.vregs zeroLanes, oregs := List.replicate 16 zeroLanes,
      preds := List.replicate 24 0, flags := List.replicate 96 0, pend := [], fpend := [], fturn := none }
  | .savedForced => if h.handler.isSome then again h else { h with status := .running }
  | .savedFresh => { h with status := .running }
  | _ => h

/-- The oldest waiter of a notify register takes a value that stands, if its group is resident (R433, R434). -/
def serveNotify (s : State) (vd n : Nat) : State :=
  match (s.vd vd).notify.find? fun r => r.n == n && r.full, (s.vd vd).waiters.find? fun w => w.n == n with
  | some r, some w =>
    match s.group? w.gid with
    | some g =>
      if !residentOn s g.core vd then s
      else
        let empty (k : Notify) : Notify := if k.n = n then { k with full := false } else k
        let s1 := s.modVd vd fun d => { d with
          notify := d.notify.map empty, waiters := d.waiters.filter fun u => u != w }
        s1.modGroup w.gid fun h =>
          h.deliver w.split w.ord.born w.reg r.value
    | none => s
  | _, _ => s

/-- A device becomes resident in its region's ranges on a core: slots, rows and groups return (R397, R398). -/
def arrive (s : State) (core vd : Nat) (p : Partition) : State :=
  let s1 := restartTimers (arriveSlots s core vd p.slots) core vd
  let s2 := (s1.teams.filter fun t => t.vd == vd && t.core == core).foldl restoreTeam s1
  let back (g : Group) : Group := if g.vd = vd ∧ g.core = core then returnGroup (s.now core) s.fresh g else g
  let s3 : State := { s2 with groups := s2.groups.map back }
  let mine := (groupsOn s3 core vd).map (·.gid)
  let s4 := ((s3.solicits.filter fun x => mine.contains x.gid).map (·.sid)).foldl finishCensus s3
  (((s4.vd vd).waiters.filter fun w => mine.contains w.gid).map (·.n)).foldl (fun st n => serveNotify st vd n) s4

/-- The outgoing device of a region leaves a core: what was force-saved is kept, parked instructions are kept as unissued and
give up their entries, and rows and slots are cleared (R371, R396, R397, R479). -/
def depart (s : State) (core vd : Nat) (p : Partition) : State :=
  let here := groupsOn s core vd
  let s1 := (here.filter fun g => g.status == .halted).foldl (fun st g =>
    (markForced st g.team).modGroup g.gid fun h => { h with cycBefore := cyclesOf h (s.now core), cycSince := s.now core }) s
  let s2 := (s1.teams.filter fun t => t.vd == vd && t.core == core && t.forced).foldl saveTeam s1
  let halted := (here.filter fun g => g.status == .halted).map (·.gid)
  let s3 := dropParks s2 fun q => q.copy.isNone && halted.contains q.gid
  let free (q : Parked) : Parked := if q.copy.isNone ∧ q.vd = vd ∧ q.core = core then { q with released := true, entry := false } else q
  let s4 : State := { s3 with parks := s3.parks.map free }
  clearRows (departSlots (haltTimers s4 core vd) core vd p.slots) p core

/-- The change from one device of a region to another, or to none. -/
def changeResident (s : State) (core region old : Nat) (new : Option Nat) : State :=
  let s1 := match (s.vd old).part with
    | some p => depart s core old p
    | none => s
  let s2 := setSlice s1 core { region := region, resident := new, last := old, since := s.now core, leaving := false, idle := false }
  let s3 := dropUnits s2 old
  match new with
  | none => s3
  | some v => match (s3.vd v).part with
    | some p => arrive s3 core v p
    | none => s3

/-- Has a group left its core, or is it halted and left to the hardware (R391). -/
def Group.gone (g : Group) : Bool :=
  g.status == .savedCoop || g.status == .savedForced || g.status == .savedFresh || g.status == .halted

/-- Is nothing of a device left in the core's port buffer. -/
def portClear (s : State) (core vd : Nat) : Bool :=
  s.stores.all fun e => !(e.core == core && e.vd == vd && e.loc.isSpad && e.stage == .point)

/-- REGION_SWITCH: every group of the outgoing device has left the core, and the next device of the region with work becomes
resident (R397). Beyond the rule's words: DEDUCED, log entry 40. -/
def execRegionSwitch (core region : Nat) (s : State) : Out :=
  match sliceOf s core region with
  | none => .next s
  | some k =>
    match k.resident with
    | none => .next s
    | some v =>
      if !k.leaving ∨ !((groupsOn s core v).all fun g => g.gone) ∨ !coreQuiet s core v ∨ !portClear s core v then .next s
      else
        let new := match nextDevice s core region v with
          | some u => some u
          | none => if hasWork s core v ∧ !(s.vd v).fenced then some v else none
        .next (changeResident s core region v new)

/-- The slice entry of a region, or that of one in which no device has been resident. -/
def sliceOr (s : State) (core region : Nat) : Slice :=
  (sliceOf s core region).getD { region := region, resident := none, last := 0, since := 0, leaving := false, idle := false }

/-- Has a device without work nothing left on its core: then the clearing of R397 can be made. -/
def leftClear (s : State) (core vd : Nat) : Bool := coreQuiet s core vd && portClear s core vd

/-- The change of residents that is due on a core while no group has to leave it: the new slice entry's device, and whether the
old one is cleared first (R389, R390). -/
inductive ResidentMove where
  /-- The lowest device with work, where none was resident. -/
  | take (vd : Nat)
  /-- The device whose work had ended has work again. -/
  | again (vd : Nat)
  /-- The next device after one whose work has ended, or none. -/
  | change (old : Nat) (new : Option Nat)
  /-- The work of the resident device has ended, and no other device has any. -/
  | rest (vd : Nat)
  deriving DecidableEq, Repr

/-- The change that is due on a core in a region (R389, R390). -/
def residentMove (s : State) (core region : Nat) : Option ResidentMove :=
  let k := sliceOr s core region
  if k.leaving then none
  else match k.resident with
    | none => (lowestDevice s core region).map .take
    | some v =>
      let clear := leftClear s core v
      if k.idle then
        match lowestDevice s core region with
        | some u => if u = v then some (.again v) else if clear then some (.change v (some u)) else none
        | none => if clear then some (.change v none) else none
      else if hasWork s core v then none
      else match nextDevice s core region v with
        | some u => if clear then some (.change v (some u)) else none
        | none => if clear then some (.change v none) else some (.rest v)

/-- The device that a change is about. -/
def ResidentMove.vd : ResidentMove → Nat
  | .take v => v
  | .again v => v
  | .change old new => new.getD old
  | .rest v => v

/-- DEVICE_RESIDENT: no device of the region is resident on the core, and the lowest one with work becomes so; or the work of the
resident one has ended, and the next one with work takes its place, or none does (R389, R390). -/
def execDeviceResident (core vd : Nat) (s : State) : Out :=
  match (s.vd vd).part with
  | none => .next s
  | some p =>
    let k := sliceOr s core p.region
    if p.region = 0 ∨ !p.cores.contains core then .next s
    else match residentMove s core p.region with
      | none => .next s
      | some m =>
        if m.vd ≠ vd then .next s
        else match m with
          | .take v => .next (arrive (setSlice s core { k with resident := some v, since := s.now core, idle := false }) core v p)
          | .again _ => .next (setSlice s core { k with since := s.now core, idle := false })
          | .change old new => .next (changeResident s core p.region old new)
          | .rest _ => .next (setSlice s core { k with idle := true })

/-! ### Tokens and energy (R401 to R403, R438) -/

/-- The hottest die: its number and temperature. -/
def hottest (temps : List Nat) : Nat × Nat :=
  temps.zipIdx.foldl (fun (m : Nat × Nat) p => if m.2 < p.1 then (p.2, p.1) else m) (0, temps.headD 0)

/-- THERMAL_POOL_STEP: while a die is hotter than 105 degrees the pool shrinks by 8 tokens, to no fewer than 6; while every
die is below 100 it grows back by the same steps (R438, R507). -/
def execThermalPoolStep (temps : List Nat) (s : State) : Out :=
  let top := (s.hub.limit - 1450) * 144 / 1150
  let h := hottest temps
  let lowered := if 105 < h.2 then min (s.hub.lowered + 8) (top - 6) else if h.2 < 100 then s.hub.lowered - 8 else s.hub.lowered
  if temps = [] ∨ lowered = s.hub.lowered then .next s
  else
    let s1 := s.modHub fun k => { k with lowered := lowered }
    .next (postEvent s1 0x04 0 (s.vd 0).gen
      (tokenPool s1 + 2 ^ 8 * tokenPool s + 2 ^ 16 * (h.1 % 4) + 2 ^ 24 * (h.2 % 2 ^ 8)))

/-- A 64-bit field of a device's energy block with an amount added. -/
def addEnergy (s : State) (vd off n : Nat) : State :=
  s.putBytes (.sys vd (0x20000 + off)) (natLe 8 (s.natAt (.sys vd (0x20000 + off)) 8 + n))

/-- ENERGY_UPDATE: the amounts that the on-die estimators found are added; TOTAL is the sum of the fields, and SEQ is even
again after the update (R402). The estimate of the average power is free (R403).
Beyond the rule's words: DESIGN CHOICE, log entry 50. -/
def execEnergyUpdate (vd matrix lane memory other : Nat) (s : State) : Out :=
  if 64 < vd then .next s
  else
    let s1 := addEnergy (addEnergy (addEnergy (addEnergy s vd 0x08 matrix) vd 0x10 lane) vd 0x18 memory) vd 0x20 other
    let s2 := addEnergy s1 vd 0x00 (matrix + lane + memory + other)
    let s3 := s2.putBytes (.sys vd 0x20028) (natLe 4 (s2.natAt (.sys vd 0x20028) 4 + 2))
    let (power, s4) := s3.takeNat
    .next (settleDevice (s4.modVd vd fun d => { d with power := power }) vd)

end Sys2Proof.Machine
end

