-- ==== Sys2Proof/Machine/Trust.lean ====
section
/-! DEFINITION. Trust and links: WAITN and the notify registers (R432 to R434), the oasis harts (R429 to R431), evidence and
the SPDM responder (R420, R421, R435), debug unlock and debug accesses (R419, R425, R426), and the peer links (R365, R437,
R484). -/

namespace Sys2Proof.Machine

/-! ### Notify registers (R432 to R434) -/

/-- A notify register of a device. -/
def notifyOf (s : State) (vd n : Nat) : Notify :=
  ((s.vd vd).notify.find? fun r => r.n == n).getD { n := n, value := 0, full := false, ovr := false }

/-- A notify register put in place. -/
def setNotify (s : State) (vd : Nat) (r : Notify) : State :=
  s.modVd vd fun d => { d with notify := r :: d.notify.filter fun k => k.n != r.n }

/-- Must a WAITN wait for the next cycle: one of a higher group slot has joined the register's queue in this one (R434). -/
def waitLate (s : State) (g : Group) (n : Nat) : Bool :=
  let (t, slot, vd, reg) := (s.core g.core).waitTurn
  t == s.now g.core && vd == g.vd && reg == n && decide (g.slot < slot)

/-- WAITN: the split joins the register's queue; its destination is interlocked until it is served (R434). -/
def execWaitn (d : BitVec 6) (a : BitVec 7) (t : BitVec 2) (s : State) : Out :=
  scalarIssue (.waitn d a t) { reads := [a.toNat], writes := [(0x02, d.toNat)] } (fun s x v =>
    let n := (v.getD 0 0).toNat
    if 256 ≤ n then .fault 0x45 0 n
    else if waitLate s x.g n then .hold
    else
      let w : Waiter := { n := n, gid := x.g.gid, split := x.ix, reg := d.toNat, ord := x.ord }
      let s1 := s.modVd x.g.vd fun e => { e with waiters := e.waiters ++ [w] }
      let s2 := s1.modGroup x.g.gid fun g => { g with locks := g.locks ++ [(x.ix, d.toNat)] }
      let s3 := s2.modCore x.g.core fun k => { k with waitTurn := (s.now x.g.core, x.g.slot, x.g.vd, n) }
      .done (serveNotify s3 x.g.vd n)) s

/-- A store to VALUE of a notify register takes effect, and the oldest waiter is served (R433). -/
def storeNotify (s : State) (vd n : Nat) (data : Word) : State :=
  let r := notifyOf s vd n
  serveNotify (setNotify s vd { r with value := data, full := true, ovr := r.ovr || r.full }) vd n

/-- The writer number of a hart in a window's staging (R279). -/
def hartWriter (n : Nat) : Nat := 2 ^ 32 + n

/-- The device that a hart is granted to (R385). -/
def hartDevice (s : State) (n : Nat) : Option Nat :=
  allDevices.find? fun v => match (s.vd v).part with
    | some p => p.oasis.contains n
    | none => false

/-- A hart. -/
def hartOf (s : State) (n : Nat) : Hart := (s.hub.harts[n]?).getD Hart.reset

/-- A hart put in place. -/
def setHart (s : State) (n : Nat) (h : Hart) : State := s.modHub fun k => { k with harts := listSet k.harts n h }

/-- The device that a running hart works for; a fence or a reset stops its harts (R431, R454, R487). -/
def hartRuns (s : State) (n : Nat) : Option Nat :=
  (hartDevice s n).filter fun v => (hartOf s n).state == 1 && deviceWorks s v

/-- NOTIFY_STORE: a 4-byte store to VALUE, after every earlier store of the same hart or function (R279, R432, R433). -/
def execNotifyStore (vd n : Nat) (data : Word) (src : NotifySrc) (s : State) : Out :=
  if 256 ≤ n ∨ vd = 0 ∨ 64 < vd then .next s
  else match src with
    | .hart h => if hartRuns s h = some vd then .next (storeNotify (s.writeback vd (hartWriter h)) vd n data) else .next s
    | .function => if s.hub.vfEnable then .next (storeNotify s vd n data) else .next s

/-- A byte of a notify page (R432). -/
def notifyByte (s : State) (vd off : Nat) : Byte :=
  let r := notifyOf s vd (off % 0x400 / 4)
  if off < 0x400 then (natLe 4 r.value.toNat).getD (off % 4) 0
  else if off < 0x800 ∧ off % 4 = 0 then BitVec.ofNat 8 ((if r.ovr then 2 else 0) + (if r.full then 1 else 0))
  else 0

/-- A store to a notify page; one that is not of 4 aligned bytes is ignored (R432). -/
def notifyPageWrite (s : State) (vd off : Nat) (data : List Byte) : State :=
  if data.length ≠ 4 ∨ off % 4 ≠ 0 ∨ 0x800 ≤ off then s
  else if off < 0x400 then storeNotify s vd (off / 4) (BitVec.ofNat 32 (leNat data))
  else
    let r := notifyOf s vd (off % 0x400 / 4)
    if (leNat data).testBit 1 ∧ r.ovr then setNotify s vd { r with ovr := false } else s

/-! ### Oasis harts (R429 to R431) -/

/-- Hart `n` started at ENTRY in S-mode with satp = 0, a0 its number and a1 ARG (R431). -/
def Hart.started (h : Hart) (n : Nat) : Hart :=
  { h with state := 1, pc := h.entry, regs := listSet (listSet h.regs 9 (BitVec.ofNat 64 n)) 10 h.arg, priv := 1, satp := 0 }

/-- OASIS_GO: writing 1 to GO starts a hart that is not running (R431).
Beyond the rule's words: DESIGN CHOICE, log entry 54. -/
def execOasisGo (vd n : Nat) (s : State) : Out :=
  if hartDevice s n ≠ some vd ∨ !deviceWorks s vd ∨ (hartOf s n).state = 1 then .next s
  else .next (setHart s n ((hartOf s n).started n))

/-- A page of the sandbox region: its byte's place, W, X and WB (R363, R376, R430). -/
structure HartPage where
  place : Loc
  w : Bool
  x : Bool
  wb : Bool
  deriving DecidableEq, Repr

/-- Is a place a line of a weight window. -/
def isWeight (s : State) : Loc → Bool
  | .win uid _ => s.hub.windows.any fun w => w.uid == uid && !w.exchange
  | _ => false

/-- The page that a sandbox address reaches (R430). The error ring belongs to the device's groups alone (R447). -/
def hartPage (s : State) (vd va : Nat) : Option HartPage :=
  let d := s.vd vd
  let found : Option HartPage := match d.maps.find? fun m => m.va ≤ va && va < m.va + m.size with
    | some m =>
      if m.self then
        let e := s.natAt (.hbm vd (selfEntryAt m va)) 8
        let l := leafOfEntry e
        if bitsOf e 0 1 = 1 ∧ selfLeafOk m e ∧ walkBad s vd va = none then some { place := selfPlace m vd l va, w := l.w, x := l.x, wb := l.wb } else none
      else if windowGone s vd m then none
      else some { place := mappedPlace s vd m va, w := m.w, x := m.x, wb := false }
    | none =>
      match sysPage vd d va, viewPage d va with
      | some w, _ => if va < sysBase + 3 * 2 ^ 16 then some { place := .sys vd (va - sysBase), w := w, x := false, wb := false } else none
      | none, some a => some { place := .hbm vd a, w := true, x := false, wb := false }
      | none, none => none
  found.filter fun p => !isWeight s p.place && match p.place with
    | .peer port _ _ => ((s.hub.ports[port]?).map (·.up)).getD false
    | _ => true

/-- The pages of `n` bytes, if each byte has one. -/
def hartPages (s : State) (vd va : Nat) : Nat → Option (List HartPage)
  | 0 => some []
  | n + 1 => match hartPage s vd va, hartPages s vd (va + 1) n with
    | some p, some l => some (p :: l)
    | _, _ => none

/-- The bytes that a hart reads, or an access fault. -/
def hartRead (s : State) (vd va n : Nat) (fetch : Bool) : Reply :=
  match hartPages s vd va n with
  | some ps => if ps.any fun p => (fetch && !p.x) || (badLine s p.place).isSome then .accessFault else .data (ps.map fun p => s.homeByte vd p.place)
  | none => .accessFault

/-- One place of each line among places. -/
def oneEach : List Loc → List Loc
  | [] => []
  | l :: ls => if ls.any fun m => m.line == l.line then oneEach ls else l :: oneEach ls

/-- A hart's store of bytes, each where its page lies, with each line's counters (R279, R411). -/
def hartStore (s : State) (vd writer : Nat) (bs : List (HartPage × Byte)) : State :=
  let s1 := bs.foldl (fun st p => st.store vd writer p.1.place [p.2]) s
  (oneEach (bs.map fun p => p.1.place)).foldl (fun st l => match l with
    | .win _ _ => st
    | _ => st.bumpLine l) s1

/-- The timer that an address of the ACLINT MTIMER layout names: a hart's compare value, or mtime (R430). -/
def timerAccess (s : State) (off : Nat) (write : Bool) (data : List Byte) : State :=
  let (n, s0) := s.takeNat
  let s1 := s0.modHub fun h => { h with mtime := h.mtime + BitVec.ofNat 64 n }
  let x := BitVec.ofNat 64 (leNat data)
  let h := hartOf s1 (off / 8)
  if off = 0x7FF8 then
    (if write then { s1.modHub (fun k => { k with mtime := x }) with reply := .data [] } else { s1 with reply := .data (natLe 8 s1.hub.mtime.toNat) })
  else if off < 8 * 16 ∧ off % 8 = 0 then
    (if write then { setHart s1 (off / 8) { h with mtimecmp := x } with reply := .data [] } else { s1 with reply := .data (natLe 8 h.mtimecmp.toNat) })
  else { s with reply := .accessFault }

/-- An access of a running hart of a device. Beyond the rule's words: DEDUCED, log entry 43. -/
def hartAccess (s : State) (vd hart addr : Nat) (kind : OasisKind) (data : List Byte) : State :=
  let answer := fun (st : State) (r : Reply) => ({ st with reply := r } : State)
  let area := 2 ^ 52
  let page := 2 ^ 52 + 0x100000
  let timer := 2 ^ 52 + 0x200000
  match kind with
  | .mtime write => if timer ≤ addr ∧ addr < timer + 0x8000 then timerAccess s (addr - timer) write data else answer s .accessFault
  | .fetch => if addr + 4 ≤ 2 ^ 52 then answer s (hartRead s vd addr 4 true) else answer s .accessFault
  | .load n =>
    if addr + n ≤ 2 ^ 52 then answer s (hartRead s vd addr n false)
    else if area ≤ addr ∧ addr + n ≤ area + 0x44010 then
      answer s (.data ((upto n).map fun i => areaByte s (0x40 + vd) (addr - area + i)))
    else if page ≤ addr ∧ addr + n ≤ page + 0x1000 then answer s (.data ((upto n).map fun i => notifyByte s vd (addr - page + i)))
    else answer s .accessFault
  | .store =>
    let n := data.length
    if addr + n ≤ 2 ^ 52 then
      match hartPages s vd addr n with
      | none => answer s .accessFault
      | some ps =>
        if ps.any fun p => !p.w || (badLine s p.place).isSome then answer s .accessFault
        else if ps.any fun p => p.wb then answer s .wait
        else answer (hartStore s vd (hartWriter hart) (ps.zip data)) (.data [])
    else if area ≤ addr ∧ addr + n ≤ area + 0x44010 then answer (areaWrite s (0x40 + vd) (addr - area) data) (.data [])
    else if page ≤ addr ∧ addr + n ≤ page + 0x1000 then
      answer (notifyPageWrite (s.writeback vd (hartWriter hart)) vd (addr - page) data) (.data [])
    else answer s .accessFault

/-- How many bytes an access of a hart translates. -/
def hartBytes (data : List Byte) : OasisKind → Nat
  | .fetch => 4
  | .load n => n
  | .store => data.length
  | .mtime _ => 0

/-- OASIS_HART_ACCESS: a load, store, fetch or timer access of a running hart (R430, R380). -/
def execOasisHartAccess (hart addr : Nat) (kind : OasisKind) (data : List Byte) (s : State) : Out :=
  match hartRuns s hart with
  | none => .next s
  | some v => .next (hartAccess (fenceWalks s v 0xFF addr (hartBytes data kind)) v hart addr kind data)

/-- OASIS_HART_FENCE: a fence whose predecessor set includes writes writes the hart's staged stores to their windows (R279,
R280). -/
def execOasisHartFence (hart : Nat) (predWrites : Bool) (s : State) : Out :=
  match hartRuns s hart with
  | none => .next s
  | some v => if predWrites then .next (s.writeback v (hartWriter hart)) else .next s

/-! ### Evidence and SPDM (R420, R421, R435) -/

/-- Does a function exist. -/
def functionExists (s : State) (fn : Nat) : Bool := fn == 0 || (decide (fn ≤ 64) && s.hub.vfEnable)

/-- The request is answered by the SPDM responder, whose messages the SPDM standard gives.
Beyond the rule's words: PRESUMED, log entry 47. -/
def spdmReply (s : State) (code fn data : Nat) : State :=
  if functionExists s fn then { s with reply := .data (Config.spdmAnswer code fn data) } else s

/-- GET_VERSION (R435). -/
def execGetVersion (fn : Nat) (s : State) : Out := .next (spdmReply s 0x84 fn 0)
/-- GET_CAPABILITIES (R435). -/
def execGetCapabilities (fn : Nat) (s : State) : Out := .next (spdmReply s 0xE1 fn 0)
/-- NEGOTIATE_ALGORITHMS (R435). -/
def execNegotiateAlgorithms (fn : Nat) (s : State) : Out := .next (spdmReply s 0xE3 fn 0)
/-- GET_DIGESTS (R435). -/
def execGetDigests (fn : Nat) (s : State) : Out := .next (spdmReply s 0x81 fn 0)
/-- GET_CERTIFICATE (R435). -/
def execGetCertificate (fn : Nat) (s : State) : Out := .next (spdmReply s 0x82 fn 0)
/-- CHALLENGE (R435). -/
def execChallenge (fn nonce : Nat) (s : State) : Out := .next (spdmReply s 0x83 fn nonce)

/-- KEY_EXCHANGE: a secured session is set up (R435). -/
def execKeyExchange (fn exchange : Nat) (s : State) : Out :=
  if functionExists s fn then
    .next ((spdmReply s 0xE4 fn exchange).modHub fun h => { h with sessions := h.sessions ++ [(fn, exchange)] })
  else .next s

/-- A measurement block (R421). -/
def evidenceBlock (s : State) (fn : Nat) (i : Nat) : List Byte :=
  if 1 ≤ i ∧ i ≤ 4 then measurement s.hub.colds (i - 1)
  else match i with
    | 5 => natLe 4 s.hub.layoutGen.toNat ++ layoutDigest s
    | 6 => agreementPublic s.hub.colds
    | 7 =>
      let d := s.vd fn
      let c := d.ctx
      natLe 1 fn ++ natLe 2 d.gen ++ natLe 1 (if (c.map (·.prot)).getD false then 1 else 0) ++
        natLe 1 ((c.map (·.effMask)).getD 0) ++ natLe 1 (if (c.map (·.unlocked)).getD false then 1 else 0)
    | 8 => natLe 1 (if s.hub.duState = 1 then 1 else 0)
    | _ => []

/-- GET_MEASUREMENTS: one block, or all of them for index 0xFF, or their number for index 0; signed on request over the blocks
and the nonce (R420, R421, R427). -/
def execGetMeasurements (fn index : Nat) (signed : Bool) (nonce : Nat) (s : State) : Out :=
  if !functionExists s fn then .next s
  else
    let blocks := if index = 0xFF then ((upto 8).map fun i => evidenceBlock s fn (i + 1)).flatten
      else if index = 0 then natLe 1 8 else evidenceBlock s fn index
    if signed then
      .next ({ s with reply := .data (blocks ++ attest s.hub.draws (blocks ++ natLe 32 nonce)) }.modHub fun h =>
        { h with draws := h.draws + 1 })
    else .next { s with reply := .data blocks }

/-! ### Debug unlock and debug accesses (R419, R425, R426, R505) -/

/-- The token in the block is tried: it applies, or is rejected; the nonce is drawn again (R422, R425, R505, R507).
Beyond the rule's words: DEDUCED, log entry 48. -/
def submitToken (s : State) : State :=
  let token := (upto 160).map fun i => s.hub.token.getD i 0
  let why := if leNat (token.take 8) ≠ Config.serial.toNat then 1
    else if leNat ((token.drop 8).take 8) ≠ (Config.drawnNonce s.hub.duNonce).toNat then 2
    else if !debugSigOk token then 3
    else 0
  let s1 := s.modHub fun h => { h with
    duNonce := h.duNonce + 1, duState := if why = 0 ∨ h.duState = 1 then 1 else 2 }
  if why = 0 then
    let s2 := bumpLayout s1
    postEvent s2 0x0B 0 (s.vd 0).gen s2.hub.layoutGen.toNat
  else postEvent s1 0x0A 0 (s.vd 0).gen why

/-- DEBUG_TOKEN_SUBMIT (R425). -/
def execDebugTokenSubmit (s : State) : Out := .next (submitToken s)

/-- May the physical function see a part of a device: a bit of its effective mask (R419). Device 0 is its own. -/
def visible (s : State) (vd bit : Nat) : Bool :=
  vd == 0 || match (s.vd vd).ctx with
    | some c => c.effMask.testBit bit
    | none => false

/-- What a debug access reads at a place: window lines show their ciphertext (R279, R417). -/
def debugByte (s : State) (vd : Nat) (l : Loc) : Byte :=
  match l with
  | .win uid off =>
    match s.hub.windows.find? fun w => w.uid == uid with
    | some w =>
      let line := s.bytesAt (.win uid (off / 128 * 128)) 128
      let (major, minor, written) := lineCounters w.leaves off
      (match w.exchange, w.key with
        | true, some key => if written then (lineCipher key major minor (off / 128 * 128) line).getD (off % 128) 0 else 0
        | _, _ => line.getD (off % 128) 0)
    | none => 0
  | _ => s.homeByte vd l

/-- A debug write of bytes; those of window lines, and of addresses without a page, go nowhere. -/
def debugWrite (s : State) (vd va : Nat) (bs : List Byte) : State :=
  let places := (bs.zipIdx).filterMap fun p => match hubPlace s vd (va + p.2) with
    | some (.win _ _) => none
    | some l => some (l, p.1)
    | none => none
  (oneEach (places.map (·.1))).foldl State.bumpLine (places.foldl (fun (st : State) p => st.land p.1 [p.2]) s)

/-- A register of a group that a debug access names; none when the group has no such register. -/
def debugWord (g : Group) : DebugReg → Option Word
  | .scalar ix n => if n < 48 ∨ 64 ≤ n ∧ n < 128 ∨ n < 64 ∧ (g.split? ix).isSome then some (g.sval ix n) else none
  | .lane spec lane =>
    if lane < 96 ∧ (spec < g.vregs.length ∧ spec < 0x100 ∨ 0x100 ≤ spec ∧ spec < 0x110) then some ((g.vval spec).getD lane 0) else none
  | .pred w => if w < 87 then some (BitVec.ofNat 32 (leNat (((predBlock g).drop (4 * w)).take 4))) else none

/-- A debug write of such a register; the k registers are constants, and stay. -/
def debugSet (s : State) (g : Group) (r : DebugReg) (n : Nat) : State :=
  match r with
  | .scalar ix f => if f < 64 then s.setGroup (g.sset ix f (BitVec.ofNat 32 n)) else s
  | .lane spec lane => unpoison (s.setGroup (g.vsetLane spec lane (BitVec.ofNat 32 n))) g (laneRegs spec 1) (BitVec.ofNat 96 (2 ^ lane))
  | .pred w => s.setGroup (g.setPredWord w (BitVec.ofNat 32 n))

/-- DEBUG_ACCESS of the physical function to a device's memory or to a register of one of its groups; while VISMASK bit 4 is
clear it reads zero and writes nothing (R419). -/
def execDebugAccess (vd : Nat) (loc : DebugLoc) (write : Bool) (data : List Byte) (s : State) : Out :=
  if 64 < vd then .next s
  else match loc with
    | .mem addr len =>
      if write then .next (if visible s vd 4 then debugWrite s vd addr data else s)
      else
        let read := fun (i : Nat) => match hubPlace s vd (addr + i) with
          | some l => debugByte s vd l
          | none => 0
        .next { s with reply := .data ((upto len).map fun i => if visible s vd 4 then read i else 0) }
    | .reg core slot r =>
      match s.groups.find? fun g => g.vd == vd && g.core == core && g.slot == slot with
      | none => .next s
      | some g => match debugWord g r with
        | none => .next s
        | some w =>
          if write then .next (if visible s vd 4 then debugSet s g r (leNat data) else s)
          else .next { s with reply := .data (natLe 4 (if visible s vd 4 then w.toNat else 0)) }

/-! ### Peer links (R365, R437, R484) -/

/-- A port put in place. -/
def setPort (s : State) (n : Nat) (p : Port) : State := s.modHub fun h => { h with ports := listSet h.ports n p }

/-- PEER_FLIT_RETRY: a flit's CRC fails again, or that of another flit fails for the first time; which of them is not the
event's to say (R437). Beyond the rule's words: DEDUCED, log entry 44. -/
def execPeerFlitRetry (port : Nat) (s : State) : Out :=
  let p := portOf s port
  if 16 ≤ port ∨ !p.up ∨ 16 ≤ p.retries then .next s
  else
    let (other, s1) := s.takeBit
    let (seq, s2) := s1.takeNat
    if p.retries = 0 ∨ other then .next (setPort s2 port { p with retries := 1, seq := seq % 2 ^ 32 })
    else .next (setPort s2 port { p with retries := p.retries + 1 })

/-- Does a place lie behind a port. -/
def behindPort (port : Nat) : Loc → Bool
  | .peer q _ _ => q == port
  | _ => false

/-- Every unacknowledged load element behind a port fails (R484). -/
def failLoads (port : Nat) (s : State) (o : LoadOp) : State :=
  o.els.foldl (fun st p =>
    if behindPort port p.2.loc then
      match st.loads.find? fun q => q.op == o.op && q.els.any fun e => e.1 == p.1 with
      | some q => performLoad st q p (some (0x1A, p.2.va / 128 * 128, port + 2 ^ 4))
      | none => st
    else st) s

/-- An unacknowledged store or atomic behind a port fails (R484). -/
def failStore (port : Nat) (s : State) (e : StoreEl) : State :=
  if behindPort port e.loc then
    let s1 : State := { s with stores := s.stores.filter fun f => f.id != e.id }
    wakeWrite (opDone (opFault s1 e.op e.lane 0x1A e.va (port + 2 ^ 4)) e.op 1) e.gid e.op
  else s

/-- PEER_PORT_DOWN: after 16 failed retries of one flit the port goes down until a cold reset (R437, R484). Transfers of
copies through it fail when they go on. -/
def execPeerPortDown (port : Nat) (s : State) : Out :=
  let p := portOf s port
  if 16 ≤ port ∨ !p.up ∨ p.retries < 16 then .next s
  else
    let s1 := setPort s port { p with up := false }
    let s2 := s1.loads.foldl (failLoads port) s1
    let s3 := s2.stores.foldl (failStore port) s2
    .next (postEvent s3 0x05 0 (s.vd 0).gen (port + 2 ^ 32 * p.seq))

/-- Is an access from a peer admitted: each byte lies in a converged mapping with LOC 0 and PEXP whose PORT and PVD name the
sender, and whose leaf has W for a write (R365). -/
def peerAdmits (s : State) (port dev vd addr n : Nat) (write : Bool) : Bool :=
  !(s.vd vd).fenced && (upto n).all fun i => match (s.vd vd).maps.find? fun m => m.va ≤ addr + i && addr + i < m.va + m.size with
    | some m => m.loc == 0 && m.pexp && m.port == port && m.pvd == dev && !m.system && match hartPage s vd (addr + i) with
      | some p => (!write || p.w) && (badLine s p.place).isNone
      | none => false
    | none => false

/-- PEER_ACCESS_ARRIVE: an access of a peer device is performed under the target's tables, or refused; a write to a page with
WB set waits (R23, R365, R380, R484). -/
def execPeerAccessArrive (port dev vd addr : Nat) (kind : PeerKind) (data : List Byte) (s : State) : Out :=
  let answer := fun (st : State) (r : Reply) => (.next { st with reply := r } : Out)
  let n := match kind with
    | .load n => n
    | .store => data.length
    | .atomic _ n => n
  let write := match kind with
    | .load _ => false
    | _ => true
  if !(portOf s port).up ∨ 64 < vd then .next s
  else if !peerAdmits s port dev vd addr n write then answer (fenceWalks s vd 0xFF addr n) .refused
  else match hartPages s vd addr n with
    | none => answer s .refused
    | some ps =>
      let bytes := ps.map fun p => s.homeByte vd p.place
      let put := fun (bs : List Byte) => hartStore s vd hubWriter (ps.zip bs)
      if write && ps.any fun p => p.wb then answer s .wait
      else match kind with
        | .load _ => answer s (.data bytes)
        | .store => answer (put data) (.data [])
        | .atomic op _ =>
          let new := atomicNew (op % 16) (8 * n) (16 ≤ op) (leNat ((data.drop n).take n)) (leNat bytes) (leNat (data.take n))
          answer (put (natLe n new)) (.data bytes)

end Sys2Proof.Machine
end

