-- ==== Sys2Proof/Machine/Halt.lean ====
section
/-! DEFINITION. Halting (R440 to R443, R500), the inspection and discard of halted groups (R450, R451), BAR 0 and the
configuration space of a function (R6, R7, R336, R374, R402, R425, R431, R432, R439, R447, R450, R452), and the scrubbers
(R483). -/

namespace Sys2Proof.Machine

/-! ### Halting (R440) -/

/-- What waits with no bound is withdrawn, and what has not issued stays unissued: .fe and .fec accesses, copies before step
4 of R227, engine instructions before their admission, WAITN (R440). -/
def withdraw (s : State) (g : Group) : State :=
  let waits := (s.feqs.filter fun q => q.gid == g.gid).map (·.op)
  let s1 := waits.eraseDups.foldl (fun st op =>
    let left := match st.ops.find? fun r => r.op == op with
      | some r => r.left
      | none => 0
    opDone { st with stores := st.stores.filter fun e => e.op != op || e.stage == .point } op left) s
  let s2 : State := { s1 with
    feqs := s1.feqs.filter fun q => q.gid != g.gid, copies := s1.copies.filter fun c => c.gid != g.gid || c.claimed }
  let s3 := (s2.engops.filter fun o => o.gid == g.gid && !o.admitted).foldl dropEng s2
  let mine := ((s3.vd g.vd).waiters.filter fun w => w.gid == g.gid).map fun w => (w.split, w.reg)
  (s3.modVd g.vd fun d => { d with waiters := d.waiters.filter fun w => w.gid != g.gid }).modGroup g.gid fun h =>
    { h with locks := h.locks.filter fun k => !mine.contains k }

/-- Has everything that the group issued before its fault completed (R440, step 3). -/
def haltDrained (s : State) (g : Group) : Bool :=
  storesDone s g.gid s.fresh 5 && (s.loads.all fun l => l.gid != g.gid) && (s.stores.all fun e => e.gid != g.gid || !e.isAtomic) &&
  (s.engops.all fun o => o.gid != g.gid) && (s.copies.all fun c => c.gid != g.gid) && (s.pushes.all fun p => p.gid != g.gid) &&
  (s.core g.core).divs.all fun d => match d with
    | some e => e.gid != g.gid
    | none => true

/-- The census entries of a group complete and are freed (R311, R440). -/
def orphanCensus (s : State) (gid : Nat) : State :=
  { s with solicits := leaveCensus gid s.solicits }

/-- May a faulting group halt: its issued work is done and its staged stores are written. -/
def haltReady (s : State) (g : Group) : Bool :=
  let s1 := withdraw s g
  g.status == .faulting && haltDrained s1 g && (s1.stagedLines g.vd g.gid).isEmpty

/-- May a group of a lower core, or of a lower slot of the same core, halt now: its record is posted first (R442). -/
def haltBefore (s : State) (g : Group) : Bool :=
  s.groups.any fun h => (decide (h.core < g.core) || h.core == g.core && decide (h.slot < g.slot)) && haltReady s h

/-- GROUP_HALT: a faulting group's waits are withdrawn, and once its issued work has completed it is halted: its staged stores
are written, a responder discharges with the identity, and the record is posted, after those of lower cores and slots that
are due with it (R279, R440, R442, R447, R500). -/
def execGroupHalt (gid : Nat) (s : State) : Out :=
  match s.group? gid with
  | none => .next s
  | some g =>
    if g.status ≠ .faulting then .next s
    else
      let s1 := withdraw s g
      if !haltDrained s1 g then .next s1
      else match s1.writebackSome g.vd gid with
      | some s2 => .next s2
      | none =>
        if haltBefore s g then .next s1 else
        let s2 := orphanCensus (s1.modGroup gid fun h => { h.settleAll with status := .halted }) gid
        let s3 := match g.responder with
          | some r => discharge s2 r none
          | none => s2
        .next (match s3.group? gid with
          | some h => postGroup s3 h
          | none => s3)

/-! ### Inspection (R450, R451) -/

/-- The selection of a function's inspection window: VD, core, slot, KIND, INDEX (R450). -/
def inspection (s : State) (fn : Nat) : Nat × Nat × Nat × Nat × Nat :=
  let w := (s.vd fn).insp.toNat
  (if fn = 0 then bitsOf w 32 7 else fn, bitsOf w 24 8, bitsOf w 19 5, bitsOf w 13 4, bitsOf w 0 13)

/-- The halted group that a function's window selects. -/
def inspected (s : State) (fn : Nat) : Option Group :=
  let (vd, core, slot, _, _) := inspection s fn
  s.groups.find? fun g => g.vd == vd && g.core == core && g.slot == slot && g.status == .halted

/-- DISCARD through a function's window (R451). -/
def discardSelected (s : State) (fn : Nat) : State :=
  match inspected s fn with
  | some g => discardGroup s g
  | none => s

/-- INSPECT_DISCARD (R451). -/
def execInspectDiscard (fn : Nat) (s : State) : Out :=
  if functionExists s fn then .next (discardSelected s fn) else .next s

/-- 96 words as SAVEG lays them out (R395). -/
def wordBytes (l : List Word) : List Byte := l.flatMap fun w => natLe 4 w.toNat

/-- STATE of a split-table entry in the summary (R450). -/
def SplitState.code : SplitState → Nat
  | .free => 0
  | .running => 1
  | .joining => 2

/-- The summary's 48 bytes of an entry (R450). -/
def summarySplit (g : Group) (i : Nat) : List Byte :=
  match g.split? i with
  | none => natLe 48 (127 * 2 ^ 16)
  | some sp =>
    let f := g.faults.find? fun r => r.who == i
    let st := if i = 8 then 3 else sp.state.code
    natLe 4 (st + 2 ^ 8 * ((f.map (·.code)).getD 0) + 2 ^ 16 * ((f.map (·.lane)).getD 127)) ++ natLe 4 sp.pc ++
      natLe 12 sp.mask.toNat ++ natLe 12 sp.rejoin.toNat ++ natLe 4 sp.fmt.toNat ++ natLe 4 sp.saved.toNat ++
      natLe 8 ((f.map (·.addr)).getD 0)

/-- KIND 0: the summary (R450). -/
def summaryBytes (s : State) (g : Group) : List Byte :=
  let cycles := if residentOn s g.core g.vd then cyclesOf g (s.now g.core) else g.cycBefore
  g.record.take 64 ++ ((upto 9).flatMap fun i => summarySplit g i) ++ (g.wc.flatMap fun n => natLe 1 n) ++
    natLe 4 (gstatOf g g.empty) ++ natLe 4 cycles ++ natLe 4 (g.late.1 + 2 ^ 8 * g.late.2)

/-- KIND 8: an entry of the batch queue (R450). -/
def batchBytes (b : Batch) : List Byte :=
  natLe 4 (b.split % 8 + 8 + if b.suspended then 16 else 0) ++ natLe 4 b.first ++ natLe 4 b.count ++ natLe 4 (b.first + b.next) ++
    natLe 12 b.mask.toNat ++ natLe 4 b.fmt.toNat

/-- A scratchpad row of a group's team: its bytes and the empty granules, in the core or in its saved image. -/
def inspectRow (s : State) (g : Group) (row : Nat) : List Byte :=
  let full := fun (empties : List Nat) => ((upto 24).map fun k => if empties.contains (24 * (g.spBase + row) + k) then 0 else 2 ^ k).sum
  if residentOn s g.core g.vd then
    s.agentBytes g.core g.vd (.spad g.core (384 * (g.spBase + row))) 384 ++ natLe 3 (full (s.core g.core).empties)
  else match (g.team.bind s.team?) with
    | some t => s.bytesAt (.image t.tid (384 * row)) 384 ++ natLe 3 (full t.imageEmpty)
    | none => natLe 384 0 ++ natLe 3 (full [])

/-- The elements and flags of an accumulator row of a group's team. -/
def inspectAcc (s : State) (g : Group) (row : Nat) : List Word × BitVec 5 :=
  let rows := if residentOn s g.core g.vd then (s.core g.core).accs else ((g.team.bind s.team?).map (·.imageAcc)).getD []
  keyGet (List.replicate 128 0, 0) rows (g.accBase + row)

/-- INSPDATA of a halted group, if KIND and INDEX are in range (R450). -/
def inspData (s : State) (g : Group) (kind index : Nat) : Option (List Byte) :=
  match kind with
  | 0 => if index = 0 then some (summaryBytes s g) else none
  | 1 => if index < g.launch.vregs then some (wordBytes (g.vval index)) else none
  | 2 => if index < 16 then some (wordBytes (g.vval (0x100 + index))) else none
  | 3 => if index = 0 then some (predBlock g) else none
  | 4 => if index ≤ 8 then
      some (wordBytes g.sregs ++ wordBytes (((g.split? index).map (·.priv)).getD (List.replicate 16 0))) else none
  | 5 => if index < g.spRows then some (inspectRow s g index) else none
  | 6 => if index < g.accRows then some (wordBytes (inspectAcc s g index).1) else none
  | 7 => if index % 512 = 0 ∧ index < g.accRows then
      some ((upto (min 512 (g.accRows - index))).map fun k => BitVec.ofNat 8 (inspectAcc s g (index + k)).2.toNat) else none
  | 8 => if index = 0 then some (g.batches.flatMap batchBytes) else none
  | _ => none

/-- VALID, HIDDEN and SAVED of a function's window, with its data (R419, R450). -/
def inspStatus (s : State) (fn : Nat) : Nat × List Byte :=
  let (vd, _, _, kind, index) := inspection s fn
  let hidden := fn == 0 && !visible s vd 0
  match inspected s fn with
  | none => ((if hidden then 2 else 0), [])
  | some g =>
    let d := inspData s g kind index
    ((if d.isSome then 1 else 0) + (if hidden then 2 else 0) + (if residentOn s g.core g.vd then 0 else 4),
     if hidden then [] else d.getD [])

/-! ### What a function shows (BAR 0 and configuration space) -/

/-- Offsets of the configuration space, as REGISTER_WRITE numbers them (the model's own numbering).
Beyond the rule's words: PRESUMED, log entry 42. -/
def configSpace : Nat := 2 ^ 32

/-- A byte of the oasis control block (R431). -/
def oasisByte (s : State) (fn off : Nat) : Byte :=
  let n := off / 32
  if hartDevice s n ≠ some fn then 0
  else
    let h := hartOf s n
    (natLe 8 h.entry.toNat ++ natLe 8 h.arg.toNat ++ natLe 4 h.state).getD (off % 32) 0

/-- A byte of a function's BAR 0 as it reads (R336, R374, R402, R419, R425, R431, R432, R439, R447, R450). -/
def barByte (s : State) (fn off : Nat) : Byte :=
  let within := fun (lo n : Nat) => decide (lo ≤ off) && decide (off < lo + n)
  if off < 0x50000 then areaByte s fn off
  else if within 0x50000 0x20000 then s.mem.read (Loc.sys fn (off - 0x50000)).key
  else if within 0x70000 0x30 then (if visible s fn 1 then s.mem.read (Loc.sys fn (off - 0x50000)).key else 0)
  else if within 0x80000 0x8 ∧ fn = 0 then (natLe 8 (Config.drawnNonce s.hub.duNonce).toNat).getD (off - 0x80000) 0
  else if off = 0x80008 ∧ fn = 0 then BitVec.ofNat 8 s.hub.duState
  else if within 0x80100 160 ∧ fn = 0 then s.hub.token.getD (off - 0x80100) 0
  else if off = 0x81000 ∧ fn = 0 then BitVec.ofNat 8 s.hub.boot
  else if within 0x90000 512 ∧ fn ≠ 0 then oasisByte s fn (off - 0x90000)
  else if within 0xA0000 0x800 ∧ fn ≠ 0 then notifyByte s fn (off - 0xA0000)
  else if within 0xB0000 16 then s.mem.read (Loc.sys fn (ringCtl + (off - 0xB0000))).key
  else if within 0xB0100 8 then
    (natLe 8 ((s.vd fn).insp.toNat % 2 ^ 32 + 2 ^ 32 * (inspection s fn).1)).getD (off - 0xB0100) 0
  else if off = 0xB0108 then BitVec.ofNat 8 (inspStatus s fn).1
  else if within 0xB0200 512 then (inspStatus s fn).2.getD (off - 0xB0200) 0
  else if within 0xC0000 0x40000 then s.mem.read (Loc.sys fn (ringEntries + (off - 0xC0000))).key
  else 0

/-- A byte of a function's vendor-specific capability (R452). -/
def configByte (s : State) (fn off : Nat) : Byte :=
  let d := s.vd fn
  let cap := natLe 4 (0x23 + 2 ^ 16) ++ natLe 4 (Config.vendorId.toNat + 2 ^ 20 * 0x24) ++ natLe 4 1 ++ natLe 4 d.status.toNat ++
    natLe 4 d.fcount.toNat ++ natLe 16 d.hdrlog.toNat
  if 0x200 ≤ off ∧ off < 0x224 then cap.getD (off - 0x200) 0 else 0

/-! ### Writes (R6, R7) -/

/-- Bytes of a register with those of a write laid over them. -/
def overlay (old : List Byte) (base off : Nat) (data : List Byte) : List Byte :=
  old.zipIdx.map fun p => if off ≤ base + p.2 ∧ base + p.2 < off + data.length then data.getD (base + p.2 - off) 0 else p.1

/-- A byte that a write brings, or zero. -/
def writtenByte (off : Nat) (data : List Byte) (at_ : Nat) : Byte :=
  if off ≤ at_ then data.getD (at_ - off) 0 else 0

/-- Does a write meet a range. -/
def touches (off n lo len : Nat) : Bool := decide (off < lo + len) && decide (lo < off + n)

/-- The fields of the inspection selection that a function may write (R450). -/
def inspMask (fn : Nat) : Nat := (if fn = 0 then 0x7F * 2 ^ 32 else 0) + 0xFFF9FFFF

/-- A write of the oasis control block (R431). -/
def oasisWrite (s : State) (fn off : Nat) (data : List Byte) : State :=
  (upto 16).foldl (fun st n =>
    if hartDevice st n ≠ some fn then st
    else
      let base := 32 * n
      let h := hartOf st n
      let e := overlay (natLe 8 h.entry.toNat) base off data
      let a := overlay (natLe 8 h.arg.toNat) (base + 8) off data
      let go := (writtenByte off data (base + 0x14)).toNat % 2 == 1 && h.state != 1 && deviceWorks st fn
      let h1 := { h with entry := BitVec.ofNat 64 (leNat e), arg := BitVec.ofNat 64 (leNat a) }
      setHart st n (if go then h1.started n else h1)) s

/-- A write of a function's BAR 0. -/
def barWrite (s : State) (fn off : Nat) (data : List Byte) : State :=
  let n := data.length
  let words := fun (st : State) (bar place : Nat) =>
    if touches off n bar 12 then st.putBytes (.sys fn place) (overlay (st.bytesAt (.sys fn place) 12) bar off data) else st
  let s1 := if off < 0x40000 then areaWrite s fn off data else s
  let s2 := words (words s1 0x50000 0) 0xB0000 ringCtl
  let s3 := if fn = 0 ∧ touches off n 0x80100 160 then
      s2.modHub fun h => { h with token := overlay ((upto 160).map fun i => h.token.getD i 0) 0x80100 off data } else s2
  let s4 := if fn = 0 ∧ (writtenByte off data 0x80010).toNat % 2 = 1 then submitToken s3 else s3
  let s5 := if fn ≠ 0 ∧ touches off n 0x90000 512 then oasisWrite s4 fn (off - 0x90000) data else s4
  let s6 := if fn ≠ 0 ∧ 0xA0000 ≤ off ∧ off < 0xA1000 then notifyPageWrite s5 fn (off - 0xA0000) data else s5
  let s7 := if touches off n 0xB0100 8 then
      s6.modVd fn fun d => { d with
        insp := BitVec.ofNat 64 (Nat.land (inspMask fn) (leNat (overlay (natLe 8 d.insp.toNat) 0xB0100 off data))) }
    else s6
  if (writtenByte off data 0xB0110).toNat % 2 = 1 then discardSelected s7 fn else s7

/-- A write of a function's configuration space: the status bits but FENCED clear where a 1 is written (R452). -/
def configWrite (s : State) (fn off : Nat) (data : List Byte) : State :=
  let ones := (writtenByte off data 0x20C).toNat
  s.modVd fn fun d => { d with status := BitVec.ofNat 32 (d.status.toNat - Nat.land d.status.toNat (Nat.land ones 0xBF)) }

/-- REGISTER_WRITE: the host writes BAR 0 of a function, or, from 2^32 up, its configuration space (R6, R7). -/
def execRegisterWrite (fn off : Nat) (data : List Byte) (s : State) : Out :=
  if !functionExists s fn then .next s
  else if configSpace ≤ off then .next (configWrite s fn (off - configSpace) data)
  else .next (barWrite s fn off data)

/-! ### Scrubbers (R483) -/

/-- The device whose ranges hold a row of a core now. -/
def rowOwner (s : State) (core : Nat) (has : Partition → Bool) : Option Nat :=
  allDevices.find? fun v => residentOn s core v && match (s.vd v).part with
    | some p => has p
    | none => false

/-- The device that owns an SRAM element. -/
def sramOwner (s : State) (core : Nat) : SramAt → Option Nat
  | .reg gid _ _ => (s.group? gid).map (·.vd)
  | .opd gid _ _ => (s.group? gid).map (·.vd)
  | .spad row _ => rowOwner s core fun p => inRange p.sfirst p.scount row
  | .febits row => rowOwner s core fun p => inRange p.sfirst p.scount row
  | .acc row _ => rowOwner s core fun p => inRange p.afirst p.acount row
  | .slot n _ => rowOwner s core fun p => p.slots.contains n
  | .control vd => some vd
  | .root vd => some vd

/-- An element of a core's storage is poisoned. Beyond the rule's words: DEDUCED, log entry 27. -/
def poisonAt (s : State) (core : Nat) (ps : List (Nat × Nat × Nat)) : State :=
  s.modCore core fun k => { k with poison := ps ++ k.poison.filter fun p => !ps.contains p }

/-- An uncorrectable error of SRAM: the element is poisoned, the slot is invalid, or the owner of control state is fenced. -/
def sramFails (s : State) (core : Nat) : SramAt → State
  | .reg gid row lane => match s.group? gid with
    | some g => poisonAt s g.core [(0, g.rowBase + row, lane)]
    | none => s
  | .opd gid row lane => match s.group? gid with
    | some g => poisonAt s g.core [(1, 16 * g.slot + row, lane)]
    | none => s
  | .spad row elem => poisonAt s core [(2, row, elem)]
  | .febits row => poisonAt (setEmpty s core ((upto 24).map fun k => 24 * row + k)) core ((upto 24).map fun k => (3, row, k))
  | .acc row elem => poisonAt s core [(4, row, elem)]
  | .slot n row => match sramOwner s core (.slot n row) with
    | some v => setSlot s core v n .invalid
    | none => s
  | .control vd => fenceOwner s vd 0x18 core (2 ^ 8 * core)
  | .root vd => if vd ≤ 64 then fenceOwner s vd 0x18 0xFF 0 else fencePackage s 0x18 0

/-- SRAM_SCRUB: an element is read; a correctable error sets CORRECTED (R452, R483). -/
def execSramScrub (core : Nat) (what : SramAt) (out : ScrubOut) (s : State) : Out :=
  match out with
  | .corrected => match sramOwner s core what with
    | some v => .next (setStatus s v stCorrected)
    | none => .next s
  | .uncorrectable => .next (sramFails s core what)
  | _ => .next s

/-- HBM_PATROL_SCRUB: a line of a device's HBM space is read; an uncorrectable one fails until a full write covers it, and a
remap of its row changes timing only (R483). Which channel of the line's set failed is free (R366).
Beyond the rule's words: DEDUCED, log entry 45. -/
def execHbmPatrolScrub (vd line : Nat) (out : ScrubOut) (s : State) : Out :=
  match out with
  | .corrected => .next (setStatus s vd stCorrected)
  | .uncorrectable =>
    let (ch, s1) := s.takeNat
    .next (markBad s1 (.hbm vd (128 * line)) 0x19 (channelOf s (.hbm vd (128 * line)) ch))
  | _ => .next s

end Sys2Proof.Machine
end

