-- ==== Sys2Proof/Machine/LaneInt.lean ====
section
/-! DEFINITION. Lane integer, bit-field, select, move, compare and predicate instructions (R109 to R121). -/

namespace Sys2Proof.Machine

/-! ### Values by type (R110) -/

/-- Is the type signed (R69). -/
def tySigned (t : Nat) : Bool := t / 16 = 1

/-- A source value read as the type says. -/
def readInt (t n : Nat) : Int := if tySigned t then sInt (tyBits t) n else ((n % 2 ^ tyBits t : Nat) : Int)

/-- A result written as the type says, with or without .sat: the 32 or 64 bits that go to the destination. -/
def writeInt (t : Nat) (sat : Bool) (r : Int) : Nat :=
  let w := tyBits t
  let x := if sat then (if tySigned t then satS r w else satZ r w) else wrapN r w
  if w < 32 ∧ tySigned t then wrapN (sInt w x) 32 else x

/-- A source field as one number for each lane: a word, or the value of a pair. -/
def nums : List (List Word) → List Nat
  | [] => List.replicate 96 0
  | [x] => x.map (·.toNat)
  | x :: y :: _ => List.zipWith pairNat x y

/-- Results as registers: one, or two for a 64-bit type. -/
def words (wide : Bool) (r : List Nat) : List (List Word) :=
  if wide then [r.map loWord, r.map hiWord] else [r.map loWord]

/-- A function applied lane by lane to three lists. -/
def map3 (f : Nat → Nat → Nat → Nat) : List Nat → List Nat → List Nat → List Nat
  | a :: as, b :: bs, c :: cs => f a b c :: map3 f as bs cs
  | _, _, _ => []

/-- A mask built lane by lane from two lists, lane 0 first. -/
def mask2 (f : Nat → Nat → Bool) : List Nat → List Nat → Nat
  | a :: as, b :: bs => (if f a b then 1 else 0) + 2 * mask2 f as bs
  | _, _ => 0

/-- .sat of the arithmetic mode (R68). -/
def satMode (l : LaneF) : Bool := 8 ≤ l.mode.toNat

/-- An instruction that computes its destination lane by lane from src a, b and c. -/
def laneMap (op : Nat) (l : LaneF) (f : Nat → Nat → Nat → Nat) (s : State) : Out :=
  laneIssue op l (fun s _ v =>
    .out s { dst := words (isWideTy l.ty.toNat) (map3 f (nums v.a) (nums v.b) (nums v.c)) }) s

/-- An integer instruction: exact result, then written by type (R110, R113). -/
def laneArith (op : Nat) (l : LaneF) (f : Int → Int → Int → Int) (s : State) : Out :=
  let t := l.ty.toNat
  laneMap op l (fun a b c => writeInt t (satMode l) (f (readInt t a) (readInt t b) (readInt t c))) s

/-- VADD (R113). -/
def execVadd (l : LaneF) (s : State) : Out := laneArith 0x001 l (fun a b _ => a + b) s
/-- VSUB (R113). -/
def execVsub (l : LaneF) (s : State) : Out := laneArith 0x002 l (fun a b _ => a - b) s
/-- VMUL (R113). -/
def execVmul (l : LaneF) (s : State) : Out := laneArith 0x004 l (fun a b _ => a * b) s
/-- VMULH: bits 63:32 of the exact product (R113). -/
def execVmulh (l : LaneF) (s : State) : Out := laneArith 0x005 l (fun a b _ => ((wrapN (a * b) 64 / 2 ^ 32 : Nat) : Int)) s
/-- VMAD (R113). -/
def execVmad (l : LaneF) (s : State) : Out := laneArith 0x006 l (fun a b c => a * b + c) s
/-- VMIN (R113). -/
def execVmin (l : LaneF) (s : State) : Out := laneArith 0x007 l (fun a b _ => if a ≤ b then a else b) s
/-- VMAX (R113). -/
def execVmax (l : LaneF) (s : State) : Out := laneArith 0x008 l (fun a b _ => if a ≤ b then b else a) s
/-- VABS (R113). -/
def execVabs (l : LaneF) (s : State) : Out := laneArith 0x009 l (fun a _ _ => if a < 0 then -a else a) s
/-- VNEG (R113). -/
def execVneg (l : LaneF) (s : State) : Out := laneArith 0x00A l (fun a _ _ => -a) s

/-- The sum or difference with carry of one lane (R114). -/
def carryOf (sub : Bool) (a b : Nat) (c : Bool) : Int :=
  if sub then (a : Int) - b - (if c then 1 else 0) else (a : Int) + b + (if c then 1 else 0)

/-- VADDC (R114). -/
def execVaddc (l : LaneF) (s : State) : Out :=
  laneIssue 0x003 l (fun s _ v =>
    let sub := l.ext.toNat % 2 = 1
    let cin : LaneMask := if l.ext.toNat / 2 % 2 = 1 then 0 else v.pc
    let cs := (upto 96).map fun n => if laneBit cin n then 1 else 0
    let a := nums v.a
    let b := nums v.b
    let r := map3 (fun a b c => wrapN (carryOf sub a b (c == 1)) 32) a b cs
    let out := map3 (fun a b c =>
      let z := carryOf sub a b (c == 1)
      if (sub ∧ z < 0) ∨ (!sub ∧ (2 ^ 32 : Nat) ≤ z) then 1 else 0) a b cs
    .out s { dst := words false r, pred := some (l.c.toNat, BitVec.ofNat 96 (mask2 (fun x _ => x == 1) out out)) }) s

/-! ### Bits, fields and bytes -/

/-- The complement of a 32-bit number. -/
def not32 (n : Nat) : Nat := 2 ^ 32 - 1 - n % 2 ^ 32

/-- A logic instruction; ext bit 0 complements B (R115). -/
def laneLogic (op : Nat) (l : LaneF) (f : Nat → Nat → Nat) (s : State) : Out :=
  laneMap op l (fun a b _ => f a (if l.ext.toNat % 2 = 1 then not32 b else b)) s

/-- VAND (R115). -/
def execVand (l : LaneF) (s : State) : Out := laneLogic 0x00B l (fun a b => a &&& b) s
/-- VOR (R115). -/
def execVor (l : LaneF) (s : State) : Out := laneLogic 0x00C l (fun a b => a ||| b) s
/-- VXOR (R115). -/
def execVxor (l : LaneF) (s : State) : Out := laneLogic 0x00D l (fun a b => a ^^^ b) s
/-- VNOT (R115). -/
def execVnot (l : LaneF) (s : State) : Out := laneMap 0x00E l (fun a _ _ => not32 a) s

/-- A shift: the count is B[5:0] for 32 bits and B[6:0] for 64 (R115). -/
def laneShift (op : Nat) (l : LaneF) (f : Nat → Nat → Nat → Nat) (s : State) : Out :=
  let w := tyBits l.ty.toNat
  laneMap op l (fun a b _ => f w a (b % (2 * w))) s

/-- VSHL (R115). -/
def execVshl (l : LaneF) (s : State) : Out := laneShift 0x00F l shlN s
/-- VSHR (R115). -/
def execVshr (l : LaneF) (s : State) : Out := laneShift 0x010 l shrN s
/-- VSAR (R115). -/
def execVsar (l : LaneF) (s : State) : Out := laneShift 0x011 l sarN s
/-- VCLZ (R115). -/
def execVclz (l : LaneF) (s : State) : Out := laneMap 0x012 l (fun a _ _ => leadZeros a) s
/-- VPOPC (R115). -/
def execVpopc (l : LaneF) (s : State) : Out := laneMap 0x013 l (fun a _ _ => popCount 32 a) s
/-- VBREV (R115). -/
def execVbrev (l : LaneF) (s : State) : Out := laneMap 0x014 l (fun a _ _ => reverse32 a) s

/-- Position and length of a bit field: from ext, or from B (R116). -/
def fieldPos (l : LaneF) (b : Nat) : Nat × Nat :=
  if 2 ^ 15 ≤ l.ext.toNat then (l.ext.toNat % 32, l.ext.toNat / 32 % 64) else (b % 32, min (b / 2 ^ 8 % 64) 32)

/-- VBFE (R116). -/
def execVbfe (l : LaneF) (s : State) : Out :=
  let signed := tySigned l.ty.toNat
  laneMap 0x015 l (fun a b _ =>
    let (pos, len) := fieldPos l b
    let f := (((if signed then sInt 32 a else ((a % 2 ^ 32 : Nat) : Int)) / (2 ^ pos : Nat)) % (2 ^ len : Nat)).toNat
    if len = 0 then 0
    else if signed ∧ 2 ^ (len - 1) ≤ f then wrapN ((f : Int) - (2 ^ len : Nat)) 32
    else f) s

/-- VBFI reads its destination (R117). -/
def execVbfi (l : LaneF) (s : State) : Out :=
  laneIssue 0x016 l (fun s _ v =>
    .out s { dst := words false (map3 (fun a b d =>
      let (pos, len) := fieldPos l b
      let m := (2 ^ len - 1) * 2 ^ pos % 2 ^ 32
      (d &&& not32 m) ||| (a * 2 ^ pos % 2 ^ 32 &&& m)) (nums v.a) (nums v.b) (nums v.d)) }) s

/-- One byte of VPERM (R118): the selector nibble, the form and .sx. -/
def permByte (q sel form : Nat) (sx : Bool) : Nat :=
  if 8 ≤ sel then 0
  else
    let y := q / 2 ^ (8 * sel) % 256
    let z := if form = 1 then y % 16 else if form = 2 then y / 16 else y
    if sx ∧ z / 8 % 2 = 1 then z + 0xF0 else z

/-- VPERM (R118). -/
def execVperm (l : LaneF) (s : State) : Out :=
  let form := l.ext.toNat % 4
  let sx := l.ext.toNat / 4 % 2 = 1
  laneMap 0x017 l (fun a b c =>
    ((upto 4).map fun i => permByte (b + 2 ^ 32 * a) (c / 2 ^ (4 * i) % 16) form sx * 2 ^ (8 * i)).sum) s

/-! ### Select, move and compare -/

/-- VSEL (R119). -/
def execVsel (l : LaneF) (s : State) : Out :=
  laneIssue 0x018 l (fun s _ v =>
    let sel := (upto 96).map fun n => if laneBit v.pc n then 1 else 0
    .out s { dst := words (isWideTy l.ty.toNat) (map3 (fun a b c => if c = 1 then a else b) (nums v.a) (nums v.b) sel) }) s

/-- VMOV (R119). -/
def execVmov (l : LaneF) (s : State) : Out := laneMap 0x019 l (fun a _ _ => a) s

/-- The integer relations of VCMP (R120). -/
def relInt (rel : Nat) (a b : Int) : Bool :=
  match rel with
  | 0 => a == b
  | 1 => a != b
  | 2 => decide (a < b)
  | 3 => decide (a ≤ b)
  | 4 => decide (b < a)
  | _ => decide (b ≤ a)

/-- The predicate that a compare leaves: set, .and or .or (R120). -/
def combinePred (form : Nat) (old q : LaneMask) : LaneMask :=
  match form with
  | 0 => q
  | 1 => old &&& q
  | _ => old ||| q

/-- VCMP (R120). -/
def execVcmp (l : LaneF) (s : State) : Out :=
  let t := l.ty.toNat
  laneIssue 0x01A l (fun s _ v =>
    let q := BitVec.ofNat 96 (mask2 (fun a b => relInt (l.ext.toNat % 8) (readInt t a) (readInt t b)) (nums v.a) (nums v.b))
    .out s { pred := some (l.dst.toNat, combinePred (l.ext.toNat / 8 % 4) v.pd q) }) s

/-! ### Predicates (R121) -/

/-- A predicate instruction. -/
def lanePred (op : Nat) (l : LaneF) (f : LaneVals → LaneMask) (s : State) : Out :=
  laneIssue op l (fun s _ v => .out s { pred := some (l.dst.toNat, f v) }) s

/-- pB, or NOT pB under .nb (R121). -/
def predB (l : LaneF) (v : LaneVals) : LaneMask := if l.ext.toNat % 2 = 1 then ~~~v.pb else v.pb

/-- PAND (R121). -/
def execPand (l : LaneF) (s : State) : Out := lanePred 0x040 l (fun v => v.pa &&& predB l v) s
/-- POR (R121). -/
def execPor (l : LaneF) (s : State) : Out := lanePred 0x041 l (fun v => v.pa ||| predB l v) s
/-- PXOR (R121). -/
def execPxor (l : LaneF) (s : State) : Out := lanePred 0x042 l (fun v => v.pa ^^^ predB l v) s
/-- PNOT (R121). -/
def execPnot (l : LaneF) (s : State) : Out := lanePred 0x043 l (fun v => ~~~v.pa) s
/-- PMOV (R121). -/
def execPmov (l : LaneF) (s : State) : Out := lanePred 0x044 l (fun v => v.pa) s
/-- PSET (R121). -/
def execPset (l : LaneF) (s : State) : Out :=
  lanePred 0x045 l (fun _ => if l.imm.toNat = 1 then ~~~(0 : LaneMask) else 0) s
/-- PSET.mask (R121). -/
def execPsetMask (l : LaneF) (s : State) : Out :=
  lanePred 0x045 l (fun v => maskOf3 ((v.a.getD 0 []).headD 0) ((v.a.getD 1 []).headD 0) ((v.a.getD 2 []).headD 0)) s

end Sys2Proof.Machine
end

