-- ==== Sys2Proof/Machine/LaneFloat.lean ====
section
/-! DEFINITION. Lane floating-point, conversion, block-format and sticky-flag instructions (R151 to R169). -/

namespace Sys2Proof.Machine

/-! ### Modes -/

/-- FTZI of a format register (R51). -/
def ftziOf (f : Word) : Bool := f.toNat.testBit 2
/-- FTZO of a format register (R51). -/
def ftzoOf (f : Word) : Bool := f.toNat.testBit 3
/-- Is SMODE 0b00 (R51): code 0b1000 is the block's special value. -/
def specialMode (f : Word) : Bool := f.toNat / 2 ^ 20 % 4 = 0
/-- The rounding mode of mode bits 2:0: dyn takes RND of the format register (R68, R140, R153). -/
def rndMode (f : Word) (mode : Nat) : Rnd := if mode % 8 = 0 then rndOf f.toNat else rndOf (mode % 8 - 1)

/-- The results of a flag-raising computation of each lane, apart. -/
def splitRes : List (Nat × Flags) → List Nat × List Flags
  | [] => ([], [])
  | (r, f) :: l => ((splitRes l).1.cons r, (splitRes l).2.cons f)

/-- A lane-by-lane computation on four lists. -/
def map4 (f : Nat → Nat → Nat → Nat → Nat × Flags) : List Nat → List Nat → List Nat → List Nat → List (Nat × Flags)
  | a :: as, b :: bs, c :: cs, d :: ds => f a b c d :: map4 f as bs cs ds
  | _, _, _, _ => []

/-- An instruction that computes its destination and raises flags lane by lane, from src a, b, c and the old destination;
the format register is the batch's (R153). -/
def laneFloat (op : Nat) (l : LaneF) (f : Word → Nat → Nat → Nat → Nat → Nat × Flags) (s : State) : Out :=
  laneIssue op l (fun s x v =>
    let (r, fl) := splitRes (map4 (f x.b.fmt) (nums v.a) (nums v.b) (nums v.c) (nums v.d))
    .out s { dst := words (isWideTy l.ty.toNat) r, flags := some fl }) s

/-! ### Arithmetic (R156) -/

/-- NV when the code is a signalling NaN. -/
def snanFlag (F : Fmt) (b : Nat) : Flags := if F.isSnan b then flNV else 0

/-- The low bits of a source that a type reads (R151). -/
def tyCode (F : Fmt) (b : Nat) : Nat := b % 2 ^ F.width

/-- a + b of two codes, rounded once (R156). -/
def fAdd (F : Fmt) (a b : Nat) (m : Rnd) (sat ftzi ftzo : Bool) : Nat × Flags :=
  let x := dec F a ftzi
  let y := dec F b ftzi
  let r := xAdd x y m
  let inv : Flags := if r.isNan ∧ !x.isNan ∧ !y.isNan then flNV else 0
  let e := enc F r m sat ftzo
  (e.1, e.2 ||| inv ||| snanFlag F a ||| snanFlag F b)

/-- a − b (R156). -/
def fSub (F : Fmt) (a b : Nat) (m : Rnd) (sat ftzi ftzo : Bool) : Nat × Flags :=
  let x := dec F a ftzi
  let y := dec F b ftzi
  let r := xAdd x (xNeg y) m
  let inv : Flags := if r.isNan ∧ !x.isNan ∧ !y.isNan then flNV else 0
  let e := enc F r m sat ftzo
  (e.1, e.2 ||| inv ||| snanFlag F a ||| snanFlag F b)

/-- a · b (R156). -/
def fMul (F : Fmt) (a b : Nat) (m : Rnd) (sat ftzi ftzo : Bool) : Nat × Flags :=
  let x := dec F a ftzi
  let y := dec F b ftzi
  let r := xMul x y
  let inv : Flags := if r.isNan ∧ !x.isNan ∧ !y.isNan then flNV else 0
  let e := enc F r m sat ftzo
  (e.1, e.2 ||| inv ||| snanFlag F a ||| snanFlag F b)

/-- a · b + c, rounded once; 0 · ∞ is invalid whatever c is (R156). -/
def fMa (F : Fmt) (a b c : Nat) (m : Rnd) (sat ftzi ftzo : Bool) : Nat × Flags :=
  let x := dec F a ftzi
  let y := dec F b ftzi
  let z := dec F c ftzi
  let p := xMul x y
  let r := xAdd p z m
  let invMul := p.isNan && !x.isNan && !y.isNan
  let invAdd := r.isNan && !p.isNan && !z.isNan
  let e := enc F r m sat ftzo
  (e.1, e.2 ||| (if invMul || invAdd then flNV else 0) ||| snanFlag F a ||| snanFlag F b ||| snanFlag F c)

/-- One of VFADD, VFSUB and VFMUL. -/
def laneFp2 (op : Nat) (l : LaneF) (f : Fmt → Nat → Nat → Rnd → Bool → Bool → Bool → Nat × Flags) (s : State) : Out :=
  let F := fmtOf l.ty.toNat
  laneFloat op l (fun fr a b _ _ =>
    f F (tyCode F a) (tyCode F b) (rndMode fr l.mode.toNat) (satMode l) (ftziOf fr) (ftzoOf fr)) s

/-- VFADD (R156). -/
def execVfadd (l : LaneF) (s : State) : Out := laneFp2 0x080 l fAdd s
/-- VFSUB (R156). -/
def execVfsub (l : LaneF) (s : State) : Out := laneFp2 0x081 l fSub s
/-- VFMUL (R156). -/
def execVfmul (l : LaneF) (s : State) : Out := laneFp2 0x082 l fMul s
/-- VFMA (R156). -/
def execVfma (l : LaneF) (s : State) : Out :=
  let F := fmtOf l.ty.toNat
  laneFloat 0x083 l (fun fr a b c _ =>
    fMa F (tyCode F a) (tyCode F b) (tyCode F c) (rndMode fr l.mode.toNat) (satMode l) (ftziOf fr) (ftzoOf fr)) s

/-- A subnormal code read under FTZI gives the zero of its sign (R141, R157). -/
def flushCode (F : Fmt) (b : Nat) (ftzi : Bool) : Nat :=
  if ftzi ∧ F.mag b < 2 ^ F.fb then F.sign (F.neg b) 0 else b

/-- VFMIN or VFMAX of two codes (R157). -/
def fMinMax (F : Fmt) (a b : Nat) (ftzi wantMax : Bool) : Nat × Flags :=
  let fl := snanFlag F a ||| snanFlag F b
  let a' := flushCode F a ftzi
  let b' := flushCode F b ftzi
  let x := dec F a ftzi
  let y := dec F b ftzi
  if x.isNan ∧ y.isNan then (F.qnan, fl)
  else if x.isNan then (b', fl)
  else if y.isNan then (a', fl)
  else
    -- −0 counts as less than +0
    let less := decide (xCmp x y < 0) || (xCmp x y == 0 && F.neg a' && !F.neg b')
    (if less = wantMax then b' else a', fl)

/-- VFMIN (R157). -/
def execVfmin (l : LaneF) (s : State) : Out :=
  let F := fmtOf l.ty.toNat
  laneFloat 0x084 l (fun fr a b _ _ => fMinMax F (tyCode F a) (tyCode F b) (ftziOf fr) false) s
/-- VFMAX (R157). -/
def execVfmax (l : LaneF) (s : State) : Out :=
  let F := fmtOf l.ty.toNat
  laneFloat 0x085 l (fun fr a b _ _ => fMinMax F (tyCode F a) (tyCode F b) (ftziOf fr) true) s

/-- VFABS acts on bits (R158). -/
def execVfabs (l : LaneF) (s : State) : Out :=
  let F := fmtOf l.ty.toNat
  laneMap 0x086 l (fun a _ _ => F.mag (tyCode F a)) s
/-- VFNEG acts on bits (R158). -/
def execVfneg (l : LaneF) (s : State) : Out :=
  let F := fmtOf l.ty.toNat
  laneMap 0x087 l (fun a _ _ => F.sign (!F.neg (tyCode F a)) (F.mag (tyCode F a))) s

/-! ### Compare and classify (R159, R160) -/

/-- A floating-point relation and its NV (R159). -/
def relFloat (F : Fmt) (rel a b : Nat) (ftzi : Bool) : Bool × Flags :=
  let x := dec F a ftzi
  let y := dec F b ftzi
  let un := x.isNan || y.isNan
  let quiet := snanFlag F a ||| snanFlag F b
  let loud : Flags := if un then flNV else 0
  let c := xCmp x y
  match rel with
  | 0 => (!un && c == 0, quiet)
  | 1 => (un || c != 0, quiet)
  | 2 => (!un && decide (c < 0), loud)
  | 3 => (!un && decide (c ≤ 0), loud)
  | 4 => (!un && decide (0 < c), loud)
  | 5 => (!un && decide (0 ≤ c), loud)
  | 6 => (un, quiet)
  | _ => (!un, quiet)

/-- VFCMP (R159). -/
def execVfcmp (l : LaneF) (s : State) : Out :=
  let F := fmtOf l.ty.toNat
  laneIssue 0x088 l (fun s x v =>
    let r := List.zipWith (fun a b => relFloat F (l.ext.toNat % 8) (tyCode F a) (tyCode F b) (ftziOf x.b.fmt))
      (nums v.a) (nums v.b)
    let q := maskOf fun n => ((r[n]?).map (·.1)).getD false
    .out s { pred := some (l.dst.toNat, combinePred (l.ext.toNat / 8 % 4) v.pd q), flags := some (r.map (·.2)) }) s

/-- The class bit of a code (R160). -/
def fClass (F : Fmt) (b : Nat) : Nat :=
  let m := F.mag b
  if F.isNan b then (if F.isSnan b then 2 ^ 8 else 2 ^ 9)
  else if F.ieee ∧ m = F.infMag then (if F.neg b then 2 ^ 0 else 2 ^ 7)
  else if m = 0 then (if F.neg b then 2 ^ 3 else 2 ^ 4)
  else if m < 2 ^ F.fb then (if F.neg b then 2 ^ 2 else 2 ^ 5)
  else if F.neg b then 2 ^ 1 else 2 ^ 6

/-- VFCLASS (R160). -/
def execVfclass (l : LaneF) (s : State) : Out :=
  let F := fmtOf l.ty.toNat
  laneMap 0x089 l (fun a _ _ => fClass F (tyCode F a)) s

/-! ### Integral rounding and special functions (R161, R162) -/

/-- VFRND of a code (R161). -/
def fRound (F : Fmt) (a : Nat) (m : Rnd) (ftzi x : Bool) : Nat × Flags :=
  match dec F a ftzi with
  | .nan => (F.qnan, snanFlag F a)
  | .inf neg => (F.sign neg F.infMag, 0)
  | .fin neg n e _ =>
    let (k, inexact) := roundI neg n e m
    ((enc F (.fin neg k.natAbs 0 false) m false false).1, if x ∧ inexact then flNX else 0)

/-- VFRND (R161). -/
def execVfrnd (l : LaneF) (s : State) : Out :=
  let F := fmtOf l.ty.toNat
  laneFloat 0x08F l (fun fr a _ _ _ =>
    fRound F (tyCode F a) (rndMode fr l.mode.toNat) (ftziOf fr) (l.ext.toNat % 2 = 1)) s

/-- The special functions. -/
inductive Special where
  | rcp
  | rsq
  | sqrt
  | exp2
  | log2
  deriving DecidableEq, Repr

/-- f(a) and the flag of its special case (R162). -/
def specialOf (f : Special) (a : XVal) : XVal × Flags :=
  match a with
  | .nan => (.nan, 0)
  | .inf neg =>
    match f with
    | .rcp => (.fin neg 0 0 false, 0)
    | .rsq => if neg then (.nan, flNV) else (.fin false 0 0 false, 0)
    | .sqrt => if neg then (.nan, flNV) else (.inf false, 0)
    | .exp2 => if neg then (.fin false 0 0 false, 0) else (.inf false, 0)
    | .log2 => if neg then (.nan, flNV) else (.inf false, 0)
  | .fin neg n e _ =>
    if n = 0 then
      match f with
      | .rcp => (.inf neg, flDZ)
      | .rsq => (.inf neg, flDZ)
      | .sqrt => (.fin neg 0 0 false, 0)
      | .exp2 => (.fin false 1 0 false, 0)
      | .log2 => (.inf true, flDZ)
    else
      match f with
      | .rcp => (recip neg n e, 0)
      | .exp2 => (exp2Of neg n e, 0)
      | .rsq => if neg then (.nan, flNV) else (rsqrtOf n e, 0)
      | .sqrt => if neg then (.nan, flNV) else (sqrtOf n e, 0)
      | .log2 => if neg then (.nan, flNV) else (log2Of n e, 0)

/-- A special function of a .f32 code, rounded once (R162). -/
def fSpecial (f : Special) (a : Nat) (m : Rnd) (ftzi ftzo : Bool) : Nat × Flags :=
  let (x, fl) := specialOf f (dec fmtF32 a ftzi)
  let e := enc fmtF32 x m false ftzo
  (e.1, e.2 ||| fl ||| snanFlag fmtF32 a)

/-- One of VRCP, VRSQ, VSQRT, VEXP2 and VLOG2. -/
def laneSpecial (op : Nat) (f : Special) (l : LaneF) (s : State) : Out :=
  laneFloat op l (fun fr a _ _ _ => fSpecial f a (rndMode fr l.mode.toNat) (ftziOf fr) (ftzoOf fr)) s

/-- VRCP (R162). -/
def execVrcp (l : LaneF) (s : State) : Out := laneSpecial 0x08A .rcp l s
/-- VRSQ (R162). -/
def execVrsq (l : LaneF) (s : State) : Out := laneSpecial 0x08B .rsq l s
/-- VSQRT (R162). -/
def execVsqrt (l : LaneF) (s : State) : Out := laneSpecial 0x08C .sqrt l s
/-- VEXP2 (R162). -/
def execVexp2 (l : LaneF) (s : State) : Out := laneSpecial 0x08D .exp2 l s
/-- VLOG2 (R162). -/
def execVlog2 (l : LaneF) (s : State) : Out := laneSpecial 0x08E .log2 l s

/-! ### Conversion (R163 to R165) -/

/-- A conversion between two types (R163, R164): the value's low bits. -/
def convert (dt st a : Nat) (fr : Word) (mode : Nat) : Nat × Flags :=
  let m := rndMode fr mode
  let sat : Bool := 8 ≤ mode
  if isFloatTy st then
    let F := fmtOf st
    let c := tyCode F a
    let x := dec F c (ftziOf fr)
    if isFloatTy dt then
      let e := enc (fmtOf dt) x m sat (ftzoOf fr)
      (e.1, e.2 ||| snanFlag F c)
    else fToI x m (tyBits dt) (tySigned dt)
  else
    let z := readInt st a
    if isFloatTy dt then enc (fmtOf dt) (xInt z) m sat (ftzoOf fr)
    else (if sat then (if tySigned dt then satS z (tyBits dt) else satZ z (tyBits dt)) else wrapN z (tyBits dt), 0)

/-- VCVT: an integer result is widened to its register (R110, R163). -/
def execVcvt (l : LaneF) (s : State) : Out :=
  let dt := l.ty.toNat
  laneFloat 0x090 l (fun fr a _ _ _ =>
    let (r, fl) := convert dt (l.ext.toNat % 256) a fr l.mode.toNat
    (if !isFloatTy dt ∧ tySigned dt ∧ tyBits dt < 32 then wrapN (sInt (tyBits dt) r) 32 else r, fl)) s

/-- A number with bits of width `w` at element `n` replaced. -/
def putElem (d w n x : Nat) : Nat :=
  d / 2 ^ (w * (n + 1)) * 2 ^ (w * (n + 1)) + x % 2 ^ w * 2 ^ (w * n) + d % 2 ^ (w * n)

/-- VPACK reads its destination (R164). -/
def execVpack (l : LaneF) (s : State) : Out :=
  let dt := l.ty.toNat
  laneFloat 0x091 l (fun fr a _ _ d =>
    let (r, fl) := convert dt (l.ext.toNat % 256) a fr l.mode.toNat
    (putElem d (tyBits dt) (l.ext.toNat / 256 % 8) r, fl)) s

/-- VUNPK of one element: exact, FTZO does not act (R165). -/
def unpack (st n a : Nat) (ftzi : Bool) : Nat × Flags :=
  let e := a / 2 ^ (tyBits st * n) % 2 ^ tyBits st
  if isFloatTy st then
    ((enc fmtF32 (dec (fmtOf st) e ftzi) .rne false false).1, snanFlag (fmtOf st) e)
  else ((enc fmtF32 (xInt (readInt st e)) .rne false false).1, 0)

/-- VUNPK (R165). -/
def execVunpk (l : LaneF) (s : State) : Out :=
  laneFloat 0x092 l (fun fr a _ _ _ => unpack (l.ext.toNat % 256) (l.ext.toNat / 256 % 8) a (ftziOf fr)) s

/-! ### Block format (R167, R168) -/

/-- The side pair of a lane: scale and special byte (R167). -/
def sidePair (l : LaneF) (b : Nat) : Nat × Nat :=
  let p := if l.ext.toNat / 8 % 2 = 1 then b / 2 ^ 16 % 2 ^ 16 else b % 2 ^ 16
  (p % 256, p / 256)

/-- VBXDEC (R167). -/
def execVbxdec (l : LaneF) (s : State) : Out :=
  laneFloat 0x093 l (fun fr a b _ _ =>
    let (sc, x) := sidePair l b
    enc fmtF32 (blockVal (a / 2 ^ (4 * (l.ext.toNat % 8)) % 16) sc x (specialMode fr)) (rndMode fr l.mode.toNat)
      (satMode l) (ftzoOf fr)) s

/-- The candidates of VBXENC: value at step 2^−9 and code; the special value only where it differs from every regular one
(R168). -/
def candidates (x : Nat) (special : Bool) : List (Int × Nat) :=
  let reg : List (Int × Nat) := ((upto 16).filter fun c => c ≠ 8).map fun c =>
    ((if 8 ≤ c then -((e2m1Twice c * 256 : Nat) : Int) else (e2m1Twice c * 256 : Nat)), c)
  match dec fmtE4m3 x false with
  | .fin neg n e _ =>
    let k : Int := ((n * 2 ^ (e + 9).toNat : Nat) : Int)
    let v := if neg then -k else k
    if special ∧ !(reg.any fun r => r.1 == v) then reg ++ [(v, 8)] else reg
  | _ => reg

/-- The largest candidate not above `q`, or the smallest not below it: `q` is n · 2^e exactly, compared at a common step. -/
def nearCand (below : Bool) (q : XVal) : List (Int × Nat) → Option (Int × Nat)
  | [] => none
  | c :: l =>
    let cx := xScale (xInt c.1) (-9)
    let fits := if below then decide (xCmp cx q ≤ 0) else decide (0 ≤ xCmp cx q)
    match nearCand below q l with
    | none => if fits then some c else none
    | some d => if fits ∧ (if below then decide (d.1 < c.1) else decide (c.1 < d.1)) then some c else some d

/-- Between two candidates around q, −1, 0 or 1 as q lies nearer the lower, at the middle, or nearer the upper. -/
def nearer (q : XVal) (lo hi : Int) : Int := xCmp q (xScale (xInt (lo + hi)) (-10))

/-- The code that VBXENC chooses for a finite or infinite q (R168). Beyond the rule's words: DEDUCED, log entry 58. -/
def encBlock (q : XVal) (cands : List (Int × Nat)) (m : Rnd) : Nat × Flags :=
  let neg := match q with
    | .inf t => t
    | .fin t _ _ _ => t
    | .nan => false
  match nearCand true q cands, nearCand false q cands with
  | some lo, some hi =>
    if lo.1 = hi.1 then (lo.2, 0)
    else
      let pick : Int × Nat := match m with
        | .rtz => if neg then hi else lo
        | .rup => hi
        | .rdn => lo
        | .rne =>
          let c := nearer q lo.1 hi.1
          if c < 0 then lo else if 0 < c then hi
          else if lo.2 % 2 = 0 ∧ hi.2 % 2 = 0 then (if lo.2 = 8 then hi else lo)
          else if lo.2 % 2 = 0 then lo else hi
      (pick.2, flNX ||| (if pick.1 = 0 ∧ !q.isZero then flUF else 0))
  | some lo, none => (lo.2, flOF ||| flNX)
  | none, some hi => (hi.2, flOF ||| flNX)
  | none, none => (0, 0)

/-- VBXENC of one lane (R168). -/
def bxEncode (a sc x : Nat) (special : Bool) (m : Rnd) (ftzi : Bool) : Nat × Flags :=
  if sc = 0xFF then (0, 0)
  else
    match dec fmtF32 a ftzi with
    | .nan => (0, flNV)
    | v => encBlock (xScale v (127 - (sc : Int))) (candidates x special) m

/-- VBXENC reads its destination (R168). -/
def execVbxenc (l : LaneF) (s : State) : Out :=
  laneFloat 0x094 l (fun fr a b _ d =>
    let (sc, x) := sidePair l b
    let (c, fl) := bxEncode a sc x (specialMode fr) (rndMode fr l.mode.toNat) (ftziOf fr)
    (putElem d 4 (l.ext.toNat % 8) c, fl)) s

/-! ### Sticky flags (R169) -/

/-- The sticky flags as destination words. -/
def flagWords (fs : List Flags) : List Word := (fit 0 96 fs).map fun f => f.zeroExtend 32

/-- The flags that VFLAGS leaves in the 96 lanes, if they are active. -/
def leftFlags (g : Group) (write : Option (List Flags)) (imm : Nat) : List Flags := (upto 96).map (g.flagsAfter write imm)

/-- VFLAGS.rd (R169). -/
def execVflagsRd (l : LaneF) (s : State) : Out :=
  laneIssue 0x095 l (fun s x _ => .out s { dst := [flagWords x.g.flagsBefore] }) s
/-- VFLAGS.clr (R169). -/
def execVflagsClr (l : LaneF) (s : State) : Out :=
  laneIssue 0x095 l (fun s x _ => .out s { setFlags := some (leftFlags x.g none l.imm.toNat) }) s
/-- VFLAGS.rdclr (R169). -/
def execVflagsRdclr (l : LaneF) (s : State) : Out :=
  laneIssue 0x095 l (fun s x _ =>
    .out s { dst := [flagWords x.g.flagsBefore], setFlags := some (leftFlags x.g none l.imm.toNat) }) s
/-- VFLAGS.wr (R169). -/
def execVflagsWr (l : LaneF) (s : State) : Out :=
  laneIssue 0x095 l (fun s x v =>
    .out s { setFlags := some (leftFlags x.g (some ((nums v.a).map fun a => BitVec.ofNat 5 a)) 0), wrFlags := true }) s

end Sys2Proof.Machine
end

