-- ==== Sys2Proof/Machine/LaneCross.lean ====
section
/-! DEFINITION. Cross-lane instructions: shuffles, broadcasts, reductions, scans, votes, bitonic stages and lane numbers
(R122 to R130). -/

namespace Sys2Proof.Machine

/-- VLANEID (R123). -/
def execVlaneid (l : LaneF) (s : State) : Out :=
  laneIssue 0x066 l (fun s _ _ => .out s { dst := [(upto 96).map loWord] }) s

/-- The source lane of VSHFL (R124). -/
def shuffleFrom (m lane x : Nat) : Int :=
  match m with
  | 0 => x
  | 1 => (lane : Int) - x
  | 2 => (lane : Int) + x
  | _ => ((lane ^^^ x : Nat) : Int)

/-- VSHFL (R124). -/
def execVshfl (l : LaneF) (s : State) : Out :=
  laneIssue 0x060 l (fun s _ v =>
    let a := v.a.getD 0 []
    let b := nums v.b
    let r := (upto 96).map fun n =>
      let src := shuffleFrom (l.ext.toNat % 4) n (b.getD n 0)
      if 0 ≤ src ∧ src ≤ 95 then a.getD src.toNat 0 else a.getD n 0
    .out s { dst := [r] }) s

/-- A result for a scalar or a lane destination (R125, R129). -/
def scalarOrLanes (spec : Nat) (y : Word) : LaneOut :=
  if isS spec then { scal := [(spec - 0x340, y)] } else { dst := [allLanes y] }

/-- VBCAST (R125). -/
def execVbcast (l : LaneF) (s : State) : Out :=
  laneIssue 0x061 l (fun s _ v =>
    let first := l.ext.toNat % 2 = 1
    if first ∧ v.act = 0 then .out s {}
    else
      let n := if first then lowestLane v.act else (nums v.b).getD 0 0
      let y := if n ≤ 95 then (v.a.getD 0 []).getD n 0 else 0
      .out s (scalarOrLanes l.dst.toNat y)) s

/-! ### Reductions and scans (R126 to R128) -/

/-- A running value: an exact integer, or a .f32 code. -/
inductive RedVal where
  | int (z : Int)
  | flt (c : Nat)
  deriving DecidableEq, Repr

/-- An integer combination (R126). -/
def combineInt (op : Nat) (x y : Int) : Int :=
  match op with
  | 0 => x + y
  | 1 => ((x.toNat &&& y.toNat : Nat) : Int)
  | 2 => ((x.toNat ||| y.toNat : Nat) : Int)
  | 3 => ((x.toNat ^^^ y.toNat : Nat) : Int)
  | 4 => if x ≤ y then x else y
  | _ => if x ≤ y then y else x

/-- A step of the fold (R126). -/
def combineRed (op : Nat) (m : Rnd) (fr : Word) (x y : RedVal) : RedVal × Flags :=
  match x, y with
  | .int a, .int b => (.int (combineInt op a b), 0)
  | .flt a, .flt b =>
    let r := if op = 6 then fAdd fmtF32 a b m false (ftziOf fr) (ftzoOf fr)
      else fMinMax fmtF32 a b (ftziOf fr) (op == 8)
    (.flt r.1, r.2)
  | x, _ => (x, 0)

/-- The identity (R126). -/
def redIdentity (op t : Nat) : Nat :=
  match op with
  | 1 => 0xFFFFFFFF
  | 4 => if t = tyI32 then 0x7FFFFFFF else if t = tyZ32 then 0xFFFFFFFF
    else if t = tyI64 then 0x7FFFFFFFFFFFFFFF else 2 ^ 64 - 1
  | 5 => if t = tyI32 then 0x80000000 else if t = tyI64 then 0x8000000000000000 else 0
  | 6 => 0x80000000
  | 7 => 0x7F800000
  | 8 => 0xFF800000
  | _ => 0

/-- A lane's value on entry to the fold. -/
def redRead (op t n : Nat) : RedVal := if 6 ≤ op then .flt n else .int (readInt t n)

/-- The value as it is written (R110). -/
def redWrite (t : Nat) (sat : Bool) : RedVal → Nat
  | .int z => writeInt t sat z
  | .flt c => c

/-- The fold over the active lanes from lane `n` up, with the running value; each lane's value before it and after it, and
the flags of the steps (R127, R128); the first active lane's value is as read, a NaN with its payload too.
Beyond the rule's words: DEDUCED, log entry 58. -/
def foldLanes (op t : Nat) (m : Rnd) (fr : Word) (act : LaneMask) :
    Nat → Option RedVal → List Nat → List (Option RedVal × Option RedVal) × Option RedVal × Flags
  | _, acc, [] => ([], acc, 0)
  | n, acc, a :: as =>
    if laneBit act n then
      let (r, fl) := match acc with
        | none => (redRead op t a, 0)
        | some x => combineRed op m fr x (redRead op t a)
      let (rest, last, fl') := foldLanes op t m fr act (n + 1) (some r) as
      ((acc, some r) :: rest, last, fl ||| fl')
    else
      let (rest, last, fl') := foldLanes op t m fr act (n + 1) acc as
      ((acc, acc) :: rest, last, fl')

/-- The flags field of a reduction: only the floating-point operations touch the sticky flags (R112, R126). -/
def redFlags (op : Nat) (fl : Flags) : Option (List Flags) := if 6 ≤ op then some (List.replicate 96 fl) else none

/-- VRED (R127). -/
def execVred (l : LaneF) (s : State) : Out :=
  laneIssue 0x062 l (fun s x v =>
    let t := l.ty.toNat
    let op := l.ext.toNat % 16
    let (_, last, fl) := foldLanes op t (rndMode x.b.fmt l.mode.toNat) x.b.fmt v.act 0 none (nums v.a)
    let r := match last with
      | some y => redWrite t (satMode l) y
      | none => redIdentity op t
    let d := l.dst.toNat - 0x340
    .out s { scal := (d, loWord r) :: (if isWideTy t then [(d + 1, hiWord r)] else []),
             flags := redFlags op fl, empty := last.isNone }) s

/-- VSCAN (R128). -/
def execVscan (l : LaneF) (s : State) : Out :=
  laneIssue 0x063 l (fun s x v =>
    let t := l.ty.toNat
    let op := l.ext.toNat % 16
    let excl := l.ext.toNat / 16 % 2 = 1
    let (vals, last, fl) := foldLanes op t (rndMode x.b.fmt l.mode.toNat) x.b.fmt v.act 0 none (nums v.a)
    let r := vals.map fun p =>
      match if excl then p.1 else p.2 with
      | some y => redWrite t (satMode l) y
      | none => redIdentity op t
    .out s { dst := words (isWideTy t) r, flags := redFlags op fl, empty := last.isNone }) s

/-- VVOTE (R129). -/
def execVvote (l : LaneF) (s : State) : Out :=
  laneIssue 0x064 l (fun s _ v =>
    let hit := v.pa &&& v.act
    let d := l.dst.toNat
    match l.ext.toNat % 4 with
    | 0 => .out s (scalarOrLanes d (if hit = 0 then 0 else 1))
    | 1 => .out s (scalarOrLanes d (if hit = v.act then 1 else 0))
    | 2 => .out s { scal := [(d - 0x340, maskWord hit 0), (d - 0x340 + 1, maskWord hit 1), (d - 0x340 + 2, maskWord hit 2)] }
    | _ => .out s (scalarOrLanes d (loWord (maskCount hit)))) s

/-- Keys of VCMPX as numbers in the order of the type (R130). -/
def keyOrder (t n : Nat) : Int := if t = tyF32 then ((totalKey n : Nat) : Int) else readInt t n

/-- Does lane `n` take its partner's key and payload (R130). -/
def cmpxSwap (t j k : Nat) (act : LaneMask) (key : List Nat) (n : Nat) : Bool :=
  let p := n ^^^ j
  if 95 < p ∨ !laneBit act n ∨ !laneBit act p then false
  else
    let lo := min n p
    let hi := max n p
    let a := keyOrder t (key.getD lo 0)
    let b := keyOrder t (key.getD hi 0)
    if lo &&& k ≠ 0 then decide (a < b) else decide (b < a)

/-- VCMPX (R130): dst names the key and src a the payload. -/
def execVcmpx (l : LaneF) (s : State) : Out :=
  laneIssue 0x065 l (fun s _ v =>
    let key := v.d.getD 0 []
    let pay := v.a.getD 0 []
    let kn := key.map (·.toNat)
    let j := l.imm.toNat
    let sw := (upto 96).map fun n => cmpxSwap l.ty.toNat j (l.ext.toNat % 256) v.act kn n
    let move := fun (w : List Word) => (sw.zip w).zipIdx.map fun p => if p.1.1 then w.getD (p.2 ^^^ j) 0 else p.1.2
    .out s { dst := [move key], pay := some (move pay), lanes := maskOf fun n => sw.getD n false }) s

end Sys2Proof.Machine
end

