-- ==== Sys2Proof/Machine/Parks.lean ====
section
/-! DEFINITION. The fault buffer's replays and the host's answers: PARK_REPLAY (R371), ATS completions and invalidations and
PRI responses (R372). -/

namespace Sys2Proof.Machine

/-- A split or batch that waits for a park goes on: the instruction issues again (R371). -/
def Group.unpark (g : Group) (id : Nat) : Group :=
  let h := (upto 9).foldl (fun (k : Group) i => k.modSplit i fun sp => if sp.block == Block.park id then { sp with block := .none } else sp) g
  { h with batches := h.batches.map fun (b : Batch) => if b.block == Block.park id then { b with block := .none } else b }

/-- PARK_REPLAY: a released parked instruction of a running group, or a released transfer, walks again (R371, R399).
Beyond the rule's words: DEDUCED, log entry 34. -/
def execParkReplay (gid who : Nat) (s : State) : Out :=
  match s.parks.find? fun p => p.gid == gid && p.who == who && p.released, s.group? gid with
  | some p, some g =>
    if p.copy.isNone ∧ (g.status ≠ .running ∨ (g.frozen ∧ p.who ≠ 8) ∨ !residentOn s g.core g.vd) then .next s
    else if p.copy.isSome ∧ !residentOn s p.core p.vd then .next s
    else .next ((dropParks s fun q => q.id == p.id).modGroup gid fun h => h.unpark p.id)
  | some p, none => if p.copy.isSome ∧ residentOn s p.core p.vd then .next (dropParks s fun q => q.id == p.id) else .next s
  | _, _ => .next s

/-- Is a size one that a Translation Completion may have, and its range aligned (R372, R435). -/
def completionOk (haddr size : Nat) : Bool :=
  4096 ≤ size && size ≤ 2 ^ 28 && (upto 29).any (fun k => size == 2 ^ k) && haddr % size == 0

/-- Does a host range hold a 4 KiB page. -/
def hostRange (haddr size page : Nat) : Bool := decide (haddr ≤ 4096 * page) && decide (4096 * page < haddr + size)

/-- Parks that wait for a host page of a range walk again. -/
def releaseHost (s : State) (core : Option Nat) (vd haddr size : Nat) : State :=
  { s with parks := s.parks.map fun p =>
      if p.vd == vd && (core.isNone || core == some p.core) && p.hosts.any (hostRange haddr size) then { p with released := true }
      else p }

/-- A Translation Completion enters a core's host translation cache in place of those of its own range: of 1,024 entries, one
makes room when all are held (R372). -/
def hostFill (s : State) (core : Nat) (e : HostEntry) : State :=
  let old := (s.core core).hosts.filter fun h => !(h.vd == e.vd && decide (e.lo ≤ h.lo) && decide (h.lo + h.size ≤ e.lo + e.size))
  if old.length < 1024 then s.modCore core fun k => { k with hosts := e :: old }
  else
    let (n, s1) := s.takeNat
    s1.modCore core fun k => { k with hosts := e :: old.eraseIdx (n % old.length) }

/-- ATS_COMPLETION: the host answers a Translation Request of a core; an answer to an older generation has no effect
(R368, R372, R384). -/
def execAtsCompletion (core vd haddr size : Nat) (r w : Bool) (s : State) : Out :=
  match s.hostReqs.find? fun q => q.core == core && q.vd == vd && !q.pri && hostRange haddr size q.page with
  | none => .next s
  | some q =>
    if !completionOk haddr size then .next s
    else
      let s1 : State := { s with hostReqs := s.hostReqs.filter fun k => k != q }
      if q.gen ≠ (s.vd vd).gen then .next s1
      else
        let e : HostEntry := { vd := vd, gen := q.gen, lo := haddr, size := size, r := r, w := w, dev := q.dev, again := false }
        .next (releaseHost (hostFill s1 core e) (some core) vd haddr size)

/-- Is every access that was translated through a dropped host translation performed at .sys (R372). -/
def invalDone (s : State) (q : Inval) : Bool :=
  let hits := fun (vd : Nat) (l : Loc) => match l with
    | .host a => q.dropped.any fun r => r.1 == vd && decide (r.2.1 ≤ a) && decide (a < r.2.1 + r.2.2)
    | _ => false
  (s.stores.all fun e => !(decide (e.id < q.before) && hits e.vd e.loc) || e.performedAt 5) &&
  s.loads.all fun l => !(decide (l.op < q.before)) || l.els.all fun p => !hits l.vd p.2.loc

/-- ATS_INVALIDATE: every entry that overlaps the range is dropped, on every core; the request completes toward the host only after
every access translated through them is performed at .sys (R372); at most 32 are outstanding (R435). -/
def execAtsInvalidate (haddr size : Nat) (s : State) : Out :=
  let hit := fun (h : HostEntry) => decide (h.lo < haddr + size) && decide (haddr < h.lo + h.size)
  match s.hub.invals.find? fun q => q.lo == haddr && q.size == size with
  | some q => if invalDone s q then .next (s.modHub fun h => { h with invals := h.invals.filter (· != q) }) else .next s
  | none =>
    if 32 ≤ s.hub.invals.length then .next s else
    let gone := s.cores.flatMap fun k => (k.2.hosts.filter hit).map fun h => (h.vd, h.lo, h.size)
    let s1 : State := { s with cores := s.cores.map fun k => (k.1, { k.2 with hosts := k.2.hosts.filter fun h => !hit h }) }
    .next (s1.modHub fun h => { h with invals := h.invals ++ [{ lo := haddr, size := size, dropped := gone, before := s.fresh }] })

/-! ### PRI (R372, R479) -/

/-- The record of a fetch that its host page fails: at the instruction that would have been fetched, with INSN zero (R479). -/
def fetchRec (g : Group) (who pc lpc addr detail : Nat) (lane : Bool) : FaultRec where
  who := who
  code := 0x23
  addr := addr
  detail := detail
  insn := 0
  laneIns := lane
  lane := 127
  spc := pc
  lpc := lpc
  low := issuerLow g who none

/-- The address of a lane word (R90). -/
def laneCodeAt (g : Group) (ix : Nat) : Nat := g.launch.lcode + 12 * ix

/-- A park whose host page fails: its group faults (R372). -/
def failPark (s : State) (p : Parked) (cause : Nat) : State :=
  match s.group? p.gid with
  | none => s
  | some g =>
    match p.copy, p.frec with
    | none, some f => raiseFault s p.gid (s.now g.core) { f with detail := cause }
    | some id, _ =>
      match s.copies.find? fun c => c.id == id, s.engops.find? fun o => o.id == id with
      | some c, _ => failCopy s g c 0x23 p.va (cause + 2 ^ 8 * c.delivered)
      | none, some o => match o.kind with
        | .mloadb n _ _ _ _ all _ => failLoad s o n all 0x23 p.va cause
        | _ => s
      | none, none => s
    | none, none => s

/-- PRI_RESPONSE to one of the 512 Page Requests that a function has outstanding (R435): after Success the parked instructions walk again and the next miss asks for a translation; nothing drops (R368,
R372). -/
def execPriResponse (vd haddr : Nat) (resp : PriResp) (s : State) : Out :=
  let hp := haddr / 4096
  let sent := (s.hostReqs.filter fun q => q.pri && q.vd == vd).take 512
  if !(sent.any fun q => q.page == hp) then .next s
  else
    let live := s.hostReqs.any fun q => q.pri && q.vd == vd && q.page == hp && q.gen == (s.vd vd).gen
    let s1 : State := { s with hostReqs := s.hostReqs.filter fun q => !(q.pri && q.vd == vd && q.page == hp) }
    if !live then .next s1
    else match resp with
      | .success =>
        let asked (h : HostEntry) : HostEntry := if h.vd == vd && hostRange h.lo h.size hp then { h with again := true } else h
        .next (releaseHost { s1 with cores := s1.cores.map fun k => (k.1, { k.2 with hosts := k.2.hosts.map asked }) } none vd
          (4096 * hp) 4096)
      | r =>
        let waits := fun (p : Parked) => p.vd == vd && p.hosts.contains hp
        let s2 := (s.parks.filter fun p => waits p && !p.released).foldl (fun st p => failPark st p (if r = .invalid then 1 else 2)) s1
        .next (dropParks s2 fun p => p.copy.isSome && waits p)

end Sys2Proof.Machine
end

