-- ==== Sys2Proof/Machine/Sched.lean ====
section
/-! DEFINITION. Who issues next: the shares of the virtual devices (R332), the ready splits of a scalar unit (R193) and the
ready batches of the lane pipelines (R176, R177, R194), with suspended batches becoming ready again (R178). -/

namespace Sys2Proof.Machine

/-! ### What is due on a core as a cycle ends (R186, R390, R396) -/

/-- The cycles at whose ends something is due on a core: timers of spawn bins, slices, save budgets. -/
def dueCycles (s : State) (core : Nat) : List Nat :=
  ((s.core core).bins.filterMap fun b => if binRuns s core b then some (binEnd s b) else none) ++
  (s.core core).slices.filterMap (sliceEnd s) ++
  s.groups.filterMap fun g => if g.core = core then budgetEnd s g else none

/-- The first cycle, after the present one and no later than `t`, that comes after something due on a core. -/
def dueBefore (s : State) (core t : Nat) : Option Nat :=
  ((dueCycles s core).filter fun e => decide (s.now core ≤ e) && decide (e < t)).min?.map (· + 1)

/-- The core has reached cycle `t`. -/
def reachCycle (s : State) (core t : Nat) : State := s.modCore core fun k => { k with cyc := t }

/-! ### Shares (R332) -/

/-- The stride of a device: floor of 2^16 over its group slots (R332). -/
def strideOf (s : State) (vd : Nat) : Nat := 2 ^ 16 / max 1 (((s.vd vd).part.map (·.gcount)).getD 1)

/-- The pass value of a device at a user: 0 and 1 the scalar units, 2 the lane pipelines. -/
def passOf (l : List Stride) (user vd : Nat) : Stride :=
  (l.find? fun r => r.user == user && r.vd == vd).getD { user := user, vd := vd, pass := 0, ready := false }

/-- The pass value of a device that is ready at an opportunity: one that had nothing ready before starts no lower than the
lowest of those that had (R332). -/
def readyPass (l : List Stride) (user : Nat) (ready : List Nat) (vd : Nat) : Nat :=
  let r := passOf l user vd
  let others := (ready.filter fun v => (passOf l user v).ready).map fun v => (passOf l user v).pass
  if r.ready then r.pass else max r.pass (others.foldl min (others.headD r.pass))

/-- The device that receives an opportunity among `among`, some of those that are ready: the lowest pass value, ties to the
lower number (R332). -/
def shareWinner (l : List Stride) (user : Nat) (ready among : List Nat) : Option Nat :=
  among.foldl (fun m v => match m with
    | none => some v
    | some u =>
      let p := readyPass l user ready v
      let q := readyPass l user ready u
      if p < q ∨ (p = q ∧ v < u) then some v else some u) none

/-- The pass values after an opportunity that a device received; the devices that are not ready have nothing ready. -/
def shareTaken (s : State) (core user : Nat) (ready : List Nat) (winner : Nat) : State :=
  s.modCore core fun k =>
    let upd (v : Nat) : Stride :=
      { user := user, vd := v, pass := readyPass k.strides user ready v + (if v = winner then strideOf s v else 0), ready := true }
    let off (r : Stride) : Stride := if r.user = user then { r with ready := false } else r
    { k with strides := ready.map upd ++ (k.strides.filter fun r => !(r.user == user && ready.contains r.vd)).map off }

/-! ### Ready splits (R193) -/

/-- A split that may be chosen by a scalar unit: its group, its number and itself. -/
structure Cand where
  g : Group
  ix : Nat
  sp : Split
  deriving DecidableEq, Repr

/-- May a group's instructions issue on its core. -/
def groupIssues (s : State) (g : Group) : Bool :=
  g.status == .running && !g.stopping && residentOn s g.core g.vd && (s.vd g.vd).resetting.isNone && g.gen == (s.vd g.vd).gen

/-- The splits of a unit that no wait of their own holds, at whatever cycle they may issue: the handler split alone while a
handler runs (R193, R393). -/
def unitCands (s : State) (core u : Nat) : List Cand :=
  (s.groups.filter fun g => g.core == core && g.slot % 2 == u && groupIssues s g).flatMap fun g =>
    match g.handler with
    | some h => if h.sp.block = .none then [{ g := g, ix := 8, sp := h.sp }] else []
    | none => (g.splits.zipIdx).filterMap fun p =>
        if p.1.state = .running ∧ p.1.block = .none then some { g := g, ix := p.2, sp := p.1 } else none

/-- Does one candidate come before another: the longest ago first, ties to the lower slot and index (R193). -/
def Cand.before (a b : Cand) : Bool :=
  decide (a.sp.lastIssue < b.sp.lastIssue) || (a.sp.lastIssue == b.sp.lastIssue &&
    (decide (a.g.slot < b.g.slot) || (a.g.slot == b.g.slot && decide (a.ix < b.ix))))

/-- The candidates in the order of R193. -/
def orderCands : List Cand → List Cand
  | [] => []
  | c :: l => ins c (orderCands l)
where
  ins (c : Cand) : List Cand → List Cand
    | [] => [c]
    | d :: l => if c.before d then c :: d :: l else d :: ins c l

/-! ### Ready batches (R176 to R178, R194) -/

/-- Is a batch ready at a slot (R176). -/
def batchReady (s : State) (g : Group) (b : Batch) (slot : Nat) : Bool :=
  groupIssues s g && !g.frozen && !b.suspended && b.pipe.isNone &&
  (g.batches.find? fun c => c.split == b.split).map (·.bid) == some b.bid &&
  decide (b.nextSlot ≤ slot) && ((g.splits[b.split]?).map fun sp => decide (sp.laneReady ≤ slot)).getD false

/-- The ready batches of a core at a slot. -/
def readyBatches (s : State) (core slot : Nat) : List (Group × Batch) :=
  (s.groups.filter fun g => g.core == core).flatMap fun g => (g.batches.filter fun b => batchReady s g b slot).map fun b => (g, b)

/-- Does one batch come before another: the earlier VRUN, ties to the lower slot, then to the lower split (R194).
Beyond the rule's words: DEDUCED, log entry 59. -/
def batchBefore (a b : Group × Batch) : Bool :=
  decide (a.2.vrunAt < b.2.vrunAt) || (a.2.vrunAt == b.2.vrunAt &&
    (decide (a.1.slot < b.1.slot) || (a.1.slot == b.1.slot && decide (a.2.split < b.2.split))))

/-- The first batch of a list. -/
def firstBatch (l : List (Group × Batch)) : Option (Group × Batch) :=
  l.foldl (fun m x => match m with
    | none => some x
    | some y => if batchBefore x y then some x else some y) none

/-- The slot in which a pipeline may next start or issue. -/
def pipeSlot (s : State) (core p : Nat) : Nat := max (s.now core / 3) ((s.core core).pipes.getD p 0)

/-- Does a pipeline hold a batch (R177); a group that faults gives its pipelines up (R440). -/
def pipeHeld (s : State) (core p : Nat) : Bool :=
  s.groups.any fun g => g.core == core && g.status != .faulting && g.status != .halted && g.batches.any fun b => b.pipe == some p

/-- BATCH_START: an idle lane pipeline starts the chosen ready batch; of several idle in one slot the lowest does (R194). -/
def execBatchStart (core pipe : Nat) (s : State) : Out :=
  let slot := pipeSlot s core pipe
  let lower := (upto pipe).any fun q => !pipeHeld s core q && decide (pipeSlot s core q ≤ slot)
  if 4 ≤ pipe ∨ pipeHeld s core pipe ∨ lower then .next s
  else match dueBefore s core (3 * slot) with
  | some h => .next (reachCycle s core h)
  | none =>
    let all := readyBatches s core slot
    let vds := (all.map fun x => x.1.vd).eraseDups
    match shareWinner (s.core core).strides 2 vds vds with
    | none => .next s
    | some v => match firstBatch (all.filter fun x => x.1.vd == v) with
      | none => .next s
      | some (g, b) =>
        let s1 := (shareTaken s core 2 vds v).modGroup g.gid fun h =>
          h.setBatch { b with started := true, pipe := some pipe, nextSlot := max b.nextSlot slot }
        .next (s1.modCore core fun k => { k with cyc := max k.cyc (3 * slot) })

/-- Has the condition that suspended a batch cleared (R178). -/
def blockClear (s : State) : Block → Bool
  | .fe op => !feWaits s op
  | .copy id => !copyWaits s id
  | .engine id => !engWaits s id
  | .stream id => !engWaits s id
  | .park id => !(s.parks.any fun p => p.id == id)
  | .write op => !(s.ops.any fun r => r.op == op)
  | _ => true

/-- BATCH_RESUME: a suspended batch's condition has cleared, and it is ready again (R178). -/
def execBatchResume (gid bid : Nat) (s : State) : Out :=
  match s.group? gid with
  | none => .next s
  | some g => match g.batch? bid with
    | none => .next s
    | some b =>
      if !b.suspended ∨ g.frozen ∨ !groupIssues s g ∨ !blockClear s b.block then .next s
      else .next (s.setGroup (g.setBatch { b with suspended := false }))

end Sys2Proof.Machine
end

