-- ==== Sys2Proof/Machine/Dispatch.lean ====
section
/-! DEFINITION. One arm for each constructor of Instr: a direct call of its meaning, or a refusal by name. -/

namespace Sys2Proof.Machine

open Sys2Proof

/-- The meaning of an instruction or of a step of the device. -/
def exec (i : Instr) (s : State) : Host.Outcome State Fault Refusal :=
  match i with
  | .sadd d a b t => Sys2Proof.Machine.execSadd d a b t s
  | .saddI64 d a b t => Sys2Proof.Machine.execSaddI64 d a b t s
  | .saddSat d a b t => Sys2Proof.Machine.execSaddSat d a b t s
  | .saddUsat d a b t => Sys2Proof.Machine.execSaddUsat d a b t s
  | .ssub d a b t => Sys2Proof.Machine.execSsub d a b t s
  | .ssubI64 d a b t => Sys2Proof.Machine.execSsubI64 d a b t s
  | .ssubSat d a b t => Sys2Proof.Machine.execSsubSat d a b t s
  | .ssubUsat d a b t => Sys2Proof.Machine.execSsubUsat d a b t s
  | .smul d a b t => Sys2Proof.Machine.execSmul d a b t s
  | .smulh d a b t => Sys2Proof.Machine.execSmulh d a b t s
  | .smulhZ32 d a b t => Sys2Proof.Machine.execSmulhZ32 d a b t s
  | .sdiv d a b t => Sys2Proof.Machine.execSdiv d a b t s
  | .sdivZ32 d a b t => Sys2Proof.Machine.execSdivZ32 d a b t s
  | .sdivRem d a b t => Sys2Proof.Machine.execSdivRem d a b t s
  | .sdivRemZ32 d a b t => Sys2Proof.Machine.execSdivRemZ32 d a b t s
  | .sdivResult core unit => Sys2Proof.Machine.execSdivResult core unit s
  | .sand d a b t => Sys2Proof.Machine.execSand d a b t s
  | .sandNot d a b t => Sys2Proof.Machine.execSandNot d a b t s
  | .sor d a b t => Sys2Proof.Machine.execSor d a b t s
  | .sorNot d a b t => Sys2Proof.Machine.execSorNot d a b t s
  | .sxor d a b t => Sys2Proof.Machine.execSxor d a b t s
  | .sxorNot d a b t => Sys2Proof.Machine.execSxorNot d a b t s
  | .sshl d a b t => Sys2Proof.Machine.execSshl d a b t s
  | .sshlI64 d a b t => Sys2Proof.Machine.execSshlI64 d a b t s
  | .sshr d a b t => Sys2Proof.Machine.execSshr d a b t s
  | .sshrI64 d a b t => Sys2Proof.Machine.execSshrI64 d a b t s
  | .ssar d a b t => Sys2Proof.Machine.execSsar d a b t s
  | .ssarI64 d a b t => Sys2Proof.Machine.execSsarI64 d a b t s
  | .smin d a b t => Sys2Proof.Machine.execSmin d a b t s
  | .sminZ32 d a b t => Sys2Proof.Machine.execSminZ32 d a b t s
  | .smax d a b t => Sys2Proof.Machine.execSmax d a b t s
  | .smaxZ32 d a b t => Sys2Proof.Machine.execSmaxZ32 d a b t s
  | .ssel d a b t => Sys2Proof.Machine.execSsel d a b t s
  | .scmpEq d a b t => Sys2Proof.Machine.execScmpEq d a b t s
  | .scmpNe d a b t => Sys2Proof.Machine.execScmpNe d a b t s
  | .scmpLt d a b t => Sys2Proof.Machine.execScmpLt d a b t s
  | .scmpLe d a b t => Sys2Proof.Machine.execScmpLe d a b t s
  | .scmpUlt d a b t => Sys2Proof.Machine.execScmpUlt d a b t s
  | .scmpUle d a b t => Sys2Proof.Machine.execScmpUle d a b t s
  | .smov d a t => Sys2Proof.Machine.execSmov d a t s
  | .smovI64 d a t => Sys2Proof.Machine.execSmovI64 d a t s
  | .spopc d a t => Sys2Proof.Machine.execSpopc d a t s
  | .sclz d a t => Sys2Proof.Machine.execSclz d a t s
  | .smovi d im t => Sys2Proof.Machine.execSmovi d im t s
  | .smoviZ d im t => Sys2Proof.Machine.execSmoviZ d im t s
  | .smoviSh8 d im t => Sys2Proof.Machine.execSmoviSh8 d im t s
  | .saddi d a im t => Sys2Proof.Machine.execSaddi d a im t s
  | .saddiI64 d a im t => Sys2Proof.Machine.execSaddiI64 d a im t s
  | .sshli d a im t => Sys2Proof.Machine.execSshli d a im t s
  | .sshliLsr d a im t => Sys2Proof.Machine.execSshliLsr d a im t s
  | .sshliAsr d a im t => Sys2Proof.Machine.execSshliAsr d a im t s
  | .brZ a x t => Sys2Proof.Machine.execBrZ a x t s
  | .brNz a x t => Sys2Proof.Machine.execBrNz a x t s
  | .brLt a x t => Sys2Proof.Machine.execBrLt a x t s
  | .brGe a x t => Sys2Proof.Machine.execBrGe a x t s
  | .brGt a x t => Sys2Proof.Machine.execBrGt a x t s
  | .brLe a x t => Sys2Proof.Machine.execBrLe a x t s
  | .brMz x t => Sys2Proof.Machine.execBrMz x t s
  | .brMnz x t => Sys2Proof.Machine.execBrMnz x t s
  | .jmp x t => Sys2Proof.Machine.execJmp x t s
  | .jmpInd a t => Sys2Proof.Machine.execJmpInd a t s
  | .call x t => Sys2Proof.Machine.execCall x t s
  | .callInd a t => Sys2Proof.Machine.execCallInd a t s
  | .loop a x t => Sys2Proof.Machine.execLoop a x t s
  | .split a x t => Sys2Proof.Machine.execSplit a x t s
  | .splitNot a x t => Sys2Proof.Machine.execSplitNot a x t s
  | .join a t => Sys2Proof.Machine.execJoin a t s
  | .joinAll t => Sys2Proof.Machine.execJoinAll t s
  | .joinMerge gid => Sys2Proof.Machine.execJoinMerge gid s
  | .vrun c l t => Sys2Proof.Machine.execVrun c l t s
  | .maskpMov d b t => Sys2Proof.Machine.execMaskpMov d b t s
  | .maskpAnd d a b t => Sys2Proof.Machine.execMaskpAnd d a b t s
  | .maskpAndn d a b t => Sys2Proof.Machine.execMaskpAndn d a b t s
  | .maskpOr d a b t => Sys2Proof.Machine.execMaskpOr d a b t s
  | .waitc d im t => Sys2Proof.Machine.execWaitc d im t s
  | .sld d a b f t => Sys2Proof.Machine.execSld d a b f t s
  | .sst d a b f t => Sys2Proof.Machine.execSst d a b f t s
  | .satom d a b f t => Sys2Proof.Machine.execSatom d a b f t s
  | .fence im t => Sys2Proof.Machine.execFence im t s
  | .fenceLd im t => Sys2Proof.Machine.execFenceLd im t s
  | .fenceSt im t => Sys2Proof.Machine.execFenceSt im t s
  | .fenceComplete gid sp => Sys2Proof.Machine.execFenceComplete gid sp s
  | .bar im t => Sys2Proof.Machine.execBar im t s
  | .barRelease team b => Sys2Proof.Machine.execBarRelease team b s
  | .bcopy d a b t => Sys2Proof.Machine.execBcopy d a b t s
  | .bcopyIl4 d a b t => Sys2Proof.Machine.execBcopyIl4 d a b t s
  | .copyAdmit id => Sys2Proof.Machine.execCopyAdmit id s
  | .copyPortionTake id => Sys2Proof.Machine.execCopyPortionTake id s
  | .porterDelivery id off len out => Sys2Proof.Machine.execPorterDelivery id off len out s
  | .panarm d a t => Sys2Proof.Machine.execPanarm d a t s
  | .panrel im t => Sys2Proof.Machine.execPanrel im t s
  | .panrelWait im t => Sys2Proof.Machine.execPanrelWait im t s
  | .pannierReadEnd id => Sys2Proof.Machine.execPannierReadEnd id s
  | .mloadb n a b f t => Sys2Proof.Machine.execMloadb n a b f t s
  | .slotLoad id target out => Sys2Proof.Machine.execSlotLoad id target out s
  | .mmas n a f t => Sys2Proof.Machine.execMmas n a f t s
  | .accz a b t => Sys2Proof.Machine.execAccz a b t s
  | .accst d a b t => Sys2Proof.Machine.execAccst d a b t s
  | .engineAdmit id => Sys2Proof.Machine.execEngineAdmit id s
  | .tokenGrant core => Sys2Proof.Machine.execTokenGrant core s
  | .passStreamStart core => Sys2Proof.Machine.execPassStreamStart core s
  | .accRowUpdate core => Sys2Proof.Machine.execAccRowUpdate core s
  | .engineComplete id => Sys2Proof.Machine.execEngineComplete id s
  | .solicit d a b f t => Sys2Proof.Machine.execSolicit d a b f t s
  | .census d a t => Sys2Proof.Machine.execCensus d a t s
  | .respond a t => Sys2Proof.Machine.execRespond a t s
  | .markput a b t => Sys2Proof.Machine.execMarkput a b t s
  | .markdrop a b t => Sys2Proof.Machine.execMarkdrop a b t s
  | .markmove d a b t => Sys2Proof.Machine.execMarkmove d a b t s
  | .moveInstall id => Sys2Proof.Machine.execMoveInstall id s
  | .moveAck id => Sys2Proof.Machine.execMoveAck id s
  | .moveForward id => Sys2Proof.Machine.execMoveForward id s
  | .moveRelease id => Sys2Proof.Machine.execMoveRelease id s
  | .solicitResolve id => Sys2Proof.Machine.execSolicitResolve id s
  | .censusReport id => Sys2Proof.Machine.execCensusReport id s
  | .responderStart core vd => Sys2Proof.Machine.execResponderStart core vd s
  | .responderComplete gid => Sys2Proof.Machine.execResponderComplete gid s
  | .qpush d a b f t => Sys2Proof.Machine.execQpush d a b f t s
  | .qpushPublish id => Sys2Proof.Machine.execQpushPublish id s
  | .cancelUnit a t => Sys2Proof.Machine.execCancelUnit a t s
  | .cancelLaunch a t => Sys2Proof.Machine.execCancelLaunch a t s
  | .cancelGraph a t => Sys2Proof.Machine.execCancelGraph a t s
  | .cancelPhase a t => Sys2Proof.Machine.execCancelPhase a t s
  | .cancelJob a t => Sys2Proof.Machine.execCancelJob a t s
  | .ctrrd d a t => Sys2Proof.Machine.execCtrrd d a t s
  | .regroup a b t => Sys2Proof.Machine.execRegroup a b t s
  | .setfmt a t => Sys2Proof.Machine.execSetfmt a t s
  | .setfmtRnd im t => Sys2Proof.Machine.execSetfmtRnd im t s
  | .setfmtFtz im t => Sys2Proof.Machine.execSetfmtFtz im t s
  | .setfmtAtype im t => Sys2Proof.Machine.execSetfmtAtype im t s
  | .setfmtBtype im t => Sys2Proof.Machine.execSetfmtBtype im t s
  | .setfmtSmode im t => Sys2Proof.Machine.execSetfmtSmode im t s
  | .getfmt d t => Sys2Proof.Machine.execGetfmt d t s
  | .rdsr d im t => Sys2Proof.Machine.execRdsr d im t s
  | .wrsr a im t => Sys2Proof.Machine.execWrsr a im t s
  | .trap im t => Sys2Proof.Machine.execTrap im t s
  | .trapVal a im t => Sys2Proof.Machine.execTrapVal a im t s
  | .waitn d a t => Sys2Proof.Machine.execWaitn d a t s
  | .savegS d a t => Sys2Proof.Machine.execSavegS d a t s
  | .savegV d a v t => Sys2Proof.Machine.execSavegV d a v t s
  | .savegO d a t => Sys2Proof.Machine.execSavegO d a t s
  | .savegP a t => Sys2Proof.Machine.execSavegP a t s
  | .loadgS d a t => Sys2Proof.Machine.execLoadgS d a t s
  | .loadgV d a v t => Sys2Proof.Machine.execLoadgV d a v t s
  | .loadgO d a t => Sys2Proof.Machine.execLoadgO d a t s
  | .loadgP a t => Sys2Proof.Machine.execLoadgP a t s
  | .tlbinv a b t => Sys2Proof.Machine.execTlbinv a b t s
  | .tlbinvAll t => Sys2Proof.Machine.execTlbinvAll t s
  | .ret t => Sys2Proof.Machine.execRet t s
  | .exit t => Sys2Proof.Machine.execExit t s
  | .yield t => Sys2Proof.Machine.execYield t s
  | .ydone t => Sys2Proof.Machine.execYdone t s
  | .vsync t => Sys2Proof.Machine.execVsync t s
  | .nop h t => Sys2Proof.Machine.execNop h t s
  | .vadd l => Sys2Proof.Machine.execVadd l s
  | .vsub l => Sys2Proof.Machine.execVsub l s
  | .vaddc l => Sys2Proof.Machine.execVaddc l s
  | .vmul l => Sys2Proof.Machine.execVmul l s
  | .vmulh l => Sys2Proof.Machine.execVmulh l s
  | .vmad l => Sys2Proof.Machine.execVmad l s
  | .vmin l => Sys2Proof.Machine.execVmin l s
  | .vmax l => Sys2Proof.Machine.execVmax l s
  | .vabs l => Sys2Proof.Machine.execVabs l s
  | .vneg l => Sys2Proof.Machine.execVneg l s
  | .vand l => Sys2Proof.Machine.execVand l s
  | .vor l => Sys2Proof.Machine.execVor l s
  | .vxor l => Sys2Proof.Machine.execVxor l s
  | .vnot l => Sys2Proof.Machine.execVnot l s
  | .vshl l => Sys2Proof.Machine.execVshl l s
  | .vshr l => Sys2Proof.Machine.execVshr l s
  | .vsar l => Sys2Proof.Machine.execVsar l s
  | .vclz l => Sys2Proof.Machine.execVclz l s
  | .vpopc l => Sys2Proof.Machine.execVpopc l s
  | .vbrev l => Sys2Proof.Machine.execVbrev l s
  | .vbfe l => Sys2Proof.Machine.execVbfe l s
  | .vbfi l => Sys2Proof.Machine.execVbfi l s
  | .vperm l => Sys2Proof.Machine.execVperm l s
  | .vsel l => Sys2Proof.Machine.execVsel l s
  | .vmov l => Sys2Proof.Machine.execVmov l s
  | .vcmp l => Sys2Proof.Machine.execVcmp l s
  | .pand l => Sys2Proof.Machine.execPand l s
  | .por l => Sys2Proof.Machine.execPor l s
  | .pxor l => Sys2Proof.Machine.execPxor l s
  | .pnot l => Sys2Proof.Machine.execPnot l s
  | .pmov l => Sys2Proof.Machine.execPmov l s
  | .pset l => Sys2Proof.Machine.execPset l s
  | .psetMask l => Sys2Proof.Machine.execPsetMask l s
  | .vshfl l => Sys2Proof.Machine.execVshfl l s
  | .vbcast l => Sys2Proof.Machine.execVbcast l s
  | .vred l => Sys2Proof.Machine.execVred l s
  | .vscan l => Sys2Proof.Machine.execVscan l s
  | .vvote l => Sys2Proof.Machine.execVvote l s
  | .vcmpx l => Sys2Proof.Machine.execVcmpx l s
  | .vlaneid l => Sys2Proof.Machine.execVlaneid l s
  | .vfadd l => Sys2Proof.Machine.execVfadd l s
  | .vfsub l => Sys2Proof.Machine.execVfsub l s
  | .vfmul l => Sys2Proof.Machine.execVfmul l s
  | .vfma l => Sys2Proof.Machine.execVfma l s
  | .vfmin l => Sys2Proof.Machine.execVfmin l s
  | .vfmax l => Sys2Proof.Machine.execVfmax l s
  | .vfabs l => Sys2Proof.Machine.execVfabs l s
  | .vfneg l => Sys2Proof.Machine.execVfneg l s
  | .vfcmp l => Sys2Proof.Machine.execVfcmp l s
  | .vfclass l => Sys2Proof.Machine.execVfclass l s
  | .vrcp l => Sys2Proof.Machine.execVrcp l s
  | .vrsq l => Sys2Proof.Machine.execVrsq l s
  | .vsqrt l => Sys2Proof.Machine.execVsqrt l s
  | .vexp2 l => Sys2Proof.Machine.execVexp2 l s
  | .vlog2 l => Sys2Proof.Machine.execVlog2 l s
  | .vfrnd l => Sys2Proof.Machine.execVfrnd l s
  | .vcvt l => Sys2Proof.Machine.execVcvt l s
  | .vpack l => Sys2Proof.Machine.execVpack l s
  | .vunpk l => Sys2Proof.Machine.execVunpk l s
  | .vbxdec l => Sys2Proof.Machine.execVbxdec l s
  | .vbxenc l => Sys2Proof.Machine.execVbxenc l s
  | .vflagsRd l => Sys2Proof.Machine.execVflagsRd l s
  | .vflagsClr l => Sys2Proof.Machine.execVflagsClr l s
  | .vflagsRdclr l => Sys2Proof.Machine.execVflagsRdclr l s
  | .vflagsWr l => Sys2Proof.Machine.execVflagsWr l s
  | .vld l => Sys2Proof.Machine.execVld l s
  | .vst l => Sys2Proof.Machine.execVst l s
  | .vlds l => Sys2Proof.Machine.execVlds l s
  | .vsts l => Sys2Proof.Machine.execVsts l s
  | .vatom l => Sys2Proof.Machine.execVatom l s
  | .lcopy l => Sys2Proof.Machine.execLcopy l s
  | .vspawn l => Sys2Proof.Machine.execVspawn l s
  | .mma l => Sys2Proof.Machine.execMma l s
  | .mmab l => Sys2Proof.Machine.execMmab l s
  | .accrd l => Sys2Proof.Machine.execAccrd l s
  | .accwr l => Sys2Proof.Machine.execAccwr l s
  | .laneHint op l => Sys2Proof.Machine.execLaneHint op l s
  | .batchStart core pipe => Sys2Proof.Machine.execBatchStart core pipe s
  | .batchResume gid bid => Sys2Proof.Machine.execBatchResume gid bid s
  | .feAccessServe id => Sys2Proof.Machine.execFeAccessServe id s
  | .loadComplete id el => Sys2Proof.Machine.execLoadComplete id el s
  | .storeAccept id => Sys2Proof.Machine.execStoreAccept id s
  | .spadArrayWrite core => Sys2Proof.Machine.execSpadArrayWrite core s
  | .atomicPerform id => Sys2Proof.Machine.execAtomicPerform id s
  | .groupRetire gid => Sys2Proof.Machine.execGroupRetire gid s
  | .spawnBinTimer core bin => Sys2Proof.Machine.execSpawnBinTimer core bin s
  | .binGroupResident core bin => Sys2Proof.Machine.execBinGroupResident core bin s
  | .queueParse vd q => Sys2Proof.Machine.execQueueParse vd q s
  | .unitPlace => Sys2Proof.Machine.execUnitPlace s
  | .fenceRecordRead vd q => Sys2Proof.Machine.execFenceRecordRead vd q s
  | .courierBatch vd q k => Sys2Proof.Machine.execCourierBatch vd q k s
  | .courierTimeout vd q => Sys2Proof.Machine.execCourierTimeout vd q s
  | .depotPublish id => Sys2Proof.Machine.execDepotPublish id s
  | .slotWrite dom off data => Sys2Proof.Machine.execSlotWrite dom off data s
  | .readSlot dom slot => Sys2Proof.Machine.execReadSlot dom slot s
  | .stepPartition vd => Sys2Proof.Machine.execStepPartition vd s
  | .stepContext vd => Sys2Proof.Machine.execStepContext vd s
  | .stepMapping vd readOk => Sys2Proof.Machine.execStepMapping vd readOk s
  | .stepQueue vd => Sys2Proof.Machine.execStepQueue vd s
  | .stepProgramCreate vd readOk => Sys2Proof.Machine.execStepProgramCreate vd readOk s
  | .stepProgramRestart vd => Sys2Proof.Machine.execStepProgramRestart vd s
  | .programTeamPlace vd id => Sys2Proof.Machine.execProgramTeamPlace vd id s
  | .stepEnvelope => Sys2Proof.Machine.execStepEnvelope s
  | .stepWindow vd readOk => Sys2Proof.Machine.execStepWindow vd readOk s
  | .stepKeyRelease vd => Sys2Proof.Machine.execStepKeyRelease vd s
  | .stepDelete vd => Sys2Proof.Machine.execStepDelete vd s
  | .parkReplay gid who => Sys2Proof.Machine.execParkReplay gid who s
  | .atsCompletion core vd haddr size r w => Sys2Proof.Machine.execAtsCompletion core vd haddr size r w s
  | .priResponse vd haddr resp => Sys2Proof.Machine.execPriResponse vd haddr resp s
  | .atsInvalidate haddr size => Sys2Proof.Machine.execAtsInvalidate haddr size s
  | .sliceExpiry core region => Sys2Proof.Machine.execSliceExpiry core region s
  | .handlerStart gid => Sys2Proof.Machine.execHandlerStart gid s
  | .handlerBudgetExpiry gid => Sys2Proof.Machine.execHandlerBudgetExpiry gid s
  | .forcedSave gid => Sys2Proof.Machine.execForcedSave gid s
  | .regionSwitch core region => Sys2Proof.Machine.execRegionSwitch core region s
  | .deviceResident core vd => Sys2Proof.Machine.execDeviceResident core vd s
  | .thermalPoolStep temps => Sys2Proof.Machine.execThermalPoolStep temps s
  | .energyUpdate vd matrix lane memory other => Sys2Proof.Machine.execEnergyUpdate vd matrix lane memory other s
  | .oasisGo vd n => Sys2Proof.Machine.execOasisGo vd n s
  | .notifyStore vd n data src => Sys2Proof.Machine.execNotifyStore vd n data src s
  | .debugTokenSubmit => Sys2Proof.Machine.execDebugTokenSubmit s
  | .getVersion fn => Sys2Proof.Machine.execGetVersion fn s
  | .getCapabilities fn => Sys2Proof.Machine.execGetCapabilities fn s
  | .negotiateAlgorithms fn => Sys2Proof.Machine.execNegotiateAlgorithms fn s
  | .getDigests fn => Sys2Proof.Machine.execGetDigests fn s
  | .getCertificate fn => Sys2Proof.Machine.execGetCertificate fn s
  | .challenge fn nonce => Sys2Proof.Machine.execChallenge fn nonce s
  | .getMeasurements fn index signed nonce => Sys2Proof.Machine.execGetMeasurements fn index signed nonce s
  | .keyExchange fn exchange => Sys2Proof.Machine.execKeyExchange fn exchange s
  | .tdiLeaveRun vd error => Sys2Proof.Machine.execTdiLeaveRun vd error s
  | .functionLevelReset vd => Sys2Proof.Machine.execFunctionLevelReset vd s
  | .vfEnableSet => Sys2Proof.Machine.execVfEnableSet s
  | .vfEnableClear => Sys2Proof.Machine.execVfEnableClear s
  | .deviceReset vd => Sys2Proof.Machine.execDeviceReset vd s
  | .resetComplete vd => Sys2Proof.Machine.execResetComplete vd s
  | .coldReset => Sys2Proof.Machine.execColdReset s
  | .bootstateAdvance ok => Sys2Proof.Machine.execBootstateAdvance ok s
  | .peerFlitRetry port => Sys2Proof.Machine.execPeerFlitRetry port s
  | .peerPortDown port => Sys2Proof.Machine.execPeerPortDown port s
  | .peerAccessArrive port dev vd addr kind data => Sys2Proof.Machine.execPeerAccessArrive port dev vd addr kind data s
  | .lineReadReturn id el out => Sys2Proof.Machine.execLineReadReturn id el out s
  | .sramScrub core what out => Sys2Proof.Machine.execSramScrub core what out s
  | .hbmPatrolScrub vd line out => Sys2Proof.Machine.execHbmPatrolScrub vd line out s
  | .groupHalt gid => Sys2Proof.Machine.execGroupHalt gid s
  | .inspectDiscard fn => Sys2Proof.Machine.execInspectDiscard fn s
  | .registerWrite fn off data => Sys2Proof.Machine.execRegisterWrite fn off data s
  | .tdiEntersRun vd => Sys2Proof.Machine.execTdiEntersRun vd s
  | .oasisHartAccess hart addr kind data => Sys2Proof.Machine.execOasisHartAccess hart addr kind data s
  | .oasisHartFence hart predWrites => Sys2Proof.Machine.execOasisHartFence hart predWrites s
  | .debugAccess vd loc write data => Sys2Proof.Machine.execDebugAccess vd loc write data s

end Sys2Proof.Machine
end

