-- ==== Sys2Proof/Machine/Issue.lean ====
section
/-! DEFINITION. What a step does: the issue of a scalar instruction by a scalar unit (R193, R332, R456, R457), the issue of a
lane instruction by a pipeline (R177), and what may happen next when the agenda names nothing. `step` only calls these. -/

namespace Sys2Proof.Machine

/-! ### Scalar issue -/

/-- The issue of a word that gives no instruction to run: it cannot be fetched, lies past its code, or is no instruction. -/
def badScalar (s : State) (c : Cand) (code addr detail insn : Nat) : State :=
  let t := s.now c.g.core
  unitIssued (raiseFault s c.g.gid t { fetchRec c.g c.ix c.sp.pc 0 addr detail false with code := code, insn := insn })
    c.g.core c.g.slot t

/-- A split issues its next scalar instruction: the word at its pc is fetched and decoded, and the instruction runs (R61, R92,
R369, R457). The mark `held` says that a condition holds the split and nothing has issued. -/
def attempt (s : State) (c : Cand) : Out :=
  let len := codeLen c.g c.ix
  if len ≤ c.sp.pc then .next (badScalar s c 0x02 0 (rangeDetail c.sp.pc len false) 0)
  else
    match fetchBytes s c.g (scalarCodeAt c.g c.ix c.sp.pc) 4 with
    | (.park why page hosts pages addr, s1) =>
      let (id, s2) := parkAt s1 c.g c.ix none pages why page hosts addr (some (fetchRec c.g c.ix c.sp.pc 0 addr 0 false))
      .next { s2.modGroup c.g.gid fun g => g.modSplit c.ix fun sp => { sp with block := .park id } with held := true }
    | (.fault code addr d, s1) => .next (badScalar s1 c code addr d 0)
    | (.word n, s1) =>
      match decodeScalar (BitVec.ofNat 32 n) with
      | .error v => .next (badScalar s1 c 0x01 0 (v.2 + 2 ^ 8 * v.1) n)
      | .ok i => exec i { s1 with cur := some (.split c.g.gid c.ix) }

/-- The splits that no condition holds: a split is ready when its next instruction can issue (R193). What a held split has
asked of the host stands. -/
def readyCands (s : State) : List Cand → State × List Cand
  | [] => (s, [])
  | c :: l =>
    let keep := let r := readyCands s l; (r.1, c :: r.2)
    match attempt s c with
    | .next s1 => if s1.held then readyCands { s1 with held := false } l else keep
    | _ => keep

/-- Who receives a unit's opportunity: the device by its share, its split by R193; a split that has yielded is passed over
once, and the opportunity goes on to the next (R94). -/
def chooseCand (s : State) (core u : Nat) (all : List Nat) : Nat → List Cand → State × Option Cand
  | 0, _ => (s, none)
  | fuel + 1, cs =>
    match shareWinner (s.core core).strides u all ((cs.map fun c => c.g.vd).eraseDups) with
    | none => (s, none)
    | some v =>
      match orderCands (cs.filter fun c => c.g.vd == v) with
      | [] => (s, none)
      | c :: _ =>
        if c.sp.passOver then
          chooseCand (s.modGroup c.g.gid fun g => g.modSplit c.ix fun sp => { sp with passOver := false }) core u all fuel
            (cs.filter fun d => !(d.g.gid == c.g.gid && d.ix == c.ix))
        else (s, some c)

/-- Something is due on the core before what an act does: the core stops there, and the act comes again (R186, R390, R396). -/
def stopFor (s : State) (core h : Nat) (a : Act) : State := { reachCycle s core h with agenda := a :: s.agenda }

/-- The cycle of a unit's next opportunity: its next free one in which some split may issue under R70 and R91. -/
def unitCycle (s : State) (core u : Nat) (cs : List Cand) : Nat :=
  let t0 := max (s.now core) ((s.core core).units.getD u 0)
  cs.foldl (fun t c => min t (max t0 c.sp.earliest)) (cs.foldl (fun t c => max t c.sp.earliest) t0)

/-- The next opportunity of scalar unit `u` of a core (R193), after the merges that are due (R182).
Beyond the rule's words: DEDUCED, log entry 49. -/
def unitStep (s0 : State) (core u : Nat) : Out :=
  let s := mergeGroups s0 core
  let cs := unitCands s core u
  let t := unitCycle s core u cs
  match dueBefore s core t with
  | some h => .next (stopFor s core h (.unit core u))
  | none =>
  let (s1, ready) := readyCands (reachCycle s core t) (cs.filter fun c => decide (c.sp.earliest ≤ t))
  let all := (ready.map fun c => c.g.vd).eraseDups
  match chooseCand s1 core u all (ready.length + 1) ready with
  | (s2, none) => .next (unitIssued s2 core u t)
  | (s2, some c) =>
    match attempt s2 c with
    | .next s3 => .next (if s3.held then unitIssued { s3 with held := false } core u t else shareTaken s3 core u all c.g.vd)
    | o => o

/-! ### Lane issue -/

/-- Do the started batches of a group issue on: while it runs, while its slice ends (R391), or in the slot in which it takes its
fault (R456); not while its program stops (R359). -/
def Group.streams (g : Group) : Bool :=
  !g.stopping && (g.status == .running || g.status == .trapped || g.status == .saving || g.status == .faulting)

/-- The batch that a pipeline holds (R177). -/
def pipeBatch (s : State) (core p : Nat) : Option (Group × Batch) :=
  ((s.groups.filter fun g => g.core == core && g.streams).flatMap
    fun g => (g.batches.filter fun b => b.pipe == some p).map fun b => (g, b)).head?

/-- A lane word that gives no instruction to run faults at its slot; LANE is its lowest active lane (R457). -/
def badLane (s : State) (g : Group) (b : Batch) (slot code addr detail insn lane : Nat) : State :=
  pipeFrom (raiseFault s g.gid (3 * slot)
    { fetchRec g b.split b.spc (b.first + b.next) addr detail true with code := code, insn := insn, lane := lane })
    g.core b.pipe (slot + 1)

/-- A pipeline issues the next lane instruction of its batch: the three words are fetched and decoded, and the instruction
runs (R62, R90, R177, R457). -/
def pipeStep (s0 : State) (core p : Nat) : Out :=
  let s := mergeGroups s0 core
  match pipeBatch s core p with
  | none => .next s
  | some (g, b) =>
    let slot := max (pipeSlot s core p) b.nextSlot
    if g.status = .faulting ∧ g.trapAt ≠ 3 * slot then .next s
    else match dueBefore s core (3 * slot) with
    | some h => .next (stopFor s core h (.pipe core p))
    | none =>
      let sr := reachCycle s core (max (s.now core) (3 * slot))
      match fetchBytes sr g (laneCodeAt g (b.first + b.next)) 12 with
      | (.park why page hosts pages addr, s1) =>
        let (id, s2) := parkAt s1 g (16 + b.bid) none pages why page hosts addr
          (some (fetchRec g b.split b.spc (b.first + b.next) addr 0 true))
        .next (suspendAt g b slot (.park id) s2)
      | (.fault code addr d, s1) => .next (badLane s1 g b slot code addr d 0 127)
      | (.word n, s1) =>
        match decodeLane n with
        | .error v =>
          .next (badLane s1 g b slot 0x01 0 (v.2 + 2 ^ 8 * v.1) n (wordLane g b (bitsOf n 86 10) (laneFields n)))
        | .ok i =>
          match exec i { s1 with cur := some (.batch g.gid b.bid) } with
          | .next s2 => .next (if s2.held then pipeFrom { s2 with held := false } core b.pipe (slot + 1) else s2)
          | o => o

/-! ### One thing that happens -/

/-- Cycles of a core pass in which nothing issues. -/
def passCycles (s : State) (core n : Nat) : State :=
  let t := s.now core + n
  match dueBefore s core t with
  | some h => if h < t then stopFor s core h (.tick core (t - h)) else reachCycle s core t
  | none => reachCycle s core t

/-- One thing that happens. Beyond the rule's words: DESIGN CHOICE, log entry 52. -/
def perform (s : State) : Act → Out
  | .unit core u => if u < 2 then unitStep s core u else .next s
  | .pipe core p => pipeStep s core p
  | .event i => if encode i = [] then exec i { s with cur := none } else .next s
  | .tick core n => .next (passCycles s core n)
  | .agentPart id off len => .next (accstPart (loadPart (porterRead s id off len) id off) id off)
  | .hostWrite addr data => .next (s.land (.host addr) data)

/-! ### What may happen next

When the agenda names nothing, one of the things that the machine may do by itself happens; which one, the spec leaves open
(R195), so it is a free choice. What the outside does (a host write, a register write, a message) stands in the agenda only. -/

/-- Something that the machine may do by itself. Beyond the rule's words: DESIGN CHOICE, log entry 2. -/
abbrev Turn := State → Out

/-- What a core may do. -/
def coreMoves (s : State) (core : Nat) (k : Core) : List Turn :=
  [(unitStep · core 0), (unitStep · core 1), (pipeStep · core 0), (pipeStep · core 1), (pipeStep · core 2), (pipeStep · core 3)] ++
  ((upto 4).map fun p => execBatchStart core p) ++
  [execSdivResult core 0, execSdivResult core 1, execSpadArrayWrite core, execTokenGrant core,
   execPassStreamStart core, execAccRowUpdate core, (fun s => .next (reachCycle s core (s.now core + 1)))] ++
  (k.bins.map fun b => execBinGroupResident core b.bix) ++
  (k.slices.map fun r => execRegionSwitch core r.region) ++
  (s.vds.map fun v => execResponderStart core v.1)

/-- What a group, its splits and its batches may do. -/
def groupMoves (g : Group) : List Turn :=
  [execGroupRetire g.gid, execJoinMerge g.gid, execGroupHalt g.gid, execHandlerStart g.gid, execForcedSave g.gid,
   execResponderComplete g.gid] ++
  ((upto 9).map fun i => execFenceComplete g.gid i) ++
  (g.batches.map fun b => execBatchResume g.gid b.bid)

/-- What the porter may do for a copy. -/
def copyMoves (c : Copy) : List Turn :=
  [execCopyAdmit c.id, execCopyPortionTake c.id, execPannierReadEnd c.id] ++
  (c.active.map fun x => execPorterDelivery c.id x.off (min x.len 4) .ok)

/-- What the matrix engine may do for an instruction. -/
def engineMoves (o : EngOp) : List Turn :=
  [execEngineAdmit o.id, execEngineComplete o.id, execPannierReadEnd o.id] ++
  (match o.kind with
   | .mloadb _ _ _ _ _ _ left => left.map fun k => execSlotLoad o.id k .ok
   | .accst _ n _ _ _ _ => (upto n).map fun k => fun s => .next (accstPart s o.id k)
   | _ => [])

/-- What the reconciler and the hub may do for a device. -/
def deviceMoves (p : Nat × VDev) : List Turn :=
  [execStepPartition p.1, execStepContext p.1, execStepMapping p.1 true, execStepQueue p.1,
   execStepProgramCreate p.1 true, execStepProgramRestart p.1, execStepWindow p.1 true,
   execStepKeyRelease p.1, execStepDelete p.1, execDeviceReset p.1, execResetComplete p.1] ++
  (p.2.queues.flatMap fun k => [execQueueParse p.1 k.q, execFenceRecordRead p.1 k.q, execCourierBatch p.1 k.q 1,
                                execCourierTimeout p.1 k.q])

/-- What the machine may do by itself. -/
def freeMoves (s : State) : List Turn :=
  (s.cores.flatMap fun c => coreMoves s c.1 c.2) ++ s.groups.flatMap groupMoves ++
  (s.stores.flatMap fun e => [execStoreAccept e.id, execAtomicPerform e.id]) ++
  (s.loads.flatMap fun l => l.els.map fun e => execLoadComplete l.op e.1) ++
  (s.parks.map fun p => execParkReplay p.gid p.who) ++
  s.copies.flatMap copyMoves ++ s.engops.flatMap engineMoves ++
  (s.moves.flatMap fun m => [execMoveInstall m.id, execMoveAck m.id, execMoveForward m.id,
                             execMoveRelease m.id]) ++
  (s.solicits.flatMap fun x => x.arriving.map fun c => execSolicitResolve (256 * x.sid + c)) ++
  (s.reports.map fun r => execCensusReport r.id) ++
  (s.pushes.flatMap fun p => [execQpushPublish p.id, execDepotPublish p.id]) ++
  s.vds.flatMap deviceMoves ++
  (s.hub.programs.map fun p => execProgramTeamPlace p.vd p.id) ++
  (match slotsToRead s with
   | [] => []
   | p :: _ => [execReadSlot p.1 p.2]) ++
  (s.hub.invals.map fun q => execAtsInvalidate q.lo q.size) ++
  [execUnitPlace, execStepEnvelope, execBootstateAdvance (Config.freeBit s.free)]

/-- The machine does one of the things that it may do by itself. -/
def freeStep (s : State) : Out :=
  let moves := freeMoves s
  (moves.getD (Config.freeNat (s.free + 1) % moves.length) execUnitPlace) { s with free := s.free + 2, cur := none }

/-! ### What may not wait

A fence that a failing line has asked for takes place (R454, R481).
A team that is over gives up its allocation (R174, R297). A waiting .fe access is served at the first state of its granule that meets its condition (R210), a barrier opens when every
counted group has arrived (R277), and a device becomes resident in the cycle in which it gains work (R389). Timers, slices and
budgets end with a cycle; of what meets in one, the bins come before the slices (R186, R390, R396, R400). -/

/-- The teams, and the groups without one, by the numbers that BAR_RELEASE names. -/
def barTeams (s : State) : List Nat :=
  s.teams.map (·.tid) ++ (s.groups.filter fun g => g.team == none).map fun g => 2 ^ 32 + g.gid

/-- The barriers that are due. -/
def dueBar (s : State) : Option (Nat × Nat) :=
  (barTeams s).findSome? fun t => ((upto 4).find? fun b => barDue s t b).map fun b => (t, b)

/-- The spawn bins whose timers have reached their value. -/
def dueBin (s : State) : Option (Nat × Nat) :=
  s.cores.findSome? fun c =>
    (c.2.bins.find? fun b => binRuns s c.1 b && decide (binEnd s b < s.now c.1)).map fun b => (c.1, b.bix)

/-- The change of residents that is due (R389, R390). -/
def dueResident (s : State) : Option (Nat × Nat) :=
  (s.vds.flatMap fun v => match v.2.part with
    | some p => if p.region = 0 then [] else p.cores.map fun c => (c, p.region)
    | none => []).findSome? fun c => (residentMove s c.1 c.2).map fun m => (c.1, m.vd)

/-- The slices that have expired. -/
def dueSlice (s : State) : Option (Nat × Nat) :=
  s.cores.findSome? fun c => (c.2.slices.find? fun k => sliceDue s c.1 k).map fun k => (c.1, k.region)

/-- What happens before anything else. -/
def dueTurn (s : State) : Option Turn :=
  match s.hub.fences with
  | f :: l => some fun st => .next (fenceOwner (st.modHub fun h => { h with fences := l }) f.vd f.code f.core f.detail)
  | [] =>
  if s.teams.any (teamOver s) then some fun st => .next (releaseTeams st)
  else match s.feqs.find? (feDue s), dueBar s, dueBin s, dueResident s, dueSlice s, s.groups.find? (budgetOver s) with
    | some q, _, _, _, _, _ => some (execFeAccessServe q.id)
    | none, some b, _, _, _, _ => some (execBarRelease b.1 b.2)
    | none, none, some b, _, _, _ => some (execSpawnBinTimer b.1 b.2)
    | none, none, none, some r, _, _ => some (execDeviceResident r.1 r.2)
    | none, none, none, none, some r, _ => some (execSliceExpiry r.1 r.2)
    | none, none, none, none, none, some g => some (execHandlerBudgetExpiry g.gid)
    | none, none, none, none, none, none => none

/-- The next thing that happens: what may not wait, then what the agenda names first, or one of the things that the machine may do
by itself. -/
def takeTurn (s : State) : Out :=
  match dueTurn s with
  | some t => t { s with held := false, cur := none }
  | none => match s.agenda with
    | a :: l => perform { s with agenda := l, held := false } a
    | [] => freeStep { s with held := false }

end Sys2Proof.Machine
end

