-- ==== Sys2Proof/Machine/Step.lean ====
section
/-! DEFINITION. One step of the machine, and the state in which the next step runs a given instruction. -/

namespace Sys2Proof.Machine

/-- One step: what the agenda names first happens, or one of the things that the machine may do by itself. -/
def step (s : State) : Host.Outcome State Fault Refusal := takeTurn s

/-- The partition of the device that stands for a load (R385): core 0, every group slot and register row.
Beyond the rule's words: DESIGN CHOICE, log entry 1. -/
def loadPartition : Partition where
  cores := [0]
  region := 0
  gfirst := 0
  gcount := 24
  rfirst := 0
  rcount := 4096
  sfirst := 0
  scount := 4096
  afirst := 0
  acount := 4096
  slots := [0, 1, 2, 3]
  pfirst := 0
  pcount := 64
  bins := 8
  marks := 8
  census := 8
  chsets := []
  oasis := []
  qcount := 1
  tokshare := 0
  eshare := 0

/-- The executable mapping of two pages of HBM: scalar code in the first, lane code in the second (R355). -/
def loadMapping : Mapping where
  id := 1
  va := 0x10000
  size := 0x20000
  srca := 0
  loc := 0
  w := false
  x := true
  pg256 := false
  ace := false
  thresh := 0
  self := false
  pexp := false
  pool := 0
  wid := 0
  pvd := 0
  port := 0
  runs := [(0, 2)]
  poolRuns := []
  tableRuns := []
  cnt := []
  system := true

/-- The launch of the group that stands for a load (R317). -/
def loadLaunch : Launch where
  lid := 1
  scode := 0x10000
  lcode := 0x20000
  slen := 16384
  llen := 5461
  vregs := 64
  team := 1
  groups := 1
  entry := 0
  consts := []
  sprows := 0
  accrows := 0
  lctr := 0
  gctr := 0
  pctr := 0
  jctr := 0
  image := none

/-- The batch that runs one lane instruction at lane index 0 in pipeline 0 (R95, R96). -/
def loadBatch : Batch where
  bid := 0
  split := 0
  first := 0
  count := 1
  next := 0
  mask := ~~~(0 : LaneMask)
  fmt := fmtReset
  started := true
  suspended := false
  block := .none
  pipe := some 0
  nextSlot := 0
  vrunAt := 0
  spc := 0
  seq := 0
  hist := []
  served := 0
  ready := 0

/-- The state with an instruction word where the next step fetches: a program is loaded and a group runs it, on core 0, slot 0
of virtual device 1 (log entry 1). Up to 32 bits it is a scalar word, and scalar unit 0 of core 0 issues next; above that it
is a lane word, in a started batch of pipeline 0. -/
def State.withFetchWord (s : State) (nbits w : Nat) : State :=
  let v := w % 2 ^ nbits
  let d : VDev := { s.vd 1 with part := some loadPartition, maps := [loadMapping], resetting := none }
  let s1 := ({ s with groups := s.groups.filter fun g => g.core != 0 }.setVd 1 d).setCore 0 Core.reset
  let g := startGroup s1 0 1 0 loadLaunch 0 0 [] (~~~(0 : LaneMask)) fmtReset 0
  if nbits ≤ 32 then
    { (s1.putBytes (.hbm 1 0) (natLe 12 v)) with groups := s1.groups ++ [g], fresh := s.fresh + 1, agenda := [.unit 0 0] }
  else
    { (s1.putBytes (.hbm 1 0x10000) (natLe 12 v)) with
      groups := s1.groups ++ [{ g with batches := [loadBatch] }], fresh := s.fresh + 1, agenda := [.pipe 0 0] }

end Sys2Proof.Machine
end

