-- ==== Sys2Proof/Safety.lean ====
section
/-! DEFINITION. The terms of the claims: a run that goes on, the canonical form of memory, when a scalar or a lane
instruction issues normally, and what an issue leaves behind (its frame). -/

namespace Sys2Proof.Machine

/-- An outcome with a next state. -/
def GoesOn (o : Out) : Prop := ∃ t, o = .next t

/-- The invariant of the model's memory: the canonical form. -/
def State.memOk (s : State) : Bool := s.mem.wf

/-! ### Scalar instructions -/

/-- The value that a register field 0 to 127 has for split `ix` of the group numbered `gid` (R60). -/
def State.reg (s : State) (gid ix f : Nat) : Word :=
  match s.group? gid with
  | some g => g.sval ix f
  | none => 0

/-- The issue of `i` by split `ix` of `g` in the cycle that the group's core has reached. -/
def issueOf (i : Instr) (s : State) (g : Group) (ix : Nat) (sp : Split) : ScIss :=
  { g := prunePend g (s.now g.core), ix := ix, sp := sp, t := s.now g.core, word := wordOf i, seq := s.fresh }

/-- Nothing stays over a result of split `ix` issued in cycle `t`: every entry is of the split's own, of an earlier cycle, or of
a lower split in this one (R44). -/
def Latest (g : Group) (ix t : Nat) : Prop := ∀ p ∈ g.pend, p.split ≠ ix → p.issued < t ∨ (p.issued = t ∧ p.split < ix)

/-- The state in which the effect of a scalar instruction of `g` starts. -/
def issueState (s : State) (g : Group) : State :=
  { s.setGroup (prunePend g (s.now g.core)) with fresh := s.fresh + 1, held := false }

/-- A scalar instruction issues normally: a split issues it, its word breaks no field rule (R459, R460), the handler's limits
allow it (R393), every register that it reads holds its latest result (R44, R70, R73), the scoreboard holds none of its
registers (R55), and no result that stays over those of this issue has its entry already (R44). -/
structure ScalarReady (i : Instr) (u : ScUse) (s : State) (g : Group) (ix : Nat) (sp : Split) : Prop where
  issuer : issuingSplit s = some (g, ix, sp)
  formed : WellFormed i
  allowed : handlerBreach (issueOf i s g ix sp) u = none
  readable : ∀ f ∈ u.reads, f < 64 → ∀ p ∈ pendHits g ix (.s f), p.seenBy ix (s.now g.core) = .yes
  latest : Latest g ix (s.now g.core)
  unlocked : ∀ f ∈ u.reads, f < 64 → scLocked g ix f = false
  unclaimed : ∀ w ∈ u.writes, scLocked g ix w.2 = false

/-- `g` with the register values, splits and pending results of `h`: the parts of a group that a register instruction may
change. -/
def Group.withRegsOf (g h : Group) : Group :=
  { g with sregs := h.sregs, splits := h.splits, handler := h.handler, pend := h.pend }

/-- `s` with the groups and cores of `t` and the model's own counters: the parts of the state that a register instruction
may change. -/
def State.withIssueOf (s t : State) : State :=
  { s with groups := t.groups, cores := t.cores, free := t.free, fresh := t.fresh, held := t.held }

/-- The code that the handler split of a group runs, and its phase. -/
def Group.phase (g : Group) : Option (Bool × Nat × Nat) := g.handler.map fun k => (k.resume, k.scode, k.slen)

/-- What a scalar issue leaves: from `s` to `t`, split `ix` of `g` (which holds `sp`) has issued `i`, goes on at `pc`, may
issue again after the stall count and `extra` more cycles (R70, R91), has written the registers `ws`, readable `lat` cycles
after issue (R71), and nothing else has changed. -/
structure Issued (i : Instr) (s t : State) (g : Group) (ix : Nat) (sp : Split) (pc extra lat : Nat)
    (ws : List (Nat × Word)) : Prop where
  values : ∀ w ∈ ws, t.reg g.gid ix w.1 = w.2
  registers : ∀ n, (∀ w ∈ ws, w.1 ≠ n) → t.reg g.gid ix n = s.reg g.gid ix n
  group : ∃ h, t.group? g.gid = some h ∧
    h = g.withRegsOf h ∧ (∀ j, j ≠ ix → h.split? j = g.split? j) ∧ h.phase = g.phase ∧
    (∃ q, h.split? ix = some q ∧
      q = { sp with priv := q.priv, pc := pc, earliest := s.now g.core + 1 + wordOf i % 4 + extra,
                    lastIssue := s.now g.core, word := wordOf i }) ∧
    (∀ w ∈ ws, ∃ p ∈ h.pend, p.reg = .s w.1 ∧ p.split = ix ∧ p.ready = s.now g.core + lat)
  others : ∀ gid, gid ≠ g.gid → t.group? gid = s.group? gid
  cores : ∀ c, c ≠ g.core → t.core c = s.core c
  core : t.core g.core = { s.core g.core with units := (t.core g.core).units }
  rest : t = s.withIssueOf t

/-- A scalar instruction waits at its issue: nothing has happened but the passing of a number, and the mark `held` stands
(R193). -/
def Held (s t : State) (g : Group) : Prop := t = { issueState s g with held := true }

/-- What a scalar instruction that faults leaves: the group of the split issues no more, its fault record names the
instruction, and nothing else has changed (R440, R446, R457). -/
structure Faults (i : Instr) (s t : State) (g : Group) (ix : Nat) (sp : Split) (code addr detail : Nat) : Prop where
  group : ∃ h f, t.group? g.gid = some h ∧
    h = { g with pend := h.pend, status := .faulting, trapAt := s.now g.core, faults := [f] } ∧
    f.code = code ∧ f.addr = addr ∧ f.detail = detail ∧ f.who = ix ∧ f.insn = wordOf i ∧ f.spc = sp.pc ∧
    f.laneIns = false ∧ f.lane = 127 ∧ f.lpc = 0
  others : ∀ gid, gid ≠ g.gid → t.group? gid = s.group? gid
  cores : ∀ c, c ≠ g.core → t.core c = s.core c
  core : t.core g.core = { s.core g.core with units := (t.core g.core).units }
  rest : t = s.withIssueOf t

/-! ### Lane instructions -/

/-- Lane `n` of a lane register, v or o by its specifier (R44). -/
def Group.lane (g : Group) (spec n : Nat) : Word := (g.vval spec).getD n 0

/-- The sticky flags of lane `n` that have arrived (R53). -/
def Group.flag (g : Group) (n : Nat) : Flags := g.flags.getD n 0

/-- The flags of lane `n` in a list of raised flags. -/
def comingFlags (l : List (Nat × List Flags)) (n : Nat) : Flags := l.foldl (fun f p => f ||| p.2.getD n 0) 0

/-- Lane `n` of the batch's activity mask passes the guard (R50). -/
def laneActive (g : Group) (b : Batch) (l : LaneF) (n : Nat) : Bool :=
  laneBit b.mask n && (l.guard == 31#5 || (laneBit (g.preds.getD l.guard.toNat 0) n != (l.inv == 1#1)))

/-- The value that last-result entry `k` has in lane `n` (R48). -/
def lastResult (g : Group) (b : Batch) (k n : Nat) : Word :=
  match b.hist[k]? with
  | some (.vals new _ _ _) => new.getD n 0
  | some (.dest spec) => g.lane spec n
  | _ => 0

/-- Word `k` of a lane operand in lane `n`: what its specifier names (R64 to R67), with the immediate as widened to 64 bits. -/
def operand (g : Group) (b : Batch) (imm : DWord) (spec k n : Nat) : Word :=
  if spec < 0x200 then g.lane (spec + k) n
  else if spec < 0x204 then lastResult g b (spec - 0x200) n
  else if spec = 0x3FF then imm.extractLsb' (32 * k) 32
  else if spec = 0x3FE then 0
  else if spec < 0x340 then g.sval b.split (64 + (spec - 0x300) + k)
  else g.sval b.split (spec - 0x340 + k)

/-- The registers that a lane instruction reads. -/
def LnIss.regsRead (x : LnIss) : List PReg :=
  ((laneFieldList x.sh x.l).flatMap fun f => fieldReads f.2.1 f.2.2) ++
  (if x.l.guard.toNat < 24 then [.p x.l.guard.toNat] else []) ++ (if x.op = 0x095 then [.flags] else [])

/-- The last-result entries that a lane instruction reads. -/
def LnIss.entriesRead (x : LnIss) : List Nat :=
  (laneFieldList x.sh x.l).filterMap fun f => match f.2.1 with
    | .src .. => if isH f.2.2 then some (f.2.2 - 0x200) else none
    | _ => none

/-- A lane instruction issues normally: a batch issues it, its word breaks no field rule under the batch's format register
(R248, R459), its registers lie in the allocation (R46), the last results that it reads exist (R49), every register that it
reads holds its latest result (R71, R73), the scoreboard holds none of its registers (R55) and no element that it reads is
poisoned (R483), and no result that stays over those of this issue has its entry already (R44). -/
structure LaneReady (i : Instr) (op : Nat) (l : LaneF) (s : State) (g : Group) (b : Batch) : Prop where
  issuer : issuingBatch s = some (g, b)
  owner : (g.split? b.split).isSome
  parts : laneParts i = some (op, l)
  formed : WellFormed i
  formatted : sideViol op l b.fmt = []
  fresh : begun b.block = false
  allotted : rangeBreach g.launch.vregs
    ((laneFieldList (laneIssOf op l s g b).sh l).drop 3 ++ (laneFieldList (laneIssOf op l s g b).sh l).take 3) = none
  results : hBreach b (laneFieldList (laneIssOf op l s g b).sh l) = none
  readable : ∀ r ∈ (laneIssOf op l s g b).regsRead, ∀ p ∈ pendHits g b.split r, lnSeen (laneIssOf op l s g b) p = .yes
  latest : Latest g b.split (3 * (s.now g.core / 3))
  recent : ∀ k ∈ (laneIssOf op l s g b).entriesRead, ∀ new old ready prod, b.hist[k]? = some (.vals new old ready prod) →
    ready ≤ s.now g.core / 3
  unlocked : laneLocked (laneIssOf op l s g b) = false
  sound : ∀ lanes, poisonRead s g ((laneFieldList (laneIssOf op l s g b).sh l).flatMap fun f => fieldReads f.2.1 f.2.2) lanes
    = none

/-- What a lane instruction leaves: values of lane registers, by specifier; a predicate; scalar registers; raised flags;
the arrived flags that VFLAGS writes; the empty bit (R53). Lanes that are not active keep theirs. -/
structure LaneEffect where
  dst : List (Nat × (Nat → Word)) := []
  pred : Option (Nat × (Nat → Bool)) := none
  scal : List (Nat × Word) := []
  raised : Nat → Flags := fun _ => 0
  written : Option (Nat → Flags) := none
  empty : Bool := false

/-- `g` with the parts of `h` that a lane instruction of fixed latency may change. -/
def Group.withLanesOf (g h : Group) : Group :=
  { g with sregs := h.sregs, splits := h.splits, handler := h.handler, vregs := h.vregs, oregs := h.oregs, preds := h.preds,
           flags := h.flags, fpend := h.fpend, fturn := h.fturn, pend := h.pend, empty := h.empty, batches := h.batches }

/-- The batches of a group after its batch `b` has issued an instruction in slot `slot`: it goes on to the next one after
the stall count, with the instruction's results in the last-result file, or leaves the queue (R48, R71, R96, R177). -/
def batchesAfter (l : List Batch) (b : Batch) (slot stall lat : Nat) (e : HEntry) : List Batch :=
  if b.next + 1 = b.count then l.filter fun c => c.bid != b.bid
  else l.map fun c => if c.bid == b.bid then
    { b with next := b.next + 1, nextSlot := slot + 1 + stall, hist := (e :: b.hist).take 4, served := 0, block := .none,
             ready := max b.ready (slot + lat) } else c

/-- What the group of a lane issue holds afterwards, `h` for `g`. -/
structure LaneLeaves (x : LnIss) (g h : Group) (lat : Nat) (e : LaneEffect) : Prop where
  values : ∀ w ∈ e.dst, ∀ n < 96, h.lane w.1 n = if laneActive g x.b x.l n then w.2 n else g.lane w.1 n
  registers : ∀ spec, (∀ w ∈ e.dst, w.1 ≠ spec) → ∀ n, h.lane spec n = g.lane spec n
  predicate : ∀ p ∈ e.pred, ∀ n < 96,
    laneBit (h.preds.getD p.1 0) n = if laneActive g x.b x.l n then p.2 n else laneBit (g.preds.getD p.1 0) n
  predicates : ∀ q, (∀ p ∈ e.pred, p.1 ≠ q) → h.preds.getD q 0 = g.preds.getD q 0
  scalar : ∀ w ∈ e.scal, h.sval x.b.split w.1 = w.2
  scalars : ∀ ix r, (∀ w ∈ e.scal, w.1 ≠ r ∨ (48 ≤ r ∧ ix ≠ x.b.split)) → h.sval ix r = g.sval ix r
  flags : ∀ n < 96, h.flag n = match e.written with
    | some f => if laneActive g x.b x.l n then f n else x.g.flag n
    | none => x.g.flag n
  raised : ∃ fs, h.fpend = x.g.fpend ++ fs ∧ (∀ p ∈ fs, p.1 = x.slot + lat) ∧
    ∀ n < 96, comingFlags fs n = if laneActive g x.b x.l n then e.raised n else 0
  empty : h.empty = (g.empty || e.empty)
  pending : ∀ p ∈ h.pend, p ∈ g.pend ∨ (p.split = x.b.split ∧ p.scalar = false ∧ p.ready = 3 * (x.slot + lat))
  batch : ∃ r, h.batches = batchesAfter g.batches x.b x.slot x.l.stall.toNat lat r ∧
    ∀ w, e.dst.head? = some w → ∃ new old, r = .vals new old (x.slot + lat) (x.b.first + x.b.next) ∧
      ∀ n < 96, new.getD n 0 = h.lane w.1 n
  splits : ∀ j, j ≠ x.b.split → h.split? j = g.split? j
  split : ∃ sp q, g.split? x.b.split = some sp ∧ h.split? x.b.split = some q ∧
    q = { sp with priv := q.priv, laneReady := q.laneReady }
  phase : h.phase = g.phase
  others : h = g.withLanesOf h

/-- What a lane issue leaves: batch `x.b` of `g` has issued, its effect of latency `lat` is `e`, and nothing else has
changed. -/
structure LaneDone (x : LnIss) (s t : State) (g : Group) (lat : Nat) (e : LaneEffect) : Prop where
  group : ∃ h, t.group? g.gid = some h ∧ LaneLeaves x g h lat e
  others : ∀ gid, gid ≠ g.gid → t.group? gid = s.group? gid
  cores : ∀ c, c ≠ g.core → t.core c = s.core c
  core : t.core g.core = { s.core g.core with pipes := (t.core g.core).pipes, poison := (t.core g.core).poison }
  sound : ∀ p ∈ (t.core g.core).poison, p ∈ (s.core g.core).poison
  rest : t = s.withIssueOf t

/-- Lane instruction `i` issues from batch `b` of `g` and leaves `e`, with latency `lat`. -/
def LaneRuns (i : Instr) (op lat : Nat) (l : LaneF) (s : State) (g : Group) (b : Batch) (e : LaneEffect) : Prop :=
  ∃ t, exec i s = .next t ∧ LaneDone (laneIssOf op l s g b) s t g lat e

end Sys2Proof.Machine
end

