-- ==== Sys2Proof/Certificates/Slice0/Obligations.lean ====
section
/-! DEFINITION. The statements of this slice. A statement about an instruction gives its next state: where it completes, what
it leaves in its destinations, and what it leaves unchanged. -/

namespace Sys2Proof.Machine

/-! ### The shapes of scalar statements -/

/-- The fields that a scalar instruction reads and the registers that it writes. -/
def uses (reads writes : List Nat) : ScUse := { reads := reads, writes := writes.map fun n => (0x02, n) }

/-- `i` issues at split `ix` of `g` and leaves the registers `ws`, at the next word, with latency `lat`. -/
def Leaves (i : Instr) (s : State) (g : Group) (ix : Nat) (sp : Split) (lat : Nat) (ws : List (Nat × Word)) : Prop :=
  ∃ t, exec i s = .next t ∧ Issued i s t g ix sp (sp.pc + 1) 0 lat ws

/-- An instruction with two sources leaves `f a b` in sd, with latency `lat`. -/
def BinaryResult (mk : BitVec 6 → BitVec 7 → BitVec 7 → BitVec 2 → Instr) (lat : Nat) (f : Word → Word → Word) : Prop :=
  ∀ (s : State) (g : Group) (ix : Nat) (sp : Split) (d : BitVec 6) (a b : BitVec 7) (t : BitVec 2),
    ScalarReady (mk d a b t) (uses [a.toNat, b.toNat] [d.toNat]) s g ix sp →
    Leaves (mk d a b t) s g ix sp lat [(d.toNat, f (g.sval ix a.toNat) (g.sval ix b.toNat))]

/-- An instruction with one source leaves `f a` in sd, with latency `lat`. -/
def UnaryResult (mk : BitVec 6 → BitVec 7 → BitVec 2 → Instr) (lat : Nat) (f : Word → Word) : Prop :=
  ∀ (s : State) (g : Group) (ix : Nat) (sp : Split) (d : BitVec 6) (a : BitVec 7) (t : BitVec 2),
    ScalarReady (mk d a t) (uses [a.toNat] [d.toNat]) s g ix sp →
    Leaves (mk d a t) s g ix sp lat [(d.toNat, f (g.sval ix a.toNat))]

/-- An instruction with one source and an immediate leaves `f a i` in sd, with latency 1. -/
def ImmediateResult (mk : BitVec 6 → BitVec 7 → BitVec 8 → BitVec 2 → Instr) (f : Word → BitVec 8 → Word) : Prop :=
  ∀ (s : State) (g : Group) (ix : Nat) (sp : Split) (d : BitVec 6) (a : BitVec 7) (i : BitVec 8) (t : BitVec 2),
    ScalarReady (mk d a i t) (uses [a.toNat] [d.toNat]) s g ix sp →
    Leaves (mk d a i t) s g ix sp 1 [(d.toNat, f (g.sval ix a.toNat) i)]

/-- The 64-bit value of the pair whose low register a field names (R80). -/
def pairAt (g : Group) (ix f : Nat) : DWord := g.sval ix (f + 1) ++ g.sval ix f

/-- The two results of a 64-bit instruction. -/
def pairResult (d : BitVec 6) (x : DWord) : List (Nat × Word) :=
  [(d.toNat, x.extractLsb' 0 32), (d.toNat + 1, x.extractLsb' 32 32)]

/-- A 64-bit instruction with two pair sources leaves `f a b` in sd and sd + 1. -/
def PairResult (mk : BitVec 6 → BitVec 7 → BitVec 7 → BitVec 2 → Instr) (f : DWord → DWord → DWord) : Prop :=
  ∀ (s : State) (g : Group) (ix : Nat) (sp : Split) (d : BitVec 6) (a b : BitVec 7) (t : BitVec 2),
    ScalarReady (mk d a b t) (uses [a.toNat, a.toNat + 1, b.toNat, b.toNat + 1] [d.toNat, d.toNat + 1]) s g ix sp →
    Leaves (mk d a b t) s g ix sp 1 (pairResult d (f (pairAt g ix a.toNat) (pairAt g ix b.toNat)))

/-- A 64-bit shift by the count in sb[6:0]. -/
def PairShift (mk : BitVec 6 → BitVec 7 → BitVec 7 → BitVec 2 → Instr) (f : DWord → Nat → DWord) : Prop :=
  ∀ (s : State) (g : Group) (ix : Nat) (sp : Split) (d : BitVec 6) (a b : BitVec 7) (t : BitVec 2),
    ScalarReady (mk d a b t) (uses [a.toNat, a.toNat + 1, b.toNat] [d.toNat, d.toNat + 1]) s g ix sp →
    Leaves (mk d a b t) s g ix sp 1 (pairResult d (f (pairAt g ix a.toNat) ((g.sval ix b.toNat).toNat % 128)))

/-- The nearest value that 32 signed bits hold. -/
def clampSigned (z : Int) : Word := BitVec.ofInt 32 (max (-2147483648) (min 2147483647 z))
/-- The nearest value that 32 unsigned bits hold. -/
def clampUnsigned (z : Int) : Word := BitVec.ofInt 32 (max 0 (min 4294967295 z))
/-- 1 for a relation that holds, 0 otherwise. -/
def truth (b : Bool) : Word := if b then 1 else 0

end Sys2Proof.Machine

section

open Sys2Proof Sys2Proof.Machine

/-! ### Scalar arithmetic (R79 to R86) -/

/-- R82: addition, subtraction and multiplication, wrapping, saturating and high half. -/
def Sys2Proof.Machine.ScalarArithmeticResults : Prop :=
  BinaryResult .sadd 1 (fun a b => a + b) ∧
  BinaryResult .saddSat 1 (fun a b => clampSigned (a.toInt + b.toInt)) ∧
  BinaryResult .saddUsat 1 (fun a b => clampUnsigned ((a.toNat : Int) + b.toNat)) ∧
  BinaryResult .ssub 1 (fun a b => a - b) ∧
  BinaryResult .ssubSat 1 (fun a b => clampSigned (a.toInt - b.toInt)) ∧
  BinaryResult .ssubUsat 1 (fun a b => clampUnsigned ((a.toNat : Int) - b.toNat)) ∧
  BinaryResult .smul 4 (fun a b => a * b) ∧
  BinaryResult .smulh 4 (fun a b => BitVec.ofInt 32 (a.toInt * b.toInt / 2 ^ 32)) ∧
  BinaryResult .smulhZ32 4 (fun a b => BitVec.ofNat 32 (a.toNat * b.toNat / 2 ^ 32))

/-- R82: logic and shifts; a shift count of the width or more shifts everything out. -/
def Sys2Proof.Machine.ScalarLogicAndShiftResults : Prop :=
  BinaryResult .sand 1 (fun a b => a &&& b) ∧
  BinaryResult .sandNot 1 (fun a b => a &&& ~~~b) ∧
  BinaryResult .sor 1 (fun a b => a ||| b) ∧
  BinaryResult .sorNot 1 (fun a b => a ||| ~~~b) ∧
  BinaryResult .sxor 1 (fun a b => a ^^^ b) ∧
  BinaryResult .sxorNot 1 (fun a b => a ^^^ ~~~b) ∧
  BinaryResult .sshl 1 (fun a b => a <<< (b.toNat % 64)) ∧
  BinaryResult .sshr 1 (fun a b => a >>> (b.toNat % 64)) ∧
  BinaryResult .ssar 1 (fun a b => a.sshiftRight (b.toNat % 64)) ∧
  ImmediateResult .sshli (fun a i => a <<< i.toNat) ∧
  ImmediateResult .sshliLsr (fun a i => a >>> i.toNat) ∧
  ImmediateResult .sshliAsr (fun a i => a.sshiftRight i.toNat)

/-- R82, R85: minimum, maximum and the six relations. -/
def Sys2Proof.Machine.ScalarCompareResults : Prop :=
  BinaryResult .smin 1 (fun a b => if a.slt b then a else b) ∧
  BinaryResult .sminZ32 1 (fun a b => if a.ult b then a else b) ∧
  BinaryResult .smax 1 (fun a b => if a.slt b then b else a) ∧
  BinaryResult .smaxZ32 1 (fun a b => if a.ult b then b else a) ∧
  BinaryResult .scmpEq 1 (fun a b => truth (a == b)) ∧
  BinaryResult .scmpNe 1 (fun a b => truth (a != b)) ∧
  BinaryResult .scmpLt 1 (fun a b => truth (a.slt b)) ∧
  BinaryResult .scmpLe 1 (fun a b => truth (a.sle b)) ∧
  BinaryResult .scmpUlt 1 (fun a b => truth (a.ult b)) ∧
  BinaryResult .scmpUle 1 (fun a b => truth (a.ule b))

/-- R82, R84, R86: moves, counts, immediates and select. -/
def Sys2Proof.Machine.ScalarMoveResults : Prop :=
  UnaryResult .smov 1 (fun a => a) ∧
  UnaryResult .spopc 2 (fun a => BitVec.ofNat 32 ((List.range 32).countP fun k => a.getLsbD k)) ∧
  UnaryResult .sclz 2 (fun a => if a = 0 then 32 else BitVec.ofNat 32 (31 - Nat.log2 a.toNat)) ∧
  ImmediateResult .saddi (fun a i => a + i.signExtend 32) ∧
  (∀ (s : State) (g : Group) (ix : Nat) (sp : Split) (d : BitVec 6) (i : BitVec 8) (t : BitVec 2),
    (ScalarReady (.smovi d i t) (uses [] [d.toNat]) s g ix sp →
      Leaves (.smovi d i t) s g ix sp 1 [(d.toNat, i.signExtend 32)]) ∧
    (ScalarReady (.smoviZ d i t) (uses [] [d.toNat]) s g ix sp →
      Leaves (.smoviZ d i t) s g ix sp 1 [(d.toNat, i.zeroExtend 32)]) ∧
    (ScalarReady (.smoviSh8 d i t) (uses [d.toNat] [d.toNat]) s g ix sp →
      Leaves (.smoviSh8 d i t) s g ix sp 1 [(d.toNat, g.sval ix d.toNat <<< 8 ||| i.zeroExtend 32)])) ∧
  (∀ (s : State) (g : Group) (ix : Nat) (sp : Split) (d : BitVec 6) (a b : BitVec 7) (t : BitVec 2),
    ScalarReady (.ssel d a b t) (uses [a.toNat, b.toNat, d.toNat] [d.toNat]) s g ix sp →
    Leaves (.ssel d a b t) s g ix sp 1
      [(d.toNat, if g.sval ix d.toNat ≠ 0 then g.sval ix a.toNat else g.sval ix b.toNat)])

/-- R80, R82, R84: the instructions on register pairs. -/
def Sys2Proof.Machine.ScalarPairResults : Prop :=
  PairResult .saddI64 (fun a b => a + b) ∧
  PairResult .ssubI64 (fun a b => a - b) ∧
  PairShift .sshlI64 (fun a n => a <<< n) ∧
  PairShift .sshrI64 (fun a n => a >>> n) ∧
  PairShift .ssarI64 (fun a n => a.sshiftRight n) ∧
  (∀ (s : State) (g : Group) (ix : Nat) (sp : Split) (d : BitVec 6) (a : BitVec 7) (t : BitVec 2),
    ScalarReady (.smovI64 d a t) (uses [a.toNat, a.toNat + 1] [d.toNat, d.toNat + 1]) s g ix sp →
    Leaves (.smovI64 d a t) s g ix sp 1 (pairResult d (pairAt g ix a.toNat))) ∧
  (∀ (s : State) (g : Group) (ix : Nat) (sp : Split) (d : BitVec 6) (a : BitVec 7) (i : BitVec 8) (t : BitVec 2),
    ScalarReady (.saddiI64 d a i t) (uses [a.toNat, a.toNat + 1] [d.toNat, d.toNat + 1]) s g ix sp →
    Leaves (.saddiI64 d a i t) s g ix sp 1 (pairResult d (pairAt g ix a.toNat + i.signExtend 64)))

/-! ### Division (R83) -/

namespace Sys2Proof.Machine

/-- What SDIV delivers: the quotient, or the remainder, under the signedness chosen. -/
def quotient (signed rem : Bool) (a b : Word) : Word :=
  match signed, rem with
  | true, false => if b = 0 then 0xFFFFFFFF else a.sdiv b
  | true, true => if b = 0 then a else a.srem b
  | false, false => if b = 0 then 0xFFFFFFFF else a / b
  | false, true => if b = 0 then a else a % b

/-- A form of SDIV starts when its scalar unit is free: the unit holds the division, to be delivered within 34 cycles, the
scoreboard holds sd, and no register has changed. -/
def StartsDivision (mk : BitVec 6 → BitVec 7 → BitVec 7 → BitVec 2 → Instr) (signed rem : Bool) : Prop :=
  ∀ (s : State) (g : Group) (ix : Nat) (sp : Split) (d : BitVec 6) (a b : BitVec 7) (t : BitVec 2),
    ScalarReady (mk d a b t) (uses [a.toNat, b.toNat] [d.toNat]) s g ix sp →
    (s.core g.core).divs.getD (g.slot % 2) none = none →
    let dv : Division := { gid := g.gid, split := ix, born := sp.born, reg := d.toNat,
                           value := quotient signed rem (g.sval ix a.toNat) (g.sval ix b.toNat),
                           deadline := s.now g.core + 34 }
    let lock := fun h : Group => { h with locks := h.locks ++ [(ix, d.toNat)] }
    ∃ u, exec (mk d a b t) s = .next u ∧ (u.core g.core).divs.getD (g.slot % 2) none = some dv ∧
      (∀ n, n ≠ g.slot % 2 → (u.core g.core).divs.getD n none = (s.core g.core).divs.getD n none) ∧
      Issued (mk d a b t) (({ s with cores := s.cores }.modCore g.core fun k =>
        { k with divs := (u.core g.core).divs }).modGroup g.gid lock) u (lock g) ix sp (sp.pc + 1) 0 34 []

/-- A form of SDIV waits while its scalar unit holds a division. -/
def WaitsForDivision (mk : BitVec 6 → BitVec 7 → BitVec 7 → BitVec 2 → Instr) : Prop :=
  ∀ (s : State) (g : Group) (ix : Nat) (sp : Split) (d : BitVec 6) (a b : BitVec 7) (t : BitVec 2) (dv : Division),
    ScalarReady (mk d a b t) (uses [a.toNat, b.toNat] [d.toNat]) s g ix sp →
    (s.core g.core).divs.getD (g.slot % 2) none = some dv → ∃ u, exec (mk d a b t) s = .next u ∧ Held s u g

end Sys2Proof.Machine

/-- R83: the four divisions start, and wait for a busy unit; a division delivers its value to its register, which frees the
unit and the register. -/
def Sys2Proof.Machine.ScalarDivisionResults : Prop :=
  StartsDivision .sdiv true false ∧ StartsDivision .sdivZ32 false false ∧
  StartsDivision .sdivRem true true ∧ StartsDivision .sdivRemZ32 false true ∧
  WaitsForDivision .sdiv ∧ WaitsForDivision .sdivZ32 ∧ WaitsForDivision .sdivRem ∧ WaitsForDivision .sdivRemZ32 ∧
  (∀ (s : State) (core unit : Nat) (dv : Division) (g : Group),
    (s.core core).divs.getD unit none = some dv → s.group? dv.gid = some g → (g.split? dv.split).isSome → dv.reg < 64 →
    (g.split? dv.split).map (·.born) = some dv.born →
    ∃ t h, exec (.sdivResult core unit) s = .next t ∧ t.reg dv.gid dv.split dv.reg = dv.value ∧
      (∀ n, n ≠ dv.reg → t.reg dv.gid dv.split n = s.reg dv.gid dv.split n) ∧
      t.group? dv.gid = some h ∧ h.locks = g.locks.erase (dv.split, dv.reg) ∧
      (t.core core).divs.getD unit none = none ∧ (∀ c, c ≠ core → t.core c = s.core c) ∧
      (∀ gid, gid ≠ dv.gid → t.group? gid = s.group? gid) ∧
      t = { s with groups := t.groups, cores := t.cores })

/-! ### Branches, calls and loops (R87 to R91) -/

namespace Sys2Proof.Machine

/-- The target of a direct branch (R87). -/
def branchTarget (sp : Split) (disp : BitVec 14) : Int := (sp.pc : Int) + 1 + disp.toInt

/-- Does a target lie in the code that a split runs (R90). -/
def inCode (g : Group) (ix : Nat) (target : Int) : Prop := 0 ≤ target ∧ target < (codeLen g ix : Int)

/-- A direct branch: not taken, it goes on at the next word; taken, it goes on at its target one cycle later, or raises the
code-range fault where the target lies outside the code. -/
def BranchesOn (i : Instr) (disp : BitVec 14) (reads : List Nat) (taken : List Word → Prop) : Prop :=
  ∀ (s : State) (g : Group) (ix : Nat) (sp : Split), ScalarReady i (uses reads []) s g ix sp →
    let vals := reads.map (g.sval ix)
    let target := branchTarget sp disp
    (¬ taken vals → ∃ t, exec i s = .next t ∧ Issued i s t g ix sp (sp.pc + 1) 0 1 []) ∧
    (taken vals → inCode g ix target → ∃ t, exec i s = .next t ∧ Issued i s t g ix sp target.toNat 1 1 []) ∧
    (taken vals → ¬ inCode g ix target → g.status = .running →
      ∃ t, exec i s = .next t ∧ Faults i s t g ix sp 0x02 0 ((target % 2 ^ 21).toNat + 2 ^ 32 * codeLen g ix))

/-- A jump to `target` that writes `ws`: it is taken where the target lies in the code, and faults with no effect elsewhere. -/
def JumpsTo (i : Instr) (s : State) (g : Group) (ix : Nat) (sp : Split) (target : Int) (ws : List (Nat × Word)) : Prop :=
  (inCode g ix target → ∃ t, exec i s = .next t ∧ Issued i s t g ix sp target.toNat 1 1 ws) ∧
  (¬ inCode g ix target → g.status = .running →
    ∃ t, exec i s = .next t ∧ Faults i s t g ix sp 0x02 0 ((target % 2 ^ 21).toNat + 2 ^ 32 * codeLen g ix))

end Sys2Proof.Machine

/-- R87, R90, R91: the conditional branches and the direct jump. -/
def Sys2Proof.Machine.BranchesGoToTheirTargets : Prop :=
  ∀ (a : BitVec 7) (x : BitVec 14) (t : BitVec 2),
    BranchesOn (.brZ a x t) x [a.toNat] (fun v => v.getD 0 0 = 0) ∧
    BranchesOn (.brNz a x t) x [a.toNat] (fun v => v.getD 0 0 ≠ 0) ∧
    BranchesOn (.brLt a x t) x [a.toNat] (fun v => (v.getD 0 0).toInt < 0) ∧
    BranchesOn (.brGe a x t) x [a.toNat] (fun v => 0 ≤ (v.getD 0 0).toInt) ∧
    BranchesOn (.brGt a x t) x [a.toNat] (fun v => 0 < (v.getD 0 0).toInt) ∧
    BranchesOn (.brLe a x t) x [a.toNat] (fun v => (v.getD 0 0).toInt ≤ 0) ∧
    BranchesOn (.brMz x t) x [60, 61, 62] (fun v => ∀ w ∈ v, w = 0) ∧
    BranchesOn (.brMnz x t) x [60, 61, 62] (fun v => ∃ w ∈ v, w ≠ 0) ∧
    BranchesOn (.jmp x t) x [] (fun _ => True)

/-- R87, R88, R90: indirect jumps, calls and returns, with what they write. -/
def Sys2Proof.Machine.CallsAndReturns : Prop :=
  ∀ (s : State) (g : Group) (ix : Nat) (sp : Split) (a : BitVec 7) (x : BitVec 14) (t : BitVec 2),
    let link : List (Nat × Word) := [(63, BitVec.ofNat 32 (sp.pc + 1))]
    (ScalarReady (.jmpInd a t) (uses [a.toNat] []) s g ix sp →
      JumpsTo (.jmpInd a t) s g ix sp (g.sval ix a.toNat).toNat []) ∧
    (ScalarReady (.ret t) (uses [63] []) s g ix sp → JumpsTo (.ret t) s g ix sp (g.sval ix 63).toNat []) ∧
    (ScalarReady (.call x t) { writes := [(0x05, 63)] } s g ix sp → JumpsTo (.call x t) s g ix sp (branchTarget sp x) link) ∧
    (ScalarReady (.callInd a t) { reads := [a.toNat], writes := [(0x05, 63)] } s g ix sp →
      JumpsTo (.callInd a t) s g ix sp (g.sval ix a.toNat).toNat link)

/-! ### Stream control and batches (R93 to R98, R101, R107) -/

namespace Sys2Proof.Machine

/-- `i` issues and goes on at the next word; beside the issue itself, its group becomes `e g` and its split `f sp`. -/
def Becomes (i : Instr) (s : State) (g : Group) (ix : Nat) (sp : Split) (e : Group → Group) (f : Split → Split) : Prop :=
  ∃ t, exec i s = .next t ∧
    Issued i (s.modGroup g.gid fun h => (e h).modSplit ix f) t ((e g).modSplit ix f) ix (f sp) (sp.pc + 1) 0 1 []

/-- Every batch of the split is gone, and every fixed-latency result of its batches is written (R98). -/
def BatchesDone (s : State) (g : Group) (ix : Nat) (sp : Split) : Prop :=
  (∀ b ∈ g.batches, b.split ≠ ix) ∧ 3 * sp.laneReady ≤ s.now g.core

end Sys2Proof.Machine

/-- R94, R98, R101: YIELD lets the split be passed over once; VSYNC and
WAITC go on when what they wait for has come about, and hold the split until then. -/
def Sys2Proof.Machine.StreamControlGoesOnOrWaits : Prop :=
  ∀ (s : State) (g : Group) (ix : Nat) (sp : Split) (n : BitVec 6) (v : BitVec 8) (t : BitVec 2),
    (ScalarReady (.yield t) {} s g ix sp → Becomes (.yield t) s g ix sp id fun p => { p with passOver := true }) ∧
    (ScalarReady (.vsync t) {} s g ix sp →
      (BatchesDone s g ix sp → Becomes (.vsync t) s g ix sp id fun p => { p with vsyncSeq := s.fresh }) ∧
      (¬ BatchesDone s g ix sp → ∃ u, exec (.vsync t) s = .next u ∧ Held s u g)) ∧
    (ScalarReady (.waitc n v t) {} s g ix sp →
      (g.wc.getD n.toNat 0 ≤ v.toNat → Leaves (.waitc n v t) s g ix sp 1 []) ∧
      (v.toNat < g.wc.getD n.toNat 0 → ∃ u, exec (.waitc n v t) s = .next u ∧ Held s u g))

/-- R95, R96: VRUN enqueues a batch with the mask and the format of its split, waits for a free entry of the queue of 8, and
raises the code-range fault where the batch passes the end of the lane code. -/
def Sys2Proof.Machine.VrunEnqueuesABatch : Prop :=
  ∀ (s : State) (g : Group) (ix : Nat) (sp : Split) (c : BitVec 4) (l : BitVec 20) (t : BitVec 2),
    ScalarReady (.vrun c l t) { reads := [60, 61, 62], ban := 2 } s g ix sp →
    let last := l.toNat + c.toNat + 1
    (last ≤ g.launch.llen → g.batches.length < 8 → ∃ b : Batch, b.split = ix ∧ b.first = l.toNat ∧ b.count = c.toNat + 1 ∧
      b.next = 0 ∧ b.mask = g.sval ix 62 ++ g.sval ix 61 ++ g.sval ix 60 ∧ b.fmt = sp.fmt ∧ b.started = false ∧
      b.suspended = false ∧ b.pipe = none ∧ b.vrunAt = s.now g.core ∧ b.spc = sp.pc ∧ b.hist = [] ∧
      Becomes (.vrun c l t) s g ix sp (fun h => { h with batches := h.batches ++ [b] }) id) ∧
    (last ≤ g.launch.llen → 8 ≤ g.batches.length → ∃ u, exec (.vrun c l t) s = .next u ∧ Held s u g) ∧
    (g.launch.llen < last → g.status = .running → ∃ u, exec (.vrun c l t) s = .next u ∧
      Faults (.vrun c l t) s u g ix sp 0x02 0 (last + 2 ^ 32 * g.launch.llen + 2 ^ 63))

/-! ### Masks, the format register, special registers and TRAP (R100 to R106) -/

namespace Sys2Proof.Machine

/-- The mask that three registers hold. -/
def maskAt (g : Group) (ix f : Nat) : LaneMask := g.sval ix (f + 2) ++ g.sval ix (f + 1) ++ g.sval ix f

/-- The three results of a mask. -/
def maskResult (d : Nat) (m : LaneMask) : List (Nat × Word) :=
  [(d, m.extractLsb' 0 32), (d + 1, m.extractLsb' 32 32), (d + 2, m.extractLsb' 64 32)]

/-- No batch result for a predicate is still to come. -/
def PredReady (s : State) (g : Group) (ix n : Nat) : Prop := ∀ p ∈ g.pend, p.reg = .p n → p.seenBy ix (s.now g.core) = .yes

/-- MASKP with a mask operand leaves `f P M` in three registers. -/
def MaskResult (mk : BitVec 6 → BitVec 7 → BitVec 7 → BitVec 2 → Instr) (f : LaneMask → LaneMask → LaneMask) : Prop :=
  ∀ (s : State) (g : Group) (ix : Nat) (sp : Split) (d : BitVec 6) (a b : BitVec 7) (t : BitVec 2),
    ScalarReady (mk d a b t) (uses [a.toNat, a.toNat + 1, a.toNat + 2] [d.toNat, d.toNat + 1, d.toNat + 2]) s g ix sp →
    PredReady s g ix b.toNat →
    Leaves (mk d a b t) s g ix sp 2 (maskResult d.toNat (f (g.preds.getD b.toNat 0) (maskAt g ix a.toNat)))

/-- The type codes that ATYPE and BTYPE take (R51, R69). -/
def formatCodes : List Nat := [0x61, 0x71, 0x11, 0x80, 0x52, 0x42]

/-- A value that the whole format register takes (R51, R103). -/
def FormatOk (w : Word) : Prop :=
  w.extractLsb' 22 10 = 0 ∧ (w.extractLsb' 20 2).toNat < 2 ∧ (w.extractLsb' 4 8).toNat ∈ formatCodes ∧
  (w.extractLsb' 12 8).toNat ∈ formatCodes

/-- A form of SETFMT: where its operand is accepted the split's format register becomes `w`, elsewhere the format-operand fault
is raised. -/
def SetsFormat (i : Instr) (reads : List Nat) (operand : List Word → Nat) (fn : Nat) (ok : List Word → Prop)
    (w : Word → List Word → Word) : Prop :=
  ∀ (s : State) (g : Group) (ix : Nat) (sp : Split), ScalarReady i (uses reads []) s g ix sp →
    let v := reads.map (g.sval ix)
    (ok v → Becomes i s g ix sp id fun p => { p with fmt := w p.fmt v }) ∧
    (¬ ok v → g.status = .running → ∃ t, exec i s = .next t ∧ Faults i s t g ix sp 0x07 0 (operand v + 2 ^ 32 * fn))

end Sys2Proof.Machine

/-- R100: MASKP in its four forms. -/
def Sys2Proof.Machine.MaskpResults : Prop :=
  (∀ (s : State) (g : Group) (ix : Nat) (sp : Split) (d : BitVec 6) (b : BitVec 7) (t : BitVec 2),
    ScalarReady (.maskpMov d b t) (uses [] [d.toNat, d.toNat + 1, d.toNat + 2]) s g ix sp → PredReady s g ix b.toNat →
    Leaves (.maskpMov d b t) s g ix sp 2 (maskResult d.toNat (g.preds.getD b.toNat 0))) ∧
  MaskResult .maskpAnd (fun p m => p &&& m) ∧
  MaskResult .maskpAndn (fun p m => m &&& ~~~p) ∧
  MaskResult .maskpOr (fun p m => p ||| m)

/-- R51, R103: SETFMT in its six forms. -/
def Sys2Proof.Machine.SetfmtWritesTheFormatRegister : Prop :=
  ∀ (a : BitVec 7) (i : BitVec 8) (t : BitVec 2),
    SetsFormat (.setfmt a t) [a.toNat] (fun v => (v.getD 0 0).toNat) 0 (fun v => FormatOk (v.getD 0 0)) (fun _ v => v.getD 0 0) ∧
    SetsFormat (.setfmtRnd i t) [] (fun _ => i.toNat) 1 (fun _ => True)
      (fun w _ => w.extractLsb' 2 30 ++ i.extractLsb' 0 2) ∧
    SetsFormat (.setfmtFtz i t) [] (fun _ => i.toNat) 2 (fun _ => True)
      (fun w _ => w.extractLsb' 4 28 ++ i.extractLsb' 0 2 ++ w.extractLsb' 0 2) ∧
    SetsFormat (.setfmtAtype i t) [] (fun _ => i.toNat) 3 (fun _ => i.toNat ∈ formatCodes)
      (fun w _ => w.extractLsb' 12 20 ++ i ++ w.extractLsb' 0 4) ∧
    SetsFormat (.setfmtBtype i t) [] (fun _ => i.toNat) 4 (fun _ => i.toNat ∈ formatCodes)
      (fun w _ => w.extractLsb' 20 12 ++ i ++ w.extractLsb' 0 12) ∧
    SetsFormat (.setfmtSmode i t) [] (fun _ => i.toNat) 5 (fun _ => i.toNat < 2)
      (fun w _ => w.extractLsb' 22 10 ++ i.extractLsb' 0 2 ++ w.extractLsb' 0 20)

/-- R56 to R58, R105: RDSR reads each special register; a WRSR of a 1 to GSTAT bit 0 clears EMPTY, and every other WRSR changes
nothing. No setting of EMPTY by a batch is on its way. -/
def Sys2Proof.Machine.SpecialRegisters : Prop :=
  ∀ (s : State) (g : Group) (ix : Nat) (sp : Split) (d : BitVec 6) (a : BitVec 7) (n : BitVec 8) (t : BitVec 2),
    (∀ p ∈ g.pend, p.reg = .empty → p.seenBy ix (s.now g.core) = .yes) →
    let value : Nat := match n.toNat with
      | 0x00 => g.core
      | 0x01 => g.core / 12
      | 0x02 => g.core / 36
      | 0x03 => g.slot
      | 0x04 => if ix = 8 then 0 else ix
      | 0x05 => g.vd
      | 0x06 => g.vd
      | 0x07 => g.gen % 65536
      | 0x08 => g.launch.lid.toNat
      | 0x09 => g.launch.vregs
      | 0x0A => g.spRows
      | 0x0B => g.accRows
      | 0x0C => g.empty.toNat + 2 * g.handler.isSome.toNat + 4 * g.stallchk.toNat
      | 0x0D => g.cycBefore + (s.now g.core - g.cycSince)
      | _ => 0
    (ScalarReady (.rdsr d n t) (uses [] [d.toNat]) s g ix sp →
      Leaves (.rdsr d n t) s g ix sp 2 [(d.toNat, BitVec.ofNat 32 value)]) ∧
    (ScalarReady (.wrsr a n t) (uses [a.toNat] []) s g ix sp →
      (n = 0x0C → (g.sval ix a.toNat).getLsbD 0 = true →
        Becomes (.wrsr a n t) s g ix sp (fun h => { h with empty := false }) id) ∧
      (n ≠ 0x0C ∨ (g.sval ix a.toNat).getLsbD 0 = false → Leaves (.wrsr a n t) s g ix sp 1 []))

/-- R106, R440, R446: TRAP and TRAP.val take the trap fault, whose DETAIL holds the code and, for TRAP.val, the register's
value. -/
def Sys2Proof.Machine.TrapTakesTheTrapFault : Prop :=
  ∀ (s : State) (g : Group) (ix : Nat) (sp : Split) (a : BitVec 7) (c : BitVec 8) (t : BitVec 2), g.status = .running →
    (ScalarReady (.trap c t) {} s g ix sp →
      ∃ u, exec (.trap c t) s = .next u ∧ Faults (.trap c t) s u g ix sp 0x03 0 c.toNat) ∧
    (ScalarReady (.trapVal a c t) (uses [a.toNat] []) s g ix sp →
      ∃ u, exec (.trapVal a c t) s = .next u ∧
        Faults (.trapVal a c t) s u g ix sp 0x03 0 (c.toNat + 2 ^ 32 * (g.sval ix a.toNat).toNat))

/-! ### Splits (R179 to R184) -/

namespace Sys2Proof.Machine

/-- A form of SPLIT by the mask `m`: with no lane taken it goes on; with every lane taken it jumps; otherwise it makes a new
split in the lowest free entry, which starts at the target from the second cycle on with the lanes taken and the other private
registers of the issuing split, which keeps the rest; with no free entry it faults. -/
def SplitsBy (mk : BitVec 7 → BitVec 14 → BitVec 2 → Instr) (inv : Bool) : Prop :=
  ∀ (s : State) (g : Group) (ix : Nat) (sp : Split) (a : BitVec 7) (x : BitVec 14) (t : BitVec 2),
    let i := mk a x t
    ScalarReady i { reads := [a.toNat, a.toNat + 1, a.toNat + 2] ++ (upto 16).map (· + 48), ban := 2 } s g ix sp →
    (∀ k ∈ g.locks, k.1 = ix → k.2 < 48) → sp.state = .running →
    let m := if inv then ~~~(maskAt g ix a.toNat) else maskAt g ix a.toNat
    let taken := maskAt g ix 60 &&& m
    let left := maskAt g ix 60 &&& ~~~m
    let target := branchTarget sp x
    let free := (List.range 8).find? fun e => (g.splits[e]?.map (·.state)) == some .free
    (taken = 0 → Leaves i s g ix sp 1 []) ∧
    (taken ≠ 0 → left = 0 → JumpsTo i s g ix sp target []) ∧
    (taken ≠ 0 → left ≠ 0 → ¬ inCode g ix target → g.status = .running → ∃ u, exec i s = .next u ∧
      Faults i s u g ix sp 0x02 0 ((target % 2 ^ 21).toNat + 2 ^ 32 * codeLen g ix)) ∧
    (taken ≠ 0 → left ≠ 0 → inCode g ix target → free = none → g.status = .running → ∃ u, exec i s = .next u ∧
      Faults i s u g ix sp 0x08 0 (target.toNat % 2 ^ 20 + 2 ^ 32 * maskCount taken + 2 ^ 40 * maskCount left)) ∧
    (taken ≠ 0 → left ≠ 0 → inCode g ix target → ∀ e, free = some e → ∃ u h c q, exec i s = .next u ∧
      u.group? g.gid = some h ∧ h.split? e = some c ∧ h.split? ix = some q ∧
      (∀ j, j ≠ e → j ≠ ix → h.split? j = g.split? j) ∧
      c.state = .running ∧ (c.pc : Int) = target ∧ c.mask = taken ∧ c.fmt = sp.fmt ∧ c.earliest = s.now g.core + 2 ∧
      (∀ n, 48 ≤ n → n < 64 → n < 60 ∨ n = 63 → c.priv.getD (n - 48) 0 = g.sval ix n) ∧
      q.state = .running ∧ q.pc = sp.pc + 1 ∧ q.mask = left ∧ q.fmt = sp.fmt ∧ q.saved = sp.fmt ∧
      (∀ n, n < 60 ∨ n = 63 → u.reg g.gid ix n = s.reg g.gid ix n) ∧ u.mem = s.mem)

/-- A form of JOIN with rejoin mask `j`: when the split's batches are done it waits at JOIN; every live split waiting with no
waiting set able to merge raises the join-deadlock fault. -/
def JoinsWith (i : Instr) (reads : List Nat) (j : Group → Nat → LaneMask) : Prop :=
  ∀ (s : State) (g : Group) (ix : Nat) (sp : Split), ScalarReady i { reads := reads, ban := 2 } s g ix sp →
    (¬ BatchesDone s g ix sp → ∃ u, exec i s = .next u ∧ Held s u g) ∧
    (BatchesDone s g ix sp → g.status = .running → ∃ u h q, exec i s = .next u ∧ u.group? g.gid = some h ∧
      h.split? ix = some q ∧ q.state = .joining ∧ q.rejoin = j g ix ∧ q.pc = sp.pc ∧ q.priv = sp.priv ∧ q.fmt = sp.fmt ∧
      (∀ k, k ≠ ix → h.split? k = g.split? k) ∧ h.sregs = g.sregs ∧ u.mem = s.mem ∧
      (joinStuck h = false → h.status = .running) ∧
      (joinStuck h = true → h.status = .faulting ∧ ∀ f ∈ h.faults, f.code = 0x09))

end Sys2Proof.Machine

/-- R180, R181, R184, R93: SPLIT, SPLIT.not, JOIN and JOIN.all, and EXIT, which frees the split's entry. -/
def Sys2Proof.Machine.SplitsDivideWaitAndEnd : Prop :=
  SplitsBy .split false ∧ SplitsBy .splitNot true ∧
  (∀ (a : BitVec 7) (t : BitVec 2),
    JoinsWith (.join a t) [a.toNat, a.toNat + 1, a.toNat + 2] (fun g ix => maskAt g ix a.toNat)) ∧
  (∀ t : BitVec 2, JoinsWith (.joinAll t) [] (fun _ _ => ~~~(0 : LaneMask))) ∧
  (∀ (s : State) (g : Group) (ix : Nat) (sp : Split) (t : BitVec 2), ScalarReady (.exit t) { ban := 2 } s g ix sp →
    (¬ BatchesDone s g ix sp → ∃ u, exec (.exit t) s = .next u ∧ Held s u g) ∧
    (BatchesDone s g ix sp → ∃ u h q, exec (.exit t) s = .next u ∧ u.group? g.gid = some h ∧
      h.split? ix = some q ∧ q.state = .free ∧ (∀ k, k ≠ ix → h.split? k = g.split? k) ∧ h.sregs = g.sregs ∧
      u.mem = s.mem))

/-- R182, R183: of every waiting set that can merge, the member with the lowest index goes on at the word after its JOIN with
the lanes of them all, and the entries of the others become free. -/
def Sys2Proof.Machine.MergesJoinWaitingSplits : Prop :=
  ∀ (s : State) (gid : Nat) (g : Group), s.group? gid = some g → g.status = .running → g.handler = none →
    g.splits.length = 8 →
    ∃ t h, exec (.joinMerge gid) s = .next t ∧ t.group? gid = some h ∧ t.mem = s.mem ∧
      ∀ j, (∃ (n : Nat) (sp : Split), g.splits[n]? = some sp ∧ sp.state = .joining ∧ sp.rejoin = j) → canMerge g.splits j = true →
        ∀ p rest, waiters g j = p :: rest → ∃ old new : Split, g.splits[p]? = some old ∧ h.splits[p]? = some new ∧
          new.state = .running ∧ new.pc = old.pc + 1 ∧
          (∀ l, new.mask.getLsbD l = true ↔ ∃ n ∈ p :: rest, ∃ sp : Split, g.splits[n]? = some sp ∧ sp.mask.getLsbD l = true) ∧
          (∀ n, 48 ≤ n → n < 64 → n < 60 ∨ n = 63 → new.priv.getD (n - 48) 0 = old.priv.getD (n - 48) 0) ∧
          new.fmt = (if rest = [] then old.fmt else old.saved) ∧
          ∀ n ∈ rest, (h.splits[n]?).map (·.state) = some .free

/-! ### Scalar memory instructions (R201 to R217, R394, R395) -/

namespace Sys2Proof.Machine

/-- What a scalar instruction that starts an operation leaves of its group: the split goes on at the next word, and no
register, predicate, flag, format or mask has changed, of this group or of another. -/
structure GoesOnWord (i : Instr) (s t : State) (g : Group) (ix : Nat) (sp : Split) : Prop where
  registers : ∀ j n, t.reg g.gid j n = s.reg g.gid j n
  group : ∃ h q, t.group? g.gid = some h ∧ h.split? ix = some q ∧
    q = { sp with pc := sp.pc + 1, earliest := s.now g.core + 1 + wordOf i % 4, lastIssue := s.now g.core, word := wordOf i } ∧
    h.vregs = g.vregs ∧ h.oregs = g.oregs ∧ h.preds = g.preds ∧ h.flags = g.flags ∧ h.batches = g.batches ∧
    h.status = g.status ∧ (∀ j, j ≠ ix → h.split? j = g.split? j)
  others : ∀ gid, gid ≠ g.gid → t.group? gid = s.group? gid

/-- The count of outstanding operations on counter `n` has grown by one (R54). -/
def CountedOn (_s t : State) (g : Group) (n : Nat) : Prop :=
  ∃ h, t.group? g.gid = some h ∧ ∀ k, h.wc.getD k 0 = g.wc.getD k 0 + if k = n then 1 else 0

/-- Every check of the accesses passes, and they reach `rs` (R213, R457). -/
def Reaches (s : State) (g : Group) (u : MemUse) (accs : List (Nat × Nat)) (rs : List Reached) : Prop :=
  ∃ s1, planAccess (issueState s g) (prunePend g (s.now g.core)) u accs = .go s1 rs

/-- No page that the accesses reach counts its accesses (R373), so that memory keeps every byte. -/
def Uncounted (rs : List Reached) : Prop := ∀ r ∈ rs, ∀ h, r.hit = some h → h.ace = false

/-- The place of a scalar instruction that issues now in split order (R266). -/
def scalarOrd (s : State) (ix : Nat) (sp : Split) : Ord := { split := ix, born := sp.born, lane := false, seq := s.fresh, ref := sp.vsyncSeq }

/-- The elements of a new load: place, length and destination of each. -/
def newLoad (s t : State) (g : Group) (ord : Ord) (acq : Option Nat) (els : List (Loc × Nat × LoadDst)) : Prop :=
  ∃ o : LoadOp, t.loads = s.loads ++ [o] ∧ o.gid = g.gid ∧ o.core = g.core ∧ o.vd = g.vd ∧ o.ord = ord ∧ o.acq = acq ∧
    o.els.map (fun p => (p.2.loc, p.2.len, p.2.dst)) = els

/-- New elements at the end of the group's store queue: place, bytes and kind of each. -/
def newStores (s t : State) (g : Group) (ord : Ord) (rel : Option Nat) (els : List (Loc × List Byte × StoreKind)) : Prop :=
  ∃ l : List StoreEl, t.stores = s.stores ++ l ∧ l.map (fun e => (e.loc, e.bytes, e.kind)) = els ∧
    ∀ e ∈ l, e.gid = g.gid ∧ e.core = g.core ∧ e.stage = .queued ∧ e.ord = ord ∧ e.rel = rel

/-- The address of `[sa + sb]` (R201). -/
def scalarAddress (g : Group) (ix : Nat) (a b : BitVec 7) : Nat :=
  (pairAt g ix a.toNat + (g.sval ix b.toNat).zeroExtend 64).toNat

/-- The words of a .b32 or a .b64 access. -/
def accessWords (f : BitVec 4) : Nat := if f.toNat % 4 = 1 then 2 else 1

/-- The full/empty qualifier of SLD and SST: 0 none, 1 .fe, 2 .fec. -/
def accessFe (f : BitVec 4) : Nat := f.toNat % 4 - 1

end Sys2Proof.Machine

/-- R201 to R208, R213, R214: a plain or .acq SLD whose checks pass is counted by its space and leaves the group at its next
word; its 4-byte elements, with sd and sd + 1 as their destinations, are in flight, and memory keeps every byte. -/
def Sys2Proof.Machine.SldStartsALoad : Prop :=
  ∀ (s : State) (g : Group) (ix : Nat) (sp : Split) (d : BitVec 6) (a b : BitVec 7) (f : BitVec 4) (t : BitVec 2)
    (rs : List Reached),
    let i := Instr.sld d a b f t
    let n := accessWords f
    let addr := scalarAddress g ix a b
    let wc := if addr < 2 ^ 63 then 0 else 1
    ScalarReady i (uses [a.toNat, a.toNat + 1, b.toNat] ((List.range n).map (d.toNat + ·))) s g ix sp →
    f.toNat % 4 < 2 → f.toNat < 8 → g.wc.getD wc 0 < 255 → rs ≠ [] →
    Reaches s g { space := 2, kind := .read, fe := 0, width := 4 * n, fid := 0x03 } [(127, addr)] rs →
    ∃ u, exec i s = .next u ∧ GoesOnWord i s u g ix sp ∧ CountedOn s u g wc ∧ u.stores = s.stores ∧
      newLoad s u g (scalarOrd s ix sp) (if 4 ≤ f.toNat then some 5 else none)
        (rs.flatMap fun r => (List.range n).map fun k => (r.place.plus (4 * k), 4, .sreg ix (d.toNat + k))) ∧
      (Uncounted rs → u.mem = s.mem)

/-- R201 to R208, R213, R214: a plain or .rel SST whose checks pass is counted on wc2 and leaves the group at its next word;
its 4-byte elements stand at the end of the group's store queue, and memory keeps every byte until they are accepted. -/
def Sys2Proof.Machine.SstStartsAStore : Prop :=
  ∀ (s : State) (g : Group) (ix : Nat) (sp : Split) (d : BitVec 6) (a b : BitVec 7) (f : BitVec 4) (t : BitVec 2)
    (rs : List Reached),
    let i := Instr.sst d a b f t
    let n := accessWords f
    let addr := scalarAddress g ix a b
    let u : MemUse := { space := 2, kind := .write, fe := 0, width := 4 * n, fid := 0x03 }
    ScalarReady i (uses ([a.toNat, a.toNat + 1, b.toNat] ++ (List.range n).map (d.toNat + ·)) []) s g ix sp →
    f.toNat % 4 < 2 → f.toNat / 4 ≠ 1 → f.toNat / 4 ≠ 3 → g.wc.getD 2 0 < 255 → rs ≠ [] → (ix = 8 → addr < 2 ^ 63) → Reaches s g u [(127, addr)] rs →
    ∃ w, exec i s = .next w ∧ GoesOnWord i s w g ix sp ∧ CountedOn s w g 2 ∧ w.loads = s.loads ∧
      newStores s w g (scalarOrd s ix sp) (if 8 ≤ f.toNat then some 5 else none)
        (rs.flatMap fun r => (List.range n).map fun k =>
          (r.place.plus (4 * k), natLe 4 (g.sval ix (d.toNat + k)).toNat, .plain)) ∧
      (Uncounted rs → w.mem = s.mem)

/-- R210, R211: a .fe or .fec SLD, and a .fe SST, whose checks pass hold their split until the granule serves them, with one
waiting access for the granule. -/
def Sys2Proof.Machine.FullEmptyScalarAccessesWait : Prop :=
  ∀ (s : State) (g : Group) (ix : Nat) (sp : Split) (d : BitVec 6) (a b : BitVec 7) (f : BitVec 4) (t : BitVec 2)
    (r : Reached),
    let addr := scalarAddress g ix a b
    let use : AccKind → MemUse := fun k => { space := 2, kind := k, fe := accessFe f, width := 4, fid := 0x03 }
    2 ≤ f.toNat % 4 → g.wc.getD 1 0 < 255 → g.wc.getD 2 0 < 255 → addr ≥ 2 ^ 63 → ix ≠ 8 →
    (∀ i, i = Instr.sld d a b f t → ScalarReady i (uses [a.toNat, a.toNat + 1, b.toNat] [d.toNat]) s g ix sp →
      Reaches s g (use .read) [(127, addr)] [r] → ∃ u h q x, exec i s = .next u ∧ u.group? g.gid = some h ∧
        h.split? ix = some q ∧ q.pc = sp.pc ∧ q.block = .fe x.op ∧ u.feqs = s.feqs ++ [x] ∧ x.store = false ∧
        x.take = decide (f.toNat % 4 = 3) ∧ x.gid = g.gid ∧ x.parts.map (fun p => p.2.2) = [.sreg ix d.toNat] ∧
        (∀ j n, u.reg g.gid j n = s.reg g.gid j n) ∧ CountedOn s u g 1 ∧ u.mem = s.mem) ∧
    (∀ i, i = Instr.sst d a b f t → f.toNat % 4 = 2 →
      ScalarReady i (uses [a.toNat, a.toNat + 1, b.toNat, d.toNat] []) s g ix sp →
      Reaches s g (use .write) [(127, addr)] [r] → ∃ u h q op, exec i s = .next u ∧ u.group? g.gid = some h ∧
        h.split? ix = some q ∧ q.pc = sp.pc ∧ q.block = .fe op ∧
        newStores s u g (scalarOrd s ix sp) (if f.toNat / 4 = 2 then some 5 else none) [(r.place, natLe 4 (g.sval ix d.toNat).toNat,
          .fe (granuleOf (384 * g.spBase + addr % 2 ^ 32)))] ∧
        (∀ j n, u.reg g.gid j n = s.reg g.gid j n) ∧ CountedOn s u g 2 ∧ u.mem = s.mem)

/-- R201, R208, R215: a SATOM whose checks pass is counted by what it returns and where it acts; its one element stands at the
end of the group's store queue with its operation, its operand and its compare value. -/
def Sys2Proof.Machine.SatomStartsAnAtomic : Prop :=
  ∀ (s : State) (g : Group) (ix : Nat) (sp : Split) (d : BitVec 6) (a b : BitVec 7) (f : BitVec 4) (t : BitVec 2)
    (r : Reached),
    let i := Instr.satom d a b f t
    let op := f.toNat % 8
    let nr := f.toNat / 8 = 1
    let addr := (pairAt g ix a.toNat).toNat
    let wc := if nr then 2 else if 2 ^ 63 ≤ addr then 1 else 0
    let u : MemUse := { space := 2, kind := .atomic, fe := 0, width := 4, fid := 0x03, op := op }
    ScalarReady i (uses ([a.toNat, a.toNat + 1, b.toNat] ++ (if op = 7 then [b.toNat + 1] else [])) (if nr then [] else [d.toNat]))
      s g ix sp →
    g.wc.getD wc 0 < 255 → (ix = 8 → addr < 2 ^ 63) → Reaches s g u [(127, addr)] [r] →
    ∃ w, exec i s = .next w ∧ GoesOnWord i s w g ix sp ∧ CountedOn s w g wc ∧ w.loads = s.loads ∧
      newStores s w g (scalarOrd s ix sp) none
        [(r.place, natLe 4 (g.sval ix b.toNat).toNat,
          .atomic op true (if op = 7 then (g.sval ix (b.toNat + 1)).toNat else 0) (if nr then none else some (0x340 + d.toNat)))] ∧
      (Uncounted [r] → w.mem = s.mem)

namespace Sys2Proof.Machine

/-- The addresses of the 4-byte elements of a save-area block (R394, R395). -/
def saveAccs (s : State) (g : Group) (r : HandlerRec) (off size : Nat) : List (Nat × Nat) :=
  (List.range (size / 4)).map fun k => (127, (saveArea s g r + off + 4 * k) % 2 ^ 64)

/-- SAVEG of a block of `size` bytes, `bytes` of them: a valid handler record, an offset in the save area and checks that pass
give one store of 4-byte elements, counted on wc2. -/
def SavesBlock (i : Instr) (a : BitVec 7) (reads : List Nat) (size : Nat) (ok : State → Group → Nat → Prop)
    (bytes : Group → Nat → List Byte) : Prop :=
  ∀ (s : State) (g : Group) (ix : Nat) (sp : Split) (r : HandlerRec) (rs : List Reached),
    let off := (g.sval ix a.toNat).toNat
    let accs := saveAccs s g r off size
    ScalarReady i (uses (a.toNat :: reads) []) s g ix sp → ok s g ix → handlerRec s g.vd = some r →
    off % (if size = 4 then 4 else 16) = 0 → off + size ≤ r.size → g.wc.getD 2 0 < 255 →
    (ix = 8 → (accs.headD (0, 0)).2 < 2 ^ 63) → rs ≠ [] →
    Reaches s g { space := 2, kind := .write, fe := 0, width := 4, fid := 0x03 } accs rs →
    ∃ w, exec i s = .next w ∧ GoesOnWord i s w g ix sp ∧ CountedOn s w g 2 ∧
      newStores s w g (scalarOrd s ix sp) none
        (rs.zipIdx.map fun p => (p.1.place, ((bytes g ix).drop (4 * p.2)).take 4, .plain)) ∧
      (Uncounted rs → w.mem = s.mem)

/-- LOADG of a block of `size` bytes: its first `words` words are in flight to their destinations, counted on wc0. -/
def LoadsBlock (i : Instr) (a : BitVec 7) (size words : Nat) (ok : State → Group → Nat → Prop)
    (dst : Nat → Nat → LoadDst) : Prop :=
  ∀ (s : State) (g : Group) (ix : Nat) (sp : Split) (r : HandlerRec) (rs : List Reached),
    let off := (g.sval ix a.toNat).toNat
    ScalarReady i { reads := [a.toNat], ban := 1 } s g ix sp → ok s g ix → handlerRec s g.vd = some r →
    off % (if size = 4 then 4 else 16) = 0 → off + size ≤ r.size → g.wc.getD 0 0 < 255 → rs.take words ≠ [] →
    Reaches s g { space := 2, kind := .read, fe := 0, width := 4, fid := 0x03 } (saveAccs s g r off size) rs →
    ∃ w, exec i s = .next w ∧ GoesOnWord i s w g ix sp ∧ CountedOn s w g 0 ∧
      newLoad s w g (scalarOrd s ix sp) none ((rs.take words).zipIdx.map fun p => (p.1.place, 4, dst ix p.2)) ∧
      (Uncounted rs → w.mem = s.mem)

/-- A lane register in the group's allocation that neither an interlocked result nor a pending one holds. -/
def LaneRegFree (write : Bool) (r : PReg) (s : State) (g : Group) (ix : Nat) : Prop :=
  (∀ n, r = .v n → n < g.launch.vregs) ∧ lnLocked g ix write r = false ∧
  ∀ p ∈ g.pend, p.reg = r → p.seenBy ix (s.now g.core) = .yes

/-- The 384 bytes of a lane register, lane 0 first. -/
def laneBytes (g : Group) (spec : Nat) : List Byte := (g.vval spec).flatMap fun w => natLe 4 w.toNat

end Sys2Proof.Machine

/-- R392 to R395: SAVEG stores, and LOADG loads, a scalar register, a lane register, an operand-file register or the predicate
block at an offset of the group's save area. -/
def Obligations.SavegAndLoadgMoveBlocks : Prop :=
  ∀ (d : BitVec 6) (a : BitVec 7) (v : BitVec 2) (t : BitVec 2),
    let n := d.toNat + 64 * v.toNat
    SavesBlock (.savegS d a t) a [d.toNat] 4 (fun _ _ _ => True) (fun g ix => natLe 4 (g.sval ix d.toNat).toNat) ∧
    SavesBlock (.savegV d a v t) a [] 384 (LaneRegFree false (.v n)) (fun g _ => laneBytes g n) ∧
    SavesBlock (.savegO d a t) a [] 384 (LaneRegFree false (.o d.toNat))
      (fun g _ => laneBytes g (0x100 + d.toNat)) ∧
    SavesBlock (.savegP a t) a [] 384 (fun _ _ _ => True) (fun g _ => predBlock g) ∧
    LoadsBlock (.loadgS d a t) a 4 1 (fun _ g ix => scLocked g ix d.toNat = false) (fun ix _ => .sreg ix d.toNat) ∧
    LoadsBlock (.loadgV d a v t) a 384 96 (LaneRegFree true (.v n)) (fun _ k => .lane n k 32 false) ∧
    LoadsBlock (.loadgO d a t) a 384 96 (LaneRegFree true (.o d.toNat)) (fun _ k => .lane (0x100 + d.toNat) k 32 false) ∧
    LoadsBlock (.loadgP a t) a 384 87 (fun _ _ _ => True) (fun _ k => .predWord k)

/-! ### Fences, barriers and TLB invalidation (R272 to R279, R377, R378) -/

namespace Sys2Proof.Machine

/-- A scalar instruction that waits as VSYNC waits and then enters the wait `b`: until the split's batches are done nothing
happens; then the split waits, at its own word. -/
def WaitsAs (i : Instr) (s : State) (g : Group) (ix : Nat) (sp : Split) (b : Block) : Prop :=
  (¬ BatchesDone s g ix sp → ∃ u, exec i s = .next u ∧ Held s u g) ∧
  (BatchesDone s g ix sp → ∃ u h q, exec i s = .next u ∧ u.group? g.gid = some h ∧ h.split? ix = some q ∧ q.pc = sp.pc ∧
    q.block = b ∧ q.vsyncSeq = s.fresh ∧ q.priv = sp.priv ∧ q.fmt = sp.fmt ∧ h.sregs = g.sregs ∧ h.vregs = g.vregs ∧
    h.preds = g.preds ∧ u.mem = s.mem ∧ u.stores = s.stores ∧ u.loads = s.loads)

/-- A split that waits goes on at the word after its own, and nothing else of its group changes. -/
def SplitGoesOn (s t : State) (gid ix : Nat) (sp : Split) : Prop :=
  ∃ g h, s.group? gid = some g ∧ t.group? gid = some h ∧
    h.split? ix = some { sp with block := .none, pc := sp.pc + 1 } ∧ (∀ j, j ≠ ix → h.split? j = g.split? j) ∧
    h.sregs = g.sregs ∧ h.vregs = g.vregs ∧ h.oregs = g.oregs ∧ h.preds = g.preds ∧ h.wc = g.wc ∧ h.status = g.status

end Sys2Proof.Machine

/-- R273, R277, R377, R378: FENCE in its kinds, BAR and TLBINV wait; FENCE_COMPLETE lets a fence go on when what it waits for
has come about, and a TLBINV when its entries are dropped and its accesses performed; a fence at .win first writes the staged stores of
its group, a line at a time; BAR_RELEASE lets every split that waits at the barrier go on when every counted group has arrived. -/
def Obligations.FencesBarriersAndTlbinv : Prop :=
  (∀ (s : State) (g : Group) (ix : Nat) (sp : Split) (a b : BitVec 7) (n : BitVec 8) (t : BitVec 2),
    (ScalarReady (.fence n t) {} s g ix sp → WaitsAs (.fence n t) s g ix sp (.fence n.toNat 0 s.fresh)) ∧
    (ScalarReady (.fenceLd n t) {} s g ix sp → WaitsAs (.fenceLd n t) s g ix sp (.fence n.toNat 1 s.fresh)) ∧
    (ScalarReady (.fenceSt n t) {} s g ix sp → WaitsAs (.fenceSt n t) s g ix sp (.fence n.toNat 2 s.fresh)) ∧
    (ScalarReady (.bar n t) {} s g ix sp → WaitsAs (.bar n t) s g ix sp (.bar n.toNat s.fresh)) ∧
    (ScalarReady (.tlbinvAll t) {} s g ix sp → WaitsAs (.tlbinvAll t) s g ix sp (.tlbinv 0 (2 ^ 36) s.fresh false)) ∧
    (ScalarReady (.tlbinv a b t) (uses [a.toNat, a.toNat + 1, b.toNat] []) s g ix sp →
      let addr := (pairAt g ix a.toNat).toNat
      let pages := (g.sval ix b.toNat).toNat
      addr % 2 ^ 16 = 0 → addr < 2 ^ 52 → 0 < pages → pages ≤ 2 ^ 20 → addr + 2 ^ 16 * pages ≤ 2 ^ 52 →
      WaitsAs (.tlbinv a b t) s g ix sp (.tlbinv (addr / 2 ^ 16) pages s.fresh false))) ∧
  (∀ (s : State) (gid ix : Nat) (g : Group) (sp : Split), s.group? gid = some g → g.split? ix = some sp →
    (∀ scope kind seq, sp.block = .fence scope kind seq → fenceReady s gid ix scope kind seq = true →
      (scope ≠ 6 ∨ kind = 1 ∨ s.stagedLines g.vd gid = [] → ∃ t, exec (.fenceComplete gid ix) s = .next t ∧ SplitGoesOn s t gid ix sp) ∧
      (scope = 6 → kind ≠ 1 → s.stagedLines g.vd gid ≠ [] → ∃ l ∈ s.stagedLines g.vd gid,
        exec (.fenceComplete gid ix) s = .next ({ s with free := s.free + 1 }.writeLine g.vd gid l))) ∧
    (∀ lo n seq, sp.block = .tlbinv lo n seq false → fenceReady s gid ix 4 0 seq = true →
      ∃ t h, exec (.fenceComplete gid ix) s = .next t ∧ t.group? gid = some h ∧ t.mem = s.mem ∧
        h.split? ix = some { sp with block := .tlbinv lo n s.fresh true } ∧
        (∀ c e, e ∈ (t.core c).tlb → e.vd = g.vd → e.gen = g.gen → e.page < lo ∨ lo + n ≤ e.page) ∧
        ∀ c e, e ∈ (t.core c).hosts → e.vd = g.vd → e.gen = g.gen → e.dev.1 + e.dev.2 ≤ lo ∨ lo + n ≤ e.dev.1) ∧
    (∀ lo n seq, sp.block = .tlbinv lo n seq true → accessesDone s g.vd g.gen lo n seq = true →
      ∃ t, exec (.fenceComplete gid ix) s = .next t ∧ SplitGoesOn s t gid ix sp ∧ t.mem = s.mem)) ∧
  (∀ (s : State) (tid b : Nat), barGroups s tid ≠ [] → ((barGroups s tid).map (·.gid)).Nodup →
    (∀ g ∈ barGroups s tid, s.group? g.gid = some g ∧ ∃ ix, ix < 9 ∧ barArrived s g b ix = true) →
    ∃ t, exec (.barRelease tid b) s = .next t ∧ t.mem = s.mem ∧
      ∀ g ∈ barGroups s tid, ∀ ix sp, ix < 9 → g.split? ix = some sp → barWaits g b ix = true →
        ∃ h, t.group? g.gid = some h ∧ h.split? ix = some { sp with block := .none, pc := sp.pc + 1 })

/-! ### Stores, loads and atomics are performed (R207 to R211, R268 to R271, R481) -/

/-- R207, R208, R268: a load element that nothing holds and whose line does not fail puts its bytes, as the group's own latest
earlier store or the ordering point gives them, into its destination, and memory keeps every byte. -/
def Sys2Proof.Machine.LoadCompleteWritesTheDestination : Prop :=
  ∀ (s : State) (id el : Nat) (o : LoadOp) (e : LoadEl) (g : Group),
    s.loads.find? (fun o => o.op == id) = some o → o.els.find? (fun p => p.1 == el) = some (el, e) →
    loadHeld s o (el, e) = false → earlierFree s o.gid o.ord = true → ownEarlierFree s o el = true →
    badLine s e.loc = none → (∀ c, (s.core c).poison = []) → s.group? o.gid = some g →
    ∃ t h, exec (.loadComplete id el) s = .next t ∧ t.mem = s.mem ∧ t.stores = s.stores ∧ t.group? o.gid = some h ∧
      (∀ ix r, e.dst = .sreg ix r → r < 64 → r < 48 ∨ (g.split? ix).map (·.born) = some o.ord.born → h.sval ix r =
        BitVec.ofNat 32 (leNat (s.loadBytes o.core o.vd o.gid o.ord.seq false e.loc e.len))) ∧
      (∀ spec lane, e.dst = .lane spec lane 32 false → lane < 96 → (h.vval spec).getD lane 0 =
        BitVec.ofNat 32 (leNat (s.loadBytes o.core o.vd o.gid o.ord.seq false e.loc e.len))) ∧
      (∀ spec lane, e.dst = .lane spec lane 32 false → ∀ k l, l < 96 → k ≠ spec ∨ l ≠ lane →
        (h.vval k).getD l 0 = (g.vval k).getD l 0) ∧
      (∀ o', o' ∈ t.loads → o'.op = id → ∀ p ∈ o'.els, p.1 ≠ el)

/-- R268, R269, R270: a plain store element at the head of its queue that may reach the ordering point stands behind every element
already there; from the ordering point its line's elements are written where they live; and the oldest store of a core's
port buffer is written to the scratchpad array. -/
def Sys2Proof.Machine.StoresReachMemoryInOrder : Prop :=
  (∀ (s : State) (id : Nat) (e : StoreEl), s.stores.find? (fun e => e.id == id) = some e → e.stage = .queued →
    e.isFe = false → e.isAtomic = false → e.rel = none → mayReach s e = true →
    ∃ t, exec (.storeAccept id) s = .next t ∧ t.mem = s.mem ∧
      t.stores = s.stores.filter (fun f => f.id != id) ++ [{ e with stage := .point }]) ∧
  (∀ (s : State) (id : Nat) (e : StoreEl) (a : Nat), s.memOk = true → s.stores.find? (fun e => e.id == id) = some e → e.stage = .point →
    e.loc = .host a → e.isAtomic = false → e.rel = none →
    s.stores.filter (fun f => f.op == e.op && f.stage == .point && f.loc.line == e.loc.line) = [e] →
    pointBehind s e = false →
    ∃ t, exec (.storeAccept id) s = .next t ∧ t.stores = s.stores.filter (fun f => f.id != id) ∧
      (∀ k, k < e.bytes.length → t.mem.read (e.loc.key + k) = e.bytes.getD k 0) ∧
      (∀ k, k < e.loc.key ∨ e.loc.key + e.bytes.length ≤ k → t.mem.read k = s.mem.read k)) ∧
  (∀ (s : State) (core : Nat) (e : StoreEl),
    s.memOk = true → s.stores.find? (fun e => e.core == core && e.stage == .point && e.loc.isSpad) = some e →
    ∃ t, exec (.spadArrayWrite core) s = .next t ∧ t.stores = s.stores.filter (fun f => f.id != e.id) ∧
      (∀ k, k < e.bytes.length → t.mem.read (e.loc.key + k) = e.bytes.getD k 0) ∧
      (∀ k, k < e.loc.key ∨ e.loc.key + e.bytes.length ≤ k → t.mem.read k = s.mem.read k))

namespace Sys2Proof.Machine

/-- The value that a 32-bit atomic leaves (R215): `old` in memory, operand `d`, compare value `c`. -/
def atomicResult (op : Nat) (signed : Bool) (c old d : Word) : Word :=
  match op with
  | 0 => old + d
  | 1 => old &&& d
  | 2 => old ||| d
  | 3 => old ^^^ d
  | 4 => if signed then (if d.slt old then d else old) else (if d.ult old then d else old)
  | 5 => if signed then (if old.slt d then d else old) else (if old.ult d then d else old)
  | 6 => d
  | _ => if old = c then d else old

end Sys2Proof.Machine

/-- R215, R216: an atomic on a 4-byte element whose turn has come replaces the element by the value its operation gives, and
returns the old value to the scalar register it names. -/
def Sys2Proof.Machine.AtomicPerformReplacesAndReturns : Prop :=
  ∀ (s : State) (id : Nat) (e : StoreEl) (core a op : Nat) (signed : Bool) (c old d : Word) (ret : Option Nat) (g : Group),
    s.memOk = true → s.stores.find? (fun e => e.id == id) = some e → e.loc = .spad core a → op < 8 →
    e.kind = .atomic op signed c.toNat (ret.map (0x340 + ·)) → e.bytes = natLe 4 d.toNat →
    mayReach s e = true → buffered s e = false → s.mem.readBytes e.loc.key 4 = natLe 4 old.toNat →
    (e.rel = some 6 → s.stagedLines e.vd e.gid = []) → s.group? e.gid = some g →
    (∀ r, ret = some r → r < 64 ∧ (r < 48 ∨ (g.split? e.ord.split).map (·.born) = some e.ord.born)) →
    ∃ t h, exec (.atomicPerform id) s = .next t ∧
      t.mem.readBytes e.loc.key 4 = natLe 4 (atomicResult op signed c old d).toNat ∧
      (∀ k, k < e.loc.key ∨ e.loc.key + 4 ≤ k → t.mem.read k = s.mem.read k) ∧
      t.group? e.gid = some h ∧ (∀ r, ret = some r → h.sval e.ord.split r = old) ∧
      (∀ n, n < 64 → some n ≠ ret → h.sval e.ord.split n = g.sval e.ord.split n)

/-- R210, R211: a waiting .fe or .fec load whose granule is full is served: its request is gone, and a .fec load leaves the
granule empty; a waiting .fe store whose granule is empty sets it full. -/
def Sys2Proof.Machine.FullEmptyAccessesAreServed : Prop :=
  (∀ (s : State) (id : Nat) (q : FeReq), s.feqs.find? (fun q => q.id == id) = some q → q.store = false →
    feLoadReady s q = true → s.feqs.filter (fun r => r.core == q.core && r.granule == q.granule) = [q] →
    ∃ t, exec (.feAccessServe id) s = .next t ∧ t.feqs = s.feqs.filter (fun r => r.id != id) ∧ t.mem = s.mem ∧
      (q.take = true → granuleEmpty t q.core q.granule = true) ∧ (q.take = false → granuleEmpty t q.core q.granule = false)) ∧
  (∀ (s : State) (id : Nat) (q : FeReq), s.feqs.find? (fun q => q.id == id) = some q → q.store = true →
    feStoreReady s q = true → (∀ e ∈ feEls s q, e.rel ≠ some 6) → s.feqs.filter (fun r => r.core == q.core && r.granule == q.granule) = [q] →
    ∃ t, exec (.feAccessServe id) s = .next t ∧ t.mem = s.mem ∧ granuleEmpty t q.core q.granule = false ∧
      ∀ e ∈ t.stores, e.op = q.op → e.stage = .queued → e.kind ≠ .fe q.granule)

namespace Sys2Proof.Machine

/-! ### The shapes of lane statements -/

/-- The immediate of a lane word widened as type `t` says (R67, R152). -/
def widened (t : Nat) (imm : BitVec 8) : DWord :=
  match t with
  | 0x10 | 0x11 | 0x12 | 0x13 | 0x14 | 0x33 => imm.signExtend 64
  | 0x42 | 0x43 | 0x52 => BitVec.ofNat 64 (enc (fmtOf t) (dec fmtE4m3 imm.toNat false) .rne false false).1
  | _ => imm.setWidth 64

/-- The type field of the word. -/
def LnIss.type (x : LnIss) : Nat := x.l.ty.toNat
/-- The ext field of the word. -/
def LnIss.ext (x : LnIss) : Nat := x.l.ext.toNat
/-- Is bit `n` of the ext field set. -/
def LnIss.extBit (x : LnIss) (n : Nat) : Bool := x.l.ext.getLsbD n
/-- The .sat bit of the mode field (R68). -/
def LnIss.sat (x : LnIss) : Bool := x.l.mode.getLsbD 3
/-- The rounding mode of the word: its own, or the format register's (R68). -/
def LnIss.round (x : LnIss) : Rnd := rndMode x.b.fmt x.l.mode.toNat

/-- Lane `n` of a 32-bit operand whose immediate is widened as type `t`. -/
def LnIss.word (x : LnIss) (t : Nat) (spec : BitVec 10) (n : Nat) : Word :=
  operand x.g x.b (widened t x.l.imm) spec.toNat 0 n

/-- Lane `n` of an operand of type `t`: a register pair for a 64-bit type (R110), one register otherwise. -/
def LnIss.val (x : LnIss) (t : Nat) (spec : BitVec 10) (n : Nat) : DWord :=
  if t % 16 = 4 then operand x.g x.b (widened t x.l.imm) spec.toNat 1 n ++ x.word t spec n
  else (x.word t spec n).setWidth 64

/-- Lane `n` of the predicate that a field names. -/
def LnIss.pred (x : LnIss) (spec : BitVec 10) (n : Nat) : Bool := laneBit (x.g.preds.getD spec.toNat 0) n

/-- A result for the destination: one register, two for a 64-bit result, none for the discard specifier (R65). -/
def LnIss.dstOf (x : LnIss) (wide : Bool) (f : Nat → DWord) : List (Nat × (Nat → Word)) :=
  if x.l.dst = 0x3FE then []
  else if wide then [(x.l.dst.toNat, fun n => (f n).extractLsb' 0 32), (x.l.dst.toNat + 1, fun n => (f n).extractLsb' 32 32)]
  else [(x.l.dst.toNat, fun n => (f n).extractLsb' 0 32)]

/-- A 32-bit result for the destination. -/
def LnIss.dst32 (x : LnIss) (f : Nat → Word) : List (Nat × (Nat → Word)) := x.dstOf false fun n => (f n).setWidth 64

/-- Lane instruction `mk`, of opcode `op`, leaves `e` with latency `lat` slots, whenever it issues normally. -/
def LaneResult (mk : LaneF → Instr) (op lat : Nat) (e : LnIss → LaneEffect) : Prop :=
  ∀ (s : State) (g : Group) (b : Batch) (l : LaneF), LaneReady (mk l) op l s g b →
    LaneRuns (mk l) op lat l s g b (e (laneIssOf op l s g b))

/-- The element width in bits of a type (R69). -/
def width (t : Nat) : Nat := 4 * 2 ^ (t % 16)

/-- A value read as an integer type says: SInt or ZInt of its low bits (R110). -/
def asInt (t : Nat) (a : DWord) : Int :=
  if t / 16 = 1 then (a.setWidth (width t)).toInt else ((a.setWidth (width t)).toNat : Int)

/-- An exact result written as an integer type says: clamped under .sat, else wrapped, and extended (R110). -/
def fromInt (t : Nat) (sat : Bool) (z : Int) : DWord :=
  let w := width t
  let lo : Int := if t / 16 = 1 then -2 ^ (w - 1) else 0
  let hi : Int := if t / 16 = 1 then 2 ^ (w - 1) - 1 else 2 ^ w - 1
  let y := if sat then max lo (min hi z) else z
  if t / 16 = 1 then (BitVec.ofInt w y).signExtend 64 else (BitVec.ofInt w y).setWidth 64

/-- Integer arithmetic of src a, b and c, exact and then written as the type says. -/
def intLane (f : Int → Int → Int → Int) (x : LnIss) : LaneEffect :=
  { dst := x.dstOf (x.type % 16 = 4) fun n =>
      fromInt x.type x.sat (f (asInt x.type (x.val x.type x.l.a n)) (asInt x.type (x.val x.type x.l.b n))
        (asInt x.type (x.val x.type x.l.c n))) }

/-- Sum or difference with carry: the 32-bit result and the carry or borrow out (R114). -/
def carryLane (x : LnIss) : LaneEffect :=
  let cin n : Nat := if x.extBit 1 then 0 else if x.pred x.l.c n then 1 else 0
  let a n := (x.word 0x23 x.l.a n).toNat
  let b n := (x.word 0x23 x.l.b n).toNat
  { dst := x.dst32 fun n => if x.extBit 0 then BitVec.ofInt 32 ((a n : Int) - b n - cin n) else BitVec.ofNat 32 (a n + b n + cin n),
    pred := some (x.l.c.toNat, fun n => if x.extBit 0 then decide (a n < b n + cin n) else decide (2 ^ 32 ≤ a n + b n + cin n)) }

end Sys2Proof.Machine

/-- The integer lane instructions compute exactly in every active lane and write as their type says (R110, R113, R114). -/
def Sys2Proof.Machine.LaneIntegerResults : Prop :=
  LaneResult .vadd 0x001 1 (intLane fun a b _ => a + b) ∧
  LaneResult .vsub 0x002 1 (intLane fun a b _ => a - b) ∧
  LaneResult .vaddc 0x003 1 carryLane ∧
  LaneResult .vmul 0x004 2 (intLane fun a b _ => a * b) ∧
  LaneResult .vmulh 0x005 2 (intLane fun a b _ => (a * b) >>> 32) ∧
  LaneResult .vmad 0x006 2 (intLane fun a b c => a * b + c) ∧
  LaneResult .vmin 0x007 1 (intLane fun a b _ => min a b) ∧
  LaneResult .vmax 0x008 1 (intLane fun a b _ => max a b) ∧
  LaneResult .vabs 0x009 1 (intLane fun a _ _ => (a.natAbs : Int)) ∧
  LaneResult .vneg 0x00A 1 (intLane fun a _ _ => -a)

namespace Sys2Proof.Machine

/-- A 32-bit result of src a and b. -/
def bitsLane (f : LnIss → Word → Word → Word) (x : LnIss) : LaneEffect :=
  { dst := x.dst32 fun n => f x (x.word x.type x.l.a n) (x.word x.type x.l.b n) }

/-- B, complemented where ext bit 0 says so (R115). -/
def maybeNot (x : LnIss) (b : Word) : Word := if x.extBit 0 then ~~~b else b

/-- A shift of src a in its type's width; the count is B[5:0], or B[6:0] for a 64-bit type (R115). -/
def shiftLane (f32 : Word → Nat → Word) (f64 : DWord → Nat → DWord) (x : LnIss) : LaneEffect :=
  let wide := x.type % 16 = 4
  { dst := x.dstOf wide fun n =>
      let count := (x.word x.type x.l.b n).toNat
      if wide then f64 (x.val x.type x.l.a n) (count % 128) else (f32 (x.word x.type x.l.a n) (count % 64)).setWidth 64 }

/-- Position and length of a bit field: in ext when its bit 15 is set, else in B (R116). -/
def fieldOf (x : LnIss) (b : Word) : Nat × Nat :=
  if x.extBit 15 then ((x.l.ext.extractLsb' 0 5).toNat, (x.l.ext.extractLsb' 5 6).toNat)
  else ((b.extractLsb' 0 5).toNat, min (b.extractLsb' 8 6).toNat 32)

/-- The field of A, extended as the type says (R116). -/
def extractField (x : LnIss) (a b : Word) : Word :=
  let (pos, len) := fieldOf x b
  if x.type / 16 = 1 then ((a.signExtend 64).extractLsb' pos len).signExtend 32
  else ((a.setWidth 64).extractLsb' pos len).setWidth 32

/-- The destination with the field replaced by the low bits of A, bit by bit (R117). -/
def insertField (x : LnIss) (a b d : Word) : Word :=
  let (pos, len) := fieldOf x b
  let m : Word := ((1#64 <<< len) - 1#64).setWidth 32 <<< pos
  (d &&& ~~~m) ||| ((a <<< pos) &&& m)

/-- One byte of VPERM: the selected byte of the eight of B and A, or one nibble of it, extended under .sx (R118). -/
def permuted (x : LnIss) (a b c : Word) (i : Nat) : BitVec 8 :=
  let sel := c.extractLsb' (4 * i) 4
  let y := (a ++ b).extractLsb' (8 * sel.toNat) 8
  let form := x.ext % 4
  let nib : BitVec 4 := if form = 2 then y.extractLsb' 4 4 else y.extractLsb' 0 4
  if 8 ≤ sel.toNat then 0
  else if form = 0 then y
  else if x.extBit 2 then nib.signExtend 8 else nib.setWidth 8

end Sys2Proof.Machine

/-- The logic, shift and counting instructions act on the bits of every active lane (R115). -/
def Sys2Proof.Machine.LaneLogicAndShiftResults : Prop :=
  LaneResult .vand 0x00B 1 (bitsLane fun x a b => a &&& maybeNot x b) ∧
  LaneResult .vor 0x00C 1 (bitsLane fun x a b => a ||| maybeNot x b) ∧
  LaneResult .vxor 0x00D 1 (bitsLane fun x a b => a ^^^ maybeNot x b) ∧
  LaneResult .vnot 0x00E 1 (bitsLane fun _ a _ => ~~~a) ∧
  LaneResult .vshl 0x00F 1 (shiftLane (· <<< ·) (· <<< ·)) ∧
  LaneResult .vshr 0x010 1 (shiftLane (· >>> ·) (· >>> ·)) ∧
  LaneResult .vsar 0x011 1 (shiftLane BitVec.sshiftRight BitVec.sshiftRight) ∧
  LaneResult .vclz 0x012 1 (bitsLane fun _ a _ => a.clz) ∧
  LaneResult .vpopc 0x013 1 (bitsLane fun _ a _ => a.cpop) ∧
  LaneResult .vbrev 0x014 1 (bitsLane fun _ a _ => a.reverse)

/-- The field, byte, select and move instructions (R116 to R119). -/
def Sys2Proof.Machine.LaneFieldAndMoveResults : Prop :=
  LaneResult .vbfe 0x015 1 (bitsLane extractField) ∧
  LaneResult .vbfi 0x016 1 (fun x => { dst := x.dst32 (fun n =>
    insertField x (x.word x.type x.l.a n) (x.word x.type x.l.b n) (x.g.lane x.l.dst.toNat n)) }) ∧
  LaneResult .vperm 0x017 1 (fun x => { dst := x.dst32 (fun n =>
    let p := permuted x (x.word x.type x.l.a n) (x.word x.type x.l.b n) (x.word x.type x.l.c n)
    p 3 ++ p 2 ++ p 1 ++ p 0) }) ∧
  LaneResult .vsel 0x018 1 (fun x => { dst := x.dstOf (x.type % 16 = 4) (fun n =>
    if x.pred x.l.c n then x.val x.type x.l.a n else x.val x.type x.l.b n) }) ∧
  LaneResult .vmov 0x019 1 (fun x => { dst := x.dstOf (x.type % 16 = 4) fun n => x.val x.type x.l.a n })

namespace Sys2Proof.Machine

/-- A relation of VCMP (R120). -/
def related (rel : Nat) (a b : Int) : Bool :=
  match rel with
  | 0 => a = b
  | 1 => a ≠ b
  | 2 => a < b
  | 3 => a ≤ b
  | 4 => b < a
  | _ => b ≤ a

/-- What a compare leaves in its predicate: the relation, ANDed or ORed with what was there (R120). -/
def combined (form : Nat) (old new : Bool) : Bool :=
  match form with
  | 0 => new
  | 1 => old && new
  | _ => old || new

/-- A predicate instruction on pA and pB, NOT pB under ext bit 0 (R121). -/
def predLane (f : Bool → Bool → Bool) (x : LnIss) : LaneEffect :=
  { pred := some (x.l.dst.toNat, fun n => f (x.pred x.l.a n) (x.extBit 0 != x.pred x.l.b n)) }

/-- A word of a scalar or constant operand: register `k` from the one that the field names. -/
def LnIss.scalar (x : LnIss) (spec : BitVec 10) (k : Nat) : Word := operand x.g x.b 0 spec.toNat k 0

end Sys2Proof.Machine

/-- Compares and predicate instructions write one predicate in the active lanes and no other register (R120, R121). -/
def Sys2Proof.Machine.PredicateResults : Prop :=
  LaneResult .vcmp 0x01A 1 (fun x => { pred := some (x.l.dst.toNat, fun n =>
    combined (x.ext / 8 % 4) (x.pred x.l.dst n)
      (related (x.ext % 8) (asInt x.type (x.val x.type x.l.a n)) (asInt x.type (x.val x.type x.l.b n)))) }) ∧
  LaneResult .pand 0x040 1 (predLane fun a b => a && b) ∧
  LaneResult .por 0x041 1 (predLane fun a b => a || b) ∧
  LaneResult .pxor 0x042 1 (predLane fun a b => a != b) ∧
  LaneResult .pnot 0x043 1 (predLane fun a _ => !a) ∧
  LaneResult .pmov 0x044 1 (predLane fun a _ => a) ∧
  LaneResult .pset 0x045 1 (fun x => { pred := some (x.l.dst.toNat, fun _ => x.l.imm.getLsbD 0) }) ∧
  LaneResult .psetMask 0x045 1 (fun x => { pred := some (x.l.dst.toNat, fun n =>
    (x.scalar x.l.a 2 ++ x.scalar x.l.a 1 ++ x.scalar x.l.a 0).getLsbD n) })

namespace Sys2Proof.Machine

/-- The active lanes, ascending. -/
def LnIss.actives (x : LnIss) : List Nat := (List.range 96).filter fun n => laneActive x.g x.b x.l n

/-- A result for a scalar destination, or for a lane destination in every lane (R125, R129). -/
def LnIss.scalarOr (x : LnIss) (y : Word) : LaneEffect :=
  if 0x340 ≤ x.l.dst.toNat ∧ x.l.dst.toNat < 0x380 then { scal := [(x.l.dst.toNat - 0x340, y)] }
  else { dst := x.dst32 fun _ => y }

/-- The lane that VSHFL computes for lane `n` (R124). -/
def shuffleTo (x : LnIss) (n : Nat) : Int :=
  let b := (x.word 0x33 x.l.b n).toNat
  match x.ext % 4 with
  | 0 => (b : Int)
  | 1 => (n : Int) - b
  | 2 => (n : Int) + b
  | _ => ((n ^^^ b : Nat) : Int)

/-- The lane from which VSHFL takes lane `n`: itself where the computed one lies outside the group (R124). -/
def shuffled (x : LnIss) (n : Nat) : Nat :=
  if 0 ≤ shuffleTo x n ∧ shuffleTo x n < 96 then (shuffleTo x n).toNat else n

/-- The lanes of the votes: active, with the predicate set (R129). -/
def LnIss.votes (x : LnIss) : List Nat := x.actives.filter fun n => x.pred x.l.a n

/-- The mask of some lanes. -/
def laneSet (l : List Nat) : LaneMask := l.foldl (fun m n => m ||| BitVec.twoPow 96 n) 0

/-- A key of VCMPX as a number in the order of its type (R130): totalOrder for .f32. -/
def keyAs (t : Nat) (a : Word) : Int :=
  if t = 0x43 then (if a.getLsbD 31 then -1 - ((a.setWidth 31).toNat : Int) else (a.toNat : Int)) else asInt t (a.setWidth 64)

/-- Do lane `n` and its partner exchange key and payload: both active, and their keys out of the order that bit k of the
lower lane's number asks for (R130). -/
def exchanges (x : LnIss) (n : Nat) : Bool :=
  let j := x.l.imm.toNat
  let k := x.ext % 256
  let p := n ^^^ j
  let key m := keyAs x.type (x.g.lane x.l.dst.toNat m)
  decide (p < 96) && laneActive x.g x.b x.l n && laneActive x.g x.b x.l p &&
    (if min n p &&& k = 0 then decide (key (max n p) < key (min n p)) else decide (key (min n p) < key (max n p)))

end Sys2Proof.Machine

/-- The cross-lane instructions that move values: lane numbers, shuffles, broadcasts, votes and bitonic stages (R123 to R125,
R129, R130). -/
def Sys2Proof.Machine.CrossLaneResults : Prop :=
  LaneResult .vlaneid 0x066 1 (fun x => { dst := x.dst32 fun n => BitVec.ofNat 32 n }) ∧
  LaneResult .vshfl 0x060 3 (fun x => { dst := x.dst32 fun n => x.word 0x33 x.l.a (shuffled x n) }) ∧
  LaneResult .vbcast 0x061 3 (fun x =>
    if x.extBit 0 then (match x.actives with
      | [] => {}
      | n :: _ => x.scalarOr (x.word 0x33 x.l.a n))
    else
      let n := (x.word 0x33 x.l.b 0).toNat
      x.scalarOr (if n < 96 then x.word 0x33 x.l.a n else 0)) ∧
  LaneResult .vvote 0x064 2 (fun x =>
    match x.ext % 4 with
    | 0 => x.scalarOr (truth (x.votes ≠ []))
    | 1 => x.scalarOr (truth (x.votes = x.actives))
    | 2 =>
      let m := laneSet x.votes
      let d := x.l.dst.toNat - 0x340
      { scal := [(d, m.extractLsb' 0 32), (d + 1, m.extractLsb' 32 32), (d + 2, m.extractLsb' 64 32)] }
    | _ => x.scalarOr (BitVec.ofNat 32 x.votes.length)) ∧
  LaneResult .vcmpx 0x065 3 (fun x =>
    let j := x.l.imm.toNat
    let moved (spec : Nat) (n : Nat) : Word := x.g.lane spec (if exchanges x n then n ^^^ j else n)
    { dst := [(x.l.dst.toNat, moved x.l.dst.toNat), (x.l.a.toNat, moved x.l.a.toNat)] })

namespace Sys2Proof.Machine

/-- One step of a reduction over integers (R126). -/
def intStep (op : Nat) (a b : Int) : Int :=
  match op with
  | 0 => a + b
  | 1 => ((BitVec.ofInt 32 a &&& BitVec.ofInt 32 b).toNat : Int)
  | 2 => ((BitVec.ofInt 32 a ||| BitVec.ofInt 32 b).toNat : Int)
  | 3 => ((BitVec.ofInt 32 a ^^^ BitVec.ofInt 32 b).toNat : Int)
  | 4 => min a b
  | _ => max a b

/-- One step of a reduction over .f32 codes, with its flags: fadd, fmin, fmax (R126). -/
def floatStep (x : LnIss) (op a b : Nat) : Nat × Flags :=
  let fi := x.b.fmt.getLsbD 2
  if op = 6 then fAdd fmtF32 a b x.round false fi (x.b.fmt.getLsbD 3) else fMinMax fmtF32 a b fi (op == 8)

/-- The fold of the values of some lanes, ascending: the code of the result, none of no lanes, and the flags (R127). -/
def reduced (x : LnIss) (op : Nat) (l : List Nat) : Option DWord × Flags :=
  let v n := x.val x.type x.l.a n
  match l with
  | [] => (none, 0)
  | n :: rest =>
    if op < 6 then (some (fromInt x.type x.sat ((rest.map fun m => asInt x.type (v m)).foldl (intStep op) (asInt x.type (v n)))), 0)
    else
      let r := rest.foldl (fun p m => let q := floatStep x op p.1 (v m).toNat; (q.1, p.2 ||| q.2)) ((v n).toNat, (0 : Flags))
      (some (BitVec.ofNat 64 r.1), r.2)

/-- What a reduction over no lane leaves (R126). -/
def identityOf (op t : Nat) : DWord :=
  match op with
  | 1 => 0xFFFFFFFF
  | 4 => if t = 0x13 then 0x7FFFFFFF else if t = 0x23 then 0xFFFFFFFF else if t = 0x14 then 0x7FFFFFFFFFFFFFFF
    else 0xFFFFFFFFFFFFFFFF
  | 5 => if t = 0x13 then 0x80000000 else if t = 0x14 then 0x8000000000000000 else 0
  | 6 => 0x80000000
  | 7 => 0x7F800000
  | 8 => 0xFF800000
  | _ => 0

end Sys2Proof.Machine

/-- Reductions and scans fold the active lanes in ascending order; over no lane they leave the identity and set the empty
bit (R126 to R128). -/
def Sys2Proof.Machine.ReductionAndScanResults : Prop :=
  LaneResult .vred 0x062 4 (fun x =>
    let op := x.ext % 16
    let r := reduced x op x.actives
    let y := r.1.getD (identityOf op x.type)
    let d := x.l.dst.toNat - 0x340
    { scal := (d, y.extractLsb' 0 32) :: (if x.type % 16 = 4 then [(d + 1, y.extractLsb' 32 32)] else []),
      raised := fun _ => r.2, empty := x.actives = [] }) ∧
  LaneResult .vscan 0x063 4 (fun x =>
    let op := x.ext % 16
    { dst := x.dstOf (x.type % 16 = 4) fun n =>
        (reduced x op (x.actives.filter fun m => if x.extBit 4 then m < n else m ≤ n)).1.getD (identityOf op x.type),
      raised := fun _ => (reduced x op x.actives).2, empty := x.actives = [] })

namespace Sys2Proof.Machine

/-! ### Floating-point lanes -/

/-- FTZI and FTZO of the batch's format register (R51). -/
def LnIss.ftzi (x : LnIss) : Bool := x.b.fmt.getLsbD 2
def LnIss.ftzo (x : LnIss) : Bool := x.b.fmt.getLsbD 3

/-- The code of type `t` in lane `n` of an operand: the low bits that the type reads (R151). -/
def LnIss.code (x : LnIss) (t : Nat) (spec : BitVec 10) (n : Nat) : Nat := (x.word t spec n).toNat % 2 ^ (fmtOf t).width

/-- A 32-bit result with the flags that it raises, lane by lane (R154). -/
def flagLane (f : LnIss → Nat → Nat × Flags) (x : LnIss) : LaneEffect :=
  { dst := x.dst32 fun n => BitVec.ofNat 32 (f x n).1, raised := fun n => (f x n).2 }

/-- NV for a signalling NaN among some codes. -/
def signals (F : Fmt) (l : List Nat) : Flags := if l.any fun c => F.isSnan c then flNV else 0

/-- The result `v` of an instruction on the codes `l` of format `F`, rounded once; NV for a signalling NaN, and for an invalid
case (R156). -/
def rounded (x : LnIss) (F : Fmt) (l : List Nat) (invalid : Bool) (v : XVal) : Nat × Flags :=
  let e := enc F v x.round x.sat x.ftzo
  (e.1, e.2 ||| (if invalid then flNV else 0) ||| signals F l)

/-- The exact value of a code (R141). -/
def LnIss.dec (x : LnIss) (c : Nat) : XVal := Machine.dec (fmtOf x.type) c x.ftzi

/-- A sum, difference or product of two lanes (R156): invalid where it is a NaN and no operand is one. -/
def arith2 (f : XVal → XVal → Rnd → XVal) (x : LnIss) (n : Nat) : Nat × Flags :=
  let a := x.code x.type x.l.a n
  let b := x.code x.type x.l.b n
  let v := f (x.dec a) (x.dec b) x.round
  rounded x (fmtOf x.type) [a, b] (v.isNan && !(x.dec a).isNan && !(x.dec b).isNan) v

/-- The product and sum of three lanes, rounded once (R156): 0 · ∞ is invalid, and so is ∞ − ∞. -/
def mulAdd (x : LnIss) (n : Nat) : Nat × Flags :=
  let a := x.code x.type x.l.a n
  let b := x.code x.type x.l.b n
  let c := x.code x.type x.l.c n
  let p := xMul (x.dec a) (x.dec b)
  let v := xAdd p (x.dec c) x.round
  rounded x (fmtOf x.type) [a, b, c] ((p.isNan && !(x.dec a).isNan && !(x.dec b).isNan) || (v.isNan && !p.isNan && !(x.dec c).isNan)) v

/-- The smaller or the larger of two lanes (R157). -/
def extreme (largest : Bool) (x : LnIss) (n : Nat) : Nat × Flags :=
  let F := fmtOf x.type
  let flush c := if x.ftzi ∧ F.mag c < 2 ^ F.fb then F.sign (F.neg c) 0 else c
  let a := x.code x.type x.l.a n
  let b := x.code x.type x.l.b n
  let less := decide (xCmp (x.dec a) (x.dec b) < 0) || (decide (xCmp (x.dec a) (x.dec b) = 0) && F.neg a && !F.neg b)
  (if (x.dec a).isNan && (x.dec b).isNan then F.qnan else if (x.dec a).isNan then flush b else if (x.dec b).isNan then flush a
   else if less = largest then flush b else flush a, signals F [a, b])

/-- A bit operation on the code of src a (R158). -/
def codeLane (f : (w : Nat) → BitVec w → BitVec w) (x : LnIss) : LaneEffect :=
  { dst := x.dst32 fun n => (f (fmtOf x.type).width ((x.word x.type x.l.a n).setWidth _)).setWidth 32 }

/-- A floating-point relation of two lanes, and whether a quiet NaN raises NV for it (R159). -/
def floatRelation (rel : Nat) (a b : XVal) : Bool × Bool :=
  let un := a.isNan || b.isNan
  match rel with
  | 0 => (!un && decide (xCmp a b = 0), false)
  | 1 => (un || decide (xCmp a b ≠ 0), false)
  | 2 => (!un && decide (xCmp a b < 0), true)
  | 3 => (!un && decide (xCmp a b ≤ 0), true)
  | 4 => (!un && decide (0 < xCmp a b), true)
  | 5 => (!un && decide (0 ≤ xCmp a b), true)
  | 6 => (un, false)
  | _ => (!un, false)

/-- VFCMP of lane `n`: the relation and the flags. -/
def floatCompare (x : LnIss) (n : Nat) : Bool × Flags :=
  let a := x.code x.type x.l.a n
  let b := x.code x.type x.l.b n
  let r := floatRelation (x.ext % 8) (x.dec a) (x.dec b)
  (r.1, if r.2 ∧ ((x.dec a).isNan ∨ (x.dec b).isNan) then flNV else signals (fmtOf x.type) [a, b])

/-- The class mask of a code (R160). -/
def classMask (F : Fmt) (c : Nat) : Word :=
  let neg := F.neg c
  BitVec.twoPow 32 (if F.isNan c then (if F.isSnan c then 8 else 9)
    else if F.ieee ∧ F.mag c = F.infMag then (if neg then 0 else 7)
    else if F.mag c = 0 then (if neg then 3 else 4)
    else if F.mag c < 2 ^ F.fb then (if neg then 2 else 5)
    else if neg then 1 else 6)

/-- VFRND of lane `n` (R161). -/
def integral (x : LnIss) (n : Nat) : Nat × Flags :=
  let F := fmtOf x.type
  let a := x.code x.type x.l.a n
  match x.dec a with
  | .nan => (F.qnan, signals F [a])
  | .inf neg => (F.sign neg F.infMag, 0)
  | .fin neg k e _ =>
    let r := roundI neg k e x.round
    ((enc F (.fin neg r.1.natAbs 0 false) x.round false false).1, if x.extBit 0 ∧ r.2 then flNX else 0)

/-- A special function of lane `n`: its exact value, or its special case, encoded once (R162). -/
def special (f : Special) (x : LnIss) (n : Nat) : Nat × Flags :=
  let a := (x.word x.type x.l.a n).toNat
  let r := specialOf f (dec fmtF32 a x.ftzi)
  let e := enc fmtF32 r.1 x.round false x.ftzo
  (e.1, e.2 ||| r.2 ||| signals fmtF32 [a])

end Sys2Proof.Machine

/-- The floating-point arithmetic instructions compute exactly on the decoded operands and round once (R156 to R158). -/
def Obligations.LaneFloatArithmeticResults : Prop :=
  LaneResult .vfadd 0x080 3 (flagLane (arith2 xAdd)) ∧
  LaneResult .vfsub 0x081 3 (flagLane (arith2 fun a b m => xAdd a (xNeg b) m)) ∧
  LaneResult .vfmul 0x082 3 (flagLane (arith2 fun a b _ => xMul a b)) ∧
  LaneResult .vfma 0x083 3 (flagLane mulAdd) ∧
  LaneResult .vfmin 0x084 2 (flagLane (extreme false)) ∧
  LaneResult .vfmax 0x085 2 (flagLane (extreme true)) ∧
  LaneResult .vfabs 0x086 2 (codeLane fun w a => a &&& ~~~BitVec.twoPow w (w - 1)) ∧
  LaneResult .vfneg 0x087 2 (codeLane fun w a => a ^^^ BitVec.twoPow w (w - 1))

/-- Compare, classify, integral rounding and the special functions (R159 to R162). -/
def Sys2Proof.Machine.LaneFloatFunctionResults : Prop :=
  LaneResult .vfcmp 0x088 2 (fun x =>
    { pred := some (x.l.dst.toNat, fun n => combined (x.ext / 8 % 4) (x.pred x.l.dst n) (floatCompare x n).1),
      raised := fun n => (floatCompare x n).2 }) ∧
  LaneResult .vfclass 0x089 2 (fun x => { dst := x.dst32 fun n => classMask (fmtOf x.type) (x.code x.type x.l.a n) }) ∧
  LaneResult .vrcp 0x08A 6 (flagLane (special .rcp)) ∧
  LaneResult .vrsq 0x08B 6 (flagLane (special .rsq)) ∧
  LaneResult .vsqrt 0x08C 6 (flagLane (special .sqrt)) ∧
  LaneResult .vexp2 0x08D 6 (flagLane (special .exp2)) ∧
  LaneResult .vlog2 0x08E 6 (flagLane (special .log2)) ∧
  LaneResult .vfrnd 0x08F 2 (flagLane integral)

namespace Sys2Proof.Machine

/-- The source type of a conversion: ext bits 7:0 (R163). -/
def LnIss.source (x : LnIss) : Nat := x.ext % 256

/-- A conversion of the value `a` from type `st` to type `dt`: Enc, FToI, or an integer wrapped or clamped (R163, R164). -/
def converted (x : LnIss) (st : Nat) (a : DWord) : Nat × Flags :=
  let dt := x.type
  let F := fmtOf st
  let c := a.toNat % 2 ^ F.width
  if isFloatTy st then
    if isFloatTy dt then
      let e := enc (fmtOf dt) (dec F c x.ftzi) x.round x.sat x.ftzo
      (e.1, e.2 ||| signals F [c])
    else fToI (dec F c x.ftzi) x.round (width dt) (dt / 16 == 1)
  else if isFloatTy dt then enc (fmtOf dt) (xInt (asInt st a)) x.round x.sat x.ftzo
  else ((fromInt dt x.sat (asInt st a)).toNat % 2 ^ width dt, 0)

/-- A converted value as its register holds it: a narrow signed integer is sign-extended (R110). -/
def inRegister (x : LnIss) (c : Nat) : DWord :=
  if x.type / 16 = 1 ∧ width x.type < 32 then ((BitVec.ofNat (width x.type) c).signExtend 32).setWidth 64 else BitVec.ofNat 64 c

/-- A word with its element `n` of width `w` replaced (R133, R164). -/
def withElement (d : Word) (w n c : Nat) : Word :=
  let m : Word := ((1#64 <<< w) - 1#64).setWidth 32 <<< (w * n)
  (d &&& ~~~m) ||| ((BitVec.ofNat 32 c <<< (w * n)) &&& m)

/-- Element `n` of a word as an exact .f32 code (R165). -/
def unpacked (x : LnIss) (st k : Nat) (a : Word) : Nat × Flags :=
  let c := (a >>> (width st * k)).toNat % 2 ^ width st
  if isFloatTy st then ((enc fmtF32 (dec (fmtOf st) c x.ftzi) .rne false false).1, signals (fmtOf st) [c])
  else ((enc fmtF32 (xInt (asInt st (BitVec.ofNat 64 c))) .rne false false).1, 0)

/-- Scale and special byte of the side pair that ext bit 3 selects (R167). -/
def sideOf (x : LnIss) (b : Word) : Nat × Nat :=
  let p : BitVec 16 := if x.extBit 3 then b.extractLsb' 16 16 else b.extractLsb' 0 16
  ((p.extractLsb' 0 8).toNat, (p.extractLsb' 8 8).toNat)

/-- Is SMODE of the format register 0b00: code 8 is the block's special value (R51). -/
def LnIss.special (x : LnIss) : Bool := x.b.fmt.extractLsb' 20 2 == 0#2

end Sys2Proof.Machine

/-- Conversions, packing, unpacking and the block format (R163 to R168). -/
def Sys2Proof.Machine.LaneConversionResults : Prop :=
  LaneResult .vcvt 0x090 2 (fun x =>
    { dst := x.dstOf (x.type % 16 = 4) (fun n => inRegister x (converted x x.source (x.val x.source x.l.a n)).1),
      raised := fun n => (converted x x.source (x.val x.source x.l.a n)).2 }) ∧
  LaneResult .vpack 0x091 2 (fun x =>
    { dst := x.dst32 (fun n =>
        withElement (x.g.lane x.l.dst.toNat n) (width x.type) (x.ext / 256 % 8) (converted x x.source (x.val x.source x.l.a n)).1),
      raised := fun n => (converted x x.source (x.val x.source x.l.a n)).2 }) ∧
  LaneResult .vunpk 0x092 2 (flagLane fun x n => unpacked x x.source (x.ext / 256 % 8) (x.word x.source x.l.a n)) ∧
  LaneResult .vbxdec 0x093 3 (flagLane fun x n =>
    let p := sideOf x (x.word x.type x.l.b n)
    enc fmtF32 (blockVal ((x.word x.type x.l.a n).extractLsb' (4 * (x.ext % 8)) 4).toNat p.1 p.2 x.special) x.round x.sat x.ftzo) ∧
  LaneResult .vbxenc 0x094 3 (fun x =>
    let r n := let p := sideOf x (x.word x.type x.l.b n); bxEncode (x.word x.type x.l.a n).toNat p.1 p.2 x.special x.round x.ftzi
    { dst := x.dst32 (fun n => withElement (x.g.lane x.l.dst.toNat n) 4 (x.ext % 8) (r n).1), raised := fun n => (r n).2 })

namespace Sys2Proof.Machine

/-- What has been done to the sticky flags in the slot of an issue: nothing yet, with the flags that have arrived by then, or what
the group's record of this slot says (R154). -/
def LnIss.turn (x : LnIss) (g : Group) : FlagTurn :=
  match g.fturn with
  | some u => if u.slot = x.slot then u else { slot := x.slot, before := x.g.flags, wrote := 0, ored := [] }
  | none => { slot := x.slot, before := x.g.flags, wrote := 0, ored := [] }

/-- The flags that a clear by `imm` leaves in lane `n`: a write of the slot comes after it, and so do the flags that the slot ORs
in (R154). -/
def clearedFlag (x : LnIss) (u : FlagTurn) (n : Nat) : Flags :=
  if u.wrote.getLsbD n then x.g.flag n else (x.g.flag n &&& ~~~(x.l.imm.setWidth 5)) ||| u.ored.getD n 0

/-- A VFLAGS leaves `e`, which depends on what its slot has done to the flags before it. -/
def FlagsResult (mk : LaneF → Instr) (e : LnIss → FlagTurn → LaneEffect) : Prop :=
  ∀ (s : State) (g : Group) (b : Batch) (l : LaneF), LaneReady (mk l) 0x095 l s g b →
    LaneRuns (mk l) 0x095 2 l s g b (e (laneIssOf 0x095 l s g b) ((laneIssOf 0x095 l s g b).turn g))

end Sys2Proof.Machine

/-- R154, R169: VFLAGS reads the sticky flags of the active lanes as they were before its slot, and clears or writes them, a clear
before a write and both before the flags that the slot ORs in; a hint has no effect (R77). -/
def Obligations.StickyFlagsAndHints : Prop :=
  FlagsResult .vflagsRd (fun x u => { dst := x.dst32 fun n => (u.before.getD n 0).setWidth 32 }) ∧
  FlagsResult .vflagsClr (fun x u => { written := some (clearedFlag x u) }) ∧
  FlagsResult .vflagsRdclr (fun x u =>
    { dst := x.dst32 fun n => (u.before.getD n 0).setWidth 32, written := some (clearedFlag x u) }) ∧
  FlagsResult .vflagsWr (fun x u => { written := some fun n => (x.word 0x33 x.l.a n).setWidth 5 ||| u.ored.getD n 0 }) ∧
  ∀ (h : BitVec 4) (l : LaneF) (s : State) (g : Group) (b : Batch), issuingBatch s = some (g, b) → (g.split? b.split).isSome →
    LaneRuns (.laneHint h l) (0x3F0 + h.toNat) 0 l s g b {}

namespace Sys2Proof.Machine

/-! ### Lane memory instructions (R201 to R215) -/

/-- The registers of a group stand: lane registers, scalar registers of every split, predicates, the empty bit, and that no
fault has stopped it. -/
structure SameRegs (g h : Group) : Prop where
  lanes : ∀ spec n, h.lane spec n = g.lane spec n
  scalars : ∀ ix r, h.sval ix r = g.sval ix r
  preds : h.preds = g.preds
  empty : h.empty = g.empty
  status : h.status = g.status

/-- A lane instruction has issued with no result of its own yet: the registers and the flags stand, `after` says what became
of the batches, and the other groups stand. -/
def LaneMoves (x : LnIss) (s t : State) (g : Group) (after : List Batch → Prop) : Prop :=
  (∃ h, t.group? g.gid = some h ∧ SameRegs g h ∧ h.flags = x.g.flags ∧ h.fpend = x.g.fpend ∧ after h.batches) ∧
  ∀ gid, gid ≠ g.gid → t.group? gid = s.group? gid

/-- The batch goes on; a destination that is still to be written stands in the last-result file by its name (R48). -/
def LaneGoesOn (x : LnIss) (s t : State) (g : Group) : Prop :=
  LaneMoves x s t g fun l => ∃ r, l = batchesAfter g.batches x.b x.slot x.l.stall.toNat 0 r ∧
    (fieldWrites x.sh.dst x.l.dst.toNat ≠ [] → r = .dest x.l.dst.toNat)

/-- The batch has left its pipeline and waits (R178). -/
def LaneSuspends (x : LnIss) (s t : State) (g : Group) (blk : Block) : Prop :=
  LaneMoves x s t g fun l => l = g.batches.map fun c =>
    if c.bid == x.b.bid then { c with suspended := true, block := blk, pipe := none } else c

/-- The address of lane `n`: the base pair of src a plus the offset of src b, modulo 2^64 (R201). -/
def LnIss.address (x : LnIss) (n : Nat) : Nat :=
  let base : DWord := operand x.g x.b 0 x.l.a.toNat 1 n ++ operand x.g x.b 0 x.l.a.toNat 0 n
  (base + (x.word 0x23 x.l.b n).setWidth 64).toNat

/-- The lanes that access memory, with their addresses. -/
def LnIss.accesses (x : LnIss) : List (Nat × Nat) := x.actives.map fun n => (n, x.address n)

/-- The bytes of one lane's access (R204). -/
def LnIss.bytes (x : LnIss) : Nat :=
  if x.type % 16 = 4 then 8 else if x.type = 0x33 then 4 * 2 ^ (x.ext % 4) else width x.type / 8

/-- The elements of an access: offset and length (R205). -/
def elements (w : Nat) : List (Nat × Nat) := if w < 4 then [(0, w)] else (List.range (w / 4)).map fun k => (4 * k, 4)

/-- Where word `k` of a lane's load goes: a narrow type is extended to 32 bits (R204). -/
def LnIss.loadsTo (x : LnIss) (lane k : Nat) : LoadDst :=
  if x.l.dst = 0x3FE then .none
  else .lane (x.l.dst.toNat + k) lane (min 32 (width x.type)) (x.type == 0x11 || x.type == 0x12)

/-- The elements that a load asks for: place, length and destination. -/
def LnIss.loadParts (x : LnIss) (rs : List Reached) : List (Loc × Nat × LoadDst) :=
  rs.flatMap fun r => (elements x.bytes).map fun p => (r.place.plus p.1, p.2, x.loadsTo r.lane (p.1 / 4))

/-- The bytes that a lane stores at an offset: of the data word there. -/
def LnIss.stored (x : LnIss) (n : Nat) (p : Nat × Nat) : List Byte :=
  (natLe 4 (operand x.g x.b 0 x.l.c.toNat (p.1 / 4) n).toNat).take p.2

/-- The elements that a store leaves: place, bytes and kind; `fe` for a store that fills empty granules (R210). -/
def LnIss.storeParts (x : LnIss) (rs : List Reached) (fe : Bool) : List (Loc × List Byte × StoreKind) :=
  rs.flatMap fun r => (elements x.bytes).map fun p => (r.place.plus p.1, x.stored r.lane p, match r.place.plus p.1, fe with
    | .spad _ a, true => .fe (granuleOf a)
    | _, _ => .plain)

/-- Every check of the lanes' accesses passes, and they reach `rs` (R213, R457). -/
def LaneReaches (s : State) (x : LnIss) (u : MemUse) (rs : List Reached) : Prop :=
  ∃ s1, planAccess (laneStart s x) x.g u x.accesses = .go s1 rs

/-- The place of a lane instruction in split order (R266). -/
def LnIss.order (x : LnIss) : Ord := { split := x.b.split, born := ((x.g.split? x.b.split).map (·.born)).getD 0, lane := true, seq := x.seq, ref := x.b.seq }

/-- The scope of an order bit of the mode field, where it is set (R213). -/
def LnIss.scope (x : LnIss) (bit : Nat) : Option Nat := if x.l.mode.getLsbD bit then some (x.ext / 16 % 8) else none

/-- The use that a lane access makes of memory: its space is 0 for device memory, 1 for scratchpad, 2 for either. -/
def LnIss.use (x : LnIss) (space : Nat) (kind : AccKind) (fe op : Nat) : MemUse :=
  { space := space, kind := kind, fe := fe, width := if kind = .atomic then (if x.type % 16 = 4 then 8 else 4) else x.bytes,
    fid := 0x14, op := op }

/-- A load of lanes: with no active lane nothing is loaded; otherwise, its checks passed and its counter below 255, it is
counted and its elements are in flight. -/
def LaneLoads (mk : LaneF → Instr) (op space wc : Nat) : Prop :=
  ∀ (s : State) (g : Group) (b : Batch) (l : LaneF) (rs : List Reached),
    let x := laneIssOf op l s g b
    LaneReady (mk l) op l s g b → l.mode.toNat % 4 = 0 → g.wc.getD wc 0 < 255 → LaneReaches s x (x.use space .read 0 0) rs →
    ∃ t, exec (mk l) s = .next t ∧ LaneGoesOn x s t g ∧ t.stores = s.stores ∧ (Uncounted rs → t.mem = s.mem) ∧
      (x.actives = [] → t.loads = s.loads ∧ ∀ h, t.group? g.gid = some h → h.wc = g.wc) ∧
      (x.actives ≠ [] → CountedOn s t g wc ∧ newLoad s t g x.order (x.scope 2) (x.loadParts rs))

/-- A store of lanes: its elements stand at the end of the group's store queue, in lane order. -/
def LaneStores (mk : LaneF → Instr) (op space : Nat) : Prop :=
  ∀ (s : State) (g : Group) (b : Batch) (l : LaneF) (rs : List Reached),
    let x := laneIssOf op l s g b
    LaneReady (mk l) op l s g b → l.mode.toNat % 4 = 0 → g.wc.getD 2 0 < 255 → LaneReaches s x (x.use space .write 0 0) rs →
    ∃ t, exec (mk l) s = .next t ∧ LaneGoesOn x s t g ∧ t.loads = s.loads ∧ (Uncounted rs → t.mem = s.mem) ∧
      (x.actives = [] → t.stores = s.stores ∧ ∀ h, t.group? g.gid = some h → h.wc = g.wc) ∧
      (x.actives ≠ [] → CountedOn s t g 2 ∧ newStores s t g x.order (x.scope 3) (x.storeParts rs false))

end Sys2Proof.Machine

/-- R201 to R208, R213: VLD and VLDS start a load, VST and VSTS a store, of the active lanes, counted on wc0, wc1 and wc2; no
register, predicate or flag changes, and memory keeps every byte until the elements are performed. -/
def Sys2Proof.Machine.LaneLoadsAndStoresStart : Prop :=
  LaneLoads .vld 0x0C0 0 0 ∧ LaneLoads .vlds 0x0C2 1 1 ∧ LaneStores .vst 0x0C1 0 ∧ LaneStores .vsts 0x0C3 1

/-- R209 to R211: the .fe and .fec forms of VLDS and the .fe form of VSTS wait off the pipeline; a load leaves one waiting
access for each granule, which together ask for every element; once no access waits, the batch goes on. -/
def Sys2Proof.Machine.FullEmptyLaneAccessesWait : Prop :=
  (∀ (s : State) (g : Group) (b : Batch) (l : LaneF) (rs : List Reached),
    let x := laneIssOf 0x0C2 l s g b
    let fe := l.mode.toNat % 4
    LaneReady (.vlds l) 0x0C2 l s g b → fe ≠ 0 → g.wc.getD 1 0 < 255 → x.actives ≠ [] →
    LaneReaches s x (x.use 1 .read fe 0) rs →
    ∃ t, ∃ op : Nat, ∃ qs : List FeReq, exec (.vlds l) s = .next t ∧ LaneSuspends x s t g (.fe op) ∧ CountedOn s t g 1 ∧
      t.feqs = s.feqs ++ qs ∧ (qs.map (·.granule)).Nodup ∧
      (∀ q ∈ qs, q.op = op ∧ q.gid = g.gid ∧ q.store = false ∧ q.take = decide (fe = 2) ∧
        ∀ p ∈ q.parts, granuleOf p.1 = q.granule) ∧
      (qs.flatMap fun q => q.parts.map fun p => ((Loc.spad g.core p.1 : Loc), p.2.1, p.2.2)).Perm (x.loadParts rs) ∧
      t.mem = s.mem) ∧
  (∀ (s : State) (g : Group) (b : Batch) (l : LaneF) (rs : List Reached),
    let x := laneIssOf 0x0C3 l s g b
    LaneReady (.vsts l) 0x0C3 l s g b → l.mode.toNat % 4 = 1 → g.wc.getD 2 0 < 255 → x.actives ≠ [] →
    LaneReaches s x (x.use 1 .write 1 0) rs →
    ∃ t, ∃ op : Nat, exec (.vsts l) s = .next t ∧ LaneSuspends x s t g (.fe op) ∧ CountedOn s t g 2 ∧
      newStores s t g x.order (x.scope 3) (x.storeParts rs true) ∧ t.mem = s.mem) ∧
  ∀ (s : State) (g : Group) (b : Batch) (l : LaneF) (op : Nat) (i : Instr),
    (i = .vlds l ∧ issuingBatch s = some (g, b) ∧ WellFormed i ∨ i = .vsts l ∧ issuingBatch s = some (g, b) ∧ WellFormed i) →
    b.block = .fe op → feWaits s op = false →
    ∃ t, exec i s = .next t ∧ ∃ r h, t.group? g.gid = some h ∧
      h.batches = batchesAfter g.batches b (s.now g.core / 3) l.stall.toNat 0 r ∧ SameRegs g h ∧ t.mem = s.mem

/-- R208, R215, R216: VATOM leaves one element for each active lane, with its operation, operand and compare value; it is
counted on wc2 when it returns nothing, on wc1 when it returns and reaches scratchpad only, on wc0 otherwise. -/
def Sys2Proof.Machine.VatomStartsAtomics : Prop :=
  ∀ (s : State) (g : Group) (b : Batch) (l : LaneF) (rs : List Reached),
    let x := laneIssOf 0x0C4 l s g b
    let op := l.ext.toNat % 16
    let returns := l.dst ≠ 0x3FE
    let wide := x.type % 16 = 4
    let wc := if ¬ returns then 2 else if ∀ r ∈ rs, 2 ^ 63 ≤ r.addr then 1 else 0
    LaneReady (.vatom l) 0x0C4 l s g b → g.wc.getD wc 0 < 255 → LaneReaches s x (x.use 2 .atomic 0 op) rs →
    ∃ t, exec (.vatom l) s = .next t ∧ LaneGoesOn x s t g ∧ t.loads = s.loads ∧ (Uncounted rs → t.mem = s.mem) ∧
      (x.actives = [] → t.stores = s.stores ∧ ∀ h, t.group? g.gid = some h → h.wc = g.wc) ∧
      (x.actives ≠ [] → CountedOn s t g wc ∧ newStores s t g x.order (x.scope 3)
        (rs.map fun r => (r.place, (if wide then natLe 8 (x.val x.type x.l.c r.lane).toNat else natLe 4 (x.word x.type x.l.c r.lane).toNat),
          .atomic op (x.type == 0x13 || x.type == 0x14)
            (if op = 7 then (if wide then (x.g.lane (x.l.dst.toNat + 1) r.lane ++ x.g.lane x.l.dst.toNat r.lane).toNat
              else (x.g.lane x.l.dst.toNat r.lane).toNat) else 0)
            (if returns then some l.dst.toNat else none))))

namespace Sys2Proof.Machine

/-! ### The matrix engine, the porter and the spawn bins: lane instructions (R185 to R187, R226, R248 to R259) -/

/-- The lanes that act: activity mask and guard. -/
def LnIss.mask (x : LnIss) : LaneMask := x.b.mask &&& guardLanes x.l (x.g.preds.getD x.l.guard.toNat 0)

/-- The quarters of 8 lanes that have an active lane, each with its lowest one, in ascending order (R250). -/
def LnIss.quarters (x : LnIss) : List (Nat × Nat) :=
  (List.range 12).filterMap fun j => (x.actives.find? fun n => n / 8 == j).map fun f => (j, f)

/-- A new engine operation stands at the end of the list, not yet admitted. -/
def NewEngine (s t : State) (g : Group) (who : Nat) (ord : Ord) (kind : EngKind) (counted : Bool) (pan : Option Nat)
    (o : EngOp) : Prop :=
  t.engops = s.engops ++ [o] ∧ o.gid = g.gid ∧ o.core = g.core ∧ o.slot = g.slot ∧ o.vd = g.vd ∧ o.who = who ∧ o.ord = ord ∧
  o.kind = kind ∧ o.admitted = false ∧ o.streaming = false ∧ o.qflags = [] ∧ o.read = [] ∧ o.counted = counted ∧ o.pan = pan

/-- A lane instruction has named an engine operation and waits for it; the registers `locks` are held until it lets them go
(R55). -/
def StartsEngine (i : Instr) (x : LnIss) (s : State) (g : Group) (kind : EngKind) (counted : Bool) (pan : Option Nat)
    (locks : List (Nat × Bool)) : Prop :=
  ∃ t o, exec i s = .next t ∧ LaneSuspends x s t g (.engine o.id) ∧ NewEngine s t g (16 + x.b.bid) x.order kind counted pan o ∧
    t.copies = s.copies ∧ t.mem = s.mem ∧
    ∃ h, t.group? g.gid = some h ∧ h.vlocks = g.vlocks ++ locks.map fun k => (k.1, k.2, o.id)

/-- A lane instruction is held at its issue, as at the limit of wc3 (R54): the machine is as before it, and `held`. -/
def HeldAtIssue (i : Instr) (x : LnIss) (s : State) : Prop := exec i s = .next { laneStart s x with held := true }

/-- A lane instruction goes on with no operation. -/
def LaneIdles (i : Instr) (x : LnIss) (s : State) (g : Group) : Prop :=
  ∃ t r, exec i s = .next t ∧ LaneMoves x s t g (fun l => l = batchesAfter g.batches x.b x.slot x.l.stall.toNat 0 r) ∧
    t.engops = s.engops ∧ t.copies = s.copies ∧ t.mem = s.mem

/-- Are the side rows of type .bx4 in use. -/
def LnIss.sided (x : LnIss) : Bool := fmtA x.b.fmt == 0x80

/-- The A row of lane `f`: a scratchpad row, and the offset of its side bytes, within the allocation. -/
def LnIss.aRow (x : LnIss) (f : Nat) : Nat := (x.word 0x23 x.l.a f).toNat
def LnIss.sideOff (x : LnIss) (f : Nat) : Nat := if x.sided then (x.word 0x23 x.l.c f).toNat else 0

/-- Does the A row of a quarter in scratchpad lie in the allocation, hold no empty granule, or lie in the range of a full
pannier of the team (R209, R250, R254). -/
def rowAllowed (s : State) (x : LnIss) (f : Nat) : Prop :=
  x.aRow f < x.g.spRows ∧ (x.sided = true → x.sideOff f % 16 = 0 ∧ x.sideOff f + 48 ≤ 384 * x.g.spRows) ∧
  (if x.extBit 10 then
    panBreach s x.g (x.ext / 16 % 64) ((384 * x.aRow f, 384) :: if x.sided then [(x.sideOff f, 48)] else []) = none
   else emptyAt s x.g (384 * x.aRow f) 384 3 = none ∧ (x.sided = true → emptyAt s x.g (x.sideOff f) 48 4 = none))

/-- MMA or MMAB, its checks passed (R248 to R252, R254): with no active lane it goes on; otherwise it names a pass of one row
for each quarter with an active lane, and waits for its first row; at the limit of wc3 it is held at its issue. -/
def StartsPass (mk : LaneF → Instr) (op : Nat) (diag : Bool) : Prop :=
  ∀ (s : State) (g : Group) (b : Batch) (l : LaneF),
    let x := laneIssOf op l s g b
    let spad := x.extBit 3
    let row : Nat × Nat → PassRow := fun q =>
      { src := if spad then .spad (g.spBase + x.aRow q.2) (384 * g.spBase + x.sideOff q.2)
               else .frag l.a.toNat (if x.sided then some l.c.toNat else none) (x.mask &&& quarterMask q.1),
        acc := g.accBase + (x.word 0x23 l.b q.2).toNat, quarter := q.1 }
    LaneReady (mk l) op l s g b → typesOk b.fmt diag = true → slotGranted s g.vd (x.ext % 4) = true → tokShare s g.vd ≠ 0 →
    (∀ q ∈ x.quarters, (x.word 0x23 l.b q.2).toNat < g.accRows ∧ (spad = true → rowAllowed s x q.2)) →
    (x.quarters = [] → LaneIdles (mk l) x s g) ∧
    (x.quarters ≠ [] → wc3Full s x.g = true → HeldAtIssue (mk l) x s) ∧
    (x.quarters ≠ [] → wc3Full s x.g = false → StartsEngine (mk l) x s g
      (.pass (x.ext % 4) (x.extBit 2) diag b.fmt (x.quarters.map row) (some x.mask)) true
      (if x.extBit 10 then some (panFirst s g.vd + x.ext / 16 % 64) else none)
      (if spad then [] else ((List.range 12).map fun i => (l.a.toNat + i, true)) ++
        if x.sided then [(l.c.toNat, true), (l.c.toNat + 1, true)] else []))

/-- The batch's suspended instruction, whose wait is over, is complete: the batch goes on. -/
def Resumes (i : Instr) (s : State) (b : Batch) (stall : Nat) (ended : Prop) : Prop :=
  ∀ g : Group, issuingBatch s = some (g, b) → WellFormed i → ended → ∃ t h r, exec i s = .next t ∧ t.group? g.gid = some h ∧
    h.batches = batchesAfter g.batches b (s.now g.core / 3) stall 0 r ∧ SameRegs g h ∧ t.mem = s.mem ∧
    t.engops = s.engops ∧ t.copies = s.copies

end Sys2Proof.Machine

/-- R248 to R252, R258, R259: MMA, MMAB, ACCRD and ACCWR name an engine operation of their active lanes and wait for the
engine; once it no longer keeps them waiting, they are complete. -/
def Sys2Proof.Machine.LaneEngineOperationsStart : Prop :=
  StartsPass .mma 0x100 false ∧ StartsPass .mmab 0x101 true ∧
  (∀ (s : State) (g : Group) (b : Batch) (l : LaneF),
    let x := laneIssOf 0x102 l s g b
    let row n := (x.word 0x23 l.a n).toNat
    let col n := if x.extBit 0 then 0 else (x.word 0x23 l.b n).toNat
    LaneReady (.accrd l) 0x102 l s g b → (∀ n ∈ x.actives, row n < g.accRows ∧ col n ≤ 127) →
    (x.actives = [] → LaneIdles (.accrd l) x s g) ∧
    (x.actives ≠ [] → StartsEngine (.accrd l) x s g
      (.accrd l.dst.toNat (x.actives.map fun n => (n, g.accBase + row n, col n)) (x.extBit 0)) false none
      (if l.dst = 0x3FE then [] else [(l.dst.toNat, false)]))) ∧
  (∀ (s : State) (g : Group) (b : Batch) (l : LaneF),
    let x := laneIssOf 0x103 l s g b
    let row n := (x.word 0x23 l.a n).toNat
    let col n := (x.word 0x23 l.b n).toNat
    LaneReady (.accwr l) 0x103 l s g b → (∀ n ∈ x.actives, row n < g.accRows ∧ col n ≤ 127) →
    (x.actives = [] → LaneIdles (.accwr l) x s g) ∧
    (x.actives ≠ [] → StartsEngine (.accwr l) x s g
      (.accwr (x.actives.map fun n => (g.accBase + row n, col n, x.word 0x23 l.c n))) false none [])) ∧
  ∀ (s : State) (b : Batch) (l : LaneF) (id : Nat), b.block = .engine id →
    (sideViol 0x100 l b.fmt = [] →
      Resumes (.mma l) s b l.stall.toNat (engWaits s id = false) ∧ Resumes (.mmab l) s b l.stall.toNat (engWaits s id = false)) ∧
    Resumes (.accrd l) s b l.stall.toNat (engWaits s id = false) ∧ Resumes (.accwr l) s b l.stall.toNat (engWaits s id = false)

namespace Sys2Proof.Machine

/-- The bytes that a lane of LCOPY moves (R226). -/
def LnIss.copyWidth (x : LnIss) : Nat := 4 * 2 ^ (x.ext % 4)

/-- The transfers of LCOPY: one for each active lane, its bytes in lane order among the copy's (R226). -/
def LnIss.copyMoves (x : LnIss) (s : State) : List (Nat × Place × Place × Nat × Nat) :=
  x.actives.zipIdx.map fun q => (x.copyWidth * q.2, placeOf s x.g (x.address q.1), .localSp (x.word 0x23 x.l.c q.1).toNat,
    x.copyWidth, q.1)

end Sys2Proof.Machine

/-- R226, R227, R228, R234: LCOPY names a copy of its active lanes, gathered into transfers of one line or row and portions of
at most 32 transfers, and waits for its admission; once admitted it is complete. -/
def Sys2Proof.Machine.LcopyStartsACopy : Prop :=
  (∀ (s : State) (g : Group) (b : Batch) (l : LaneF),
    let x := laneIssOf 0x0C5 l s g b
    let p := x.ext / 256 % 64
    let moves := x.copyMoves s
    let spans : Bool → List Span := fun source => joinSpans (moves.map fun m => spanOf s x.g (if source then m.2.1 else m.2.2.1) m.2.2.2.1)
    LaneReady (.lcopy l) 0x0C5 l s g b → (x.actives = [] → LaneIdles (.lcopy l) x s g) ∧
    (x.actives ≠ [] → wc3Full s x.g = true → HeldAtIssue (.lcopy l) x s) ∧
    (x.actives ≠ [] → wc3Full s x.g = false → p < panCount s g.vd →
      (∀ n ∈ x.actives, lcopyBreach s x.g x.copyWidth (x.address n) (x.word 0x23 l.c n).toNat = none) →
      copyClash s x.g (spans true) (spans false) true = none →
      ∃ t c, exec (.lcopy l) s = .next t ∧ LaneSuspends x s t g (.copy c.id) ∧ t.copies = s.copies ++ [c] ∧
        c.gid = g.gid ∧ c.core = g.core ∧ c.vd = g.vd ∧ c.il4 = false ∧ c.panCore = g.core ∧ c.pan = panFirst s g.vd + p ∧
        c.share = x.ext / 16 % 16 ∧ c.len = x.copyWidth * x.actives.length ∧ c.claimed = false ∧ c.admitted = false ∧
        c.active = [] ∧ c.delivered = 0 ∧ c.ord = x.order ∧
        (c.portions.flatten.map fun y => (y.off, y.src, y.dst, y.len, y.lane)).Perm moves ∧
        (∀ y ∈ c.portions.flatten, ∀ z ∈ c.portions.flatten, y.tr = z.tr ↔ gatherKey y.src = gatherKey z.src) ∧
        (∀ q ∈ c.portions, (q.map (·.tr)).eraseDups.length ≤ 32) ∧ t.engops = s.engops ∧ t.mem = s.mem)) ∧
  ∀ (s : State) (b : Batch) (l : LaneF) (id : Nat), b.block = .copy id →
    Resumes (.lcopy l) s b l.stall.toNat (copyWaits s id = false)

namespace Sys2Proof.Machine

/-- The spawn bin of a device and a launch for an entry index, open on a core (R185). -/
def spawnBin (s : State) (g : Group) (code : Nat) : Option Bin := openBin s g.core .spawn g.vd g.launch.lid code

/-- The deposits that VSPAWN makes for an entry index: argument and rank of each active lane that names it, ascending. -/
def LnIss.depositsFor (x : LnIss) (code : Nat) : List (Word × Nat) :=
  (x.actives.filter fun n => x.ext + (x.word 0x23 x.l.a n).toNat == code).map fun n => (x.word 0x23 x.l.b n, x.g.rank)

end Sys2Proof.Machine

/-- R185, R187: VSPAWN puts the argument of each active lane into the open bin of its entry index, while every bin keeps room;
the 96th argument fires the bin; a lane whose entry index has no open bin opens the lowest free one, and waits off the pipeline
while none may be opened. -/
def Sys2Proof.Machine.VspawnDepositsArguments : Prop :=
  ∀ (s : State) (g : Group) (b : Batch) (l : LaneF),
    let x := laneIssOf 0x0E0 l s g b
    let code n := x.ext + (x.word 0x23 l.a n).toNat
    LaneReady (.vspawn l) 0x0E0 l s g b → b.served = 0 → binGrant s g.vd ≠ 0 → (∀ n ∈ x.actives, code n < g.launch.slen) →
    (x.actives = [] → LaneIdles (.vspawn l) x s g) ∧
    ((∀ n ∈ x.actives, ∃ c, spawnBin s g (code n) = some c ∧ c.args.length + (x.depositsFor (code n)).length < 96 ∧
        (s.core g.core).bins.filter (fun d => d.bix == c.bix) = [c]) →
      ∃ t, exec (.vspawn l) s = .next t ∧
        (∃ r, LaneMoves x s t g fun l => l = batchesAfter g.batches x.b x.slot x.l.stall.toNat 0 r) ∧ t.mem = s.mem ∧
        ∀ n ∈ x.actives, ∀ c, spawnBin s g (code n) = some c →
          spawnBin t g (code n) = some { c with args := c.args ++ x.depositsFor (code n) }) ∧
    (∀ n c, x.actives = [n] → spawnBin s g (code n) = some c → c.args.length = 95 →
      ∃ t, exec (.vspawn l) s = .next t ∧
        ({ c with args := c.args ++ x.depositsFor (code n), fired := true, launch := withJob s c.vd c.launch } : Bin) ∈ (t.core g.core).bins) ∧
    (∀ n k, x.actives = [n] → spawnBin s g (code n) = none → freeBin s g.core g.vd = some k →
      ∃ t c, exec (.vspawn l) s = .next t ∧ spawnBin t g (code n) = some c ∧ c.bix = k ∧ c.args = x.depositsFor (code n) ∧
        c.launch = g.launch ∧ c.vd = g.vd ∧ c.tracker = g.tracker ∧ t.mem = s.mem) ∧
    (∀ n, x.actives = [n] → spawnBin s g (code n) = none → freeBin s g.core g.vd = none →
      ∃ t, exec (.vspawn l) s = .next t ∧ LaneSuspends x s t g .none ∧ t.mem = s.mem)

namespace Sys2Proof.Machine

/-! ### The matrix engine and the porter: scalar instructions (R222 to R227, R241, R253 to R260) -/

/-- Split `ix` of `g`, which holds `sp`, has issued `i` and waits in block `blk` at its own word; no register, flag or batch of
its group and no other group has changed. -/
def ScalarSuspends (i : Instr) (s t : State) (g : Group) (ix : Nat) (sp : Split) (blk : Block) : Prop :=
  (∃ h, t.group? g.gid = some h ∧ SameRegs g h ∧ h.flags = g.flags ∧ h.batches = g.batches ∧ h.wc = g.wc ∧
    h.split? ix = some { sp with block := blk, earliest := s.now g.core + 1 + wordOf i % 4, lastIssue := s.now g.core,
                                 word := wordOf i } ∧
    ∀ j, j ≠ ix → h.split? j = g.split? j) ∧
  (∀ gid, gid ≠ g.gid → t.group? gid = s.group? gid) ∧ t.mem = s.mem ∧ t.loads = s.loads ∧ t.stores = s.stores

/-- A scalar instruction names an engine operation, counted on wc3 when it is admitted, and waits for its admission; at the
limit of wc3 it is held at its issue (R54). -/
def ScalarStartsEngine (i : Instr) (s : State) (g : Group) (ix : Nat) (sp : Split) (kind : EngKind) (pan : Option Nat) : Prop :=
  (wc3Full s g = false → ∃ t o, exec i s = .next t ∧ ScalarSuspends i s t g ix sp (.engine o.id) ∧ t.copies = s.copies ∧
    NewEngine s t g ix (scalarOrd s ix sp) kind true pan o) ∧
  (wc3Full s g = true → ∃ t, exec i s = .next t ∧ Held s t g)

/-- What a scalar instruction that only reads registers uses, with the handler's limit for a write that a field names (R393). -/
def engineUses (reads : List Nat) (field : Nat) : ScUse := { reads := reads, writes := [], ban := 4, banField := field }

end Sys2Proof.Machine

/-- R241, R242, R253, R254, R257, R260: MLOADB, MMAS, ACCZ and ACCST, their checks passed, name an engine operation with what
their registers hold, and wait for its admission. -/
def Sys2Proof.Machine.ScalarEngineOperationsStart : Prop :=
  (∀ (s : State) (g : Group) (ix : Nat) (sp : Split) (n : BitVec 2) (a b : BitVec 7) (f t : BitVec 2),
    let i := Instr.mloadb n a b f t
    let wx := f.getLsbD 0
    let bx := f.getLsbD 1
    let addrs := if wx then [a.toNat, a.toNat + 1, a.toNat + 2, a.toNat + 3] else [a.toNat, a.toNat + 1]
    let src := (pairAt g ix a.toNat).toNat
    let wa := (pairAt g ix (a.toNat + 2)).toNat
    let o := g.sval ix b.toNat
    let cols := 8 * ((o.extractLsb' 16 4).toNat + 1)
    let targets := if o.extractLsb' 0 12 = 0 then [g.core]
      else ((List.range 12).filter fun k => o.getLsbD k).map fun k => g.core / 12 * 12 + k
    ScalarReady i (engineUses (addrs ++ [b.toNat]) 0x02) s g ix sp → o.extractLsb' 20 12 = 0 → o.extractLsb' 12 4 = 0 →
    loadSrcBreach s g wx src = none →
    (∀ k ∈ targets, k ∈ ((s.vd g.vd).part.map (·.cores)).getD []) → slotGranted s g.vd n.toNat = true →
    (wx = true → wa % 128 = 0 ∧ (weightAt s g.vd wa).isSome) →
    loadSpadBreach s g src ((if bx then 432 else 384) * cols) = none →
    ScalarStartsEngine i s g ix sp
      (.mloadb n.toNat (placeOf s g src) cols bx (if wx then some wa else none) targets targets)
      (match placeOf s g src with
       | .peerSp q _ _ => some q
       | _ => none)) ∧
  (∀ (s : State) (g : Group) (ix : Nat) (sp : Split) (n : BitVec 2) (a : BitVec 7) (f t : BitVec 2),
    let i := Instr.mmas n a f t
    let w0 := g.sval ix a.toNat
    let w1 := g.sval ix (a.toNat + 1)
    ScalarReady i (engineUses [a.toNat, a.toNat + 1] 0x03) s g ix sp →
    mmasBreach s g n.toNat sp.fmt (f.getLsbD 1) w0.toNat w1.toNat = none →
    ScalarStartsEngine i s g ix sp
      (.pass n.toNat (f.getLsbD 0) false sp.fmt ((List.range ((w0.extractLsb' 13 8).toNat + 1)).map fun k =>
        { src := .spad (g.spBase + (w0.extractLsb' 0 13).toNat + k)
            (384 * g.spBase + 384 * (w1.extractLsb' 12 13).toNat + 48 * k),
          acc := g.accBase + (w1.extractLsb' 0 12).toNat + k, quarter := 0 }) none)
      (if f.getLsbD 1 then some (panFirst s g.vd + (w0.extractLsb' 21 6).toNat) else none)) ∧
  (∀ (s : State) (g : Group) (ix : Nat) (sp : Split) (a b : BitVec 7) (t : BitVec 2),
    let i := Instr.accz a b t
    let r := (g.sval ix a.toNat).toNat
    let n := (g.sval ix b.toNat).toNat
    ScalarReady i (engineUses [a.toNat, b.toNat] 0x03) s g ix sp → 1 ≤ n → n ≤ 4096 → r + n ≤ g.accRows →
    ScalarStartsEngine i s g ix sp (.accz (g.accBase + r) n) none) ∧
  (∀ (s : State) (g : Group) (ix : Nat) (sp : Split) (d : BitVec 6) (a b : BitVec 7) (t : BitVec 2),
    let i := Instr.accst d a b t
    let w := g.sval ix d.toNat
    let r := (g.sval ix a.toNat).toNat
    let off := (g.sval ix b.toNat).toNat
    let n := (w.extractLsb' 0 9).toNat
    let ty := (w.extractLsb' 16 8).toNat
    let rm := (w.extractLsb' 24 3).toNat
    let bytes := 128 * n * (width ty / 8)
    ScalarReady i (engineUses [d.toNat, a.toNat, b.toNat] 0x04) s g ix sp → w.extractLsb' 28 4 = 0 → w.extractLsb' 9 7 = 0 →
    rm ≤ 4 → ty ∈ [0x43, 0x42, 0x52, 0x61, 0x71, 0x13, 0x12, 0x11] → 1 ≤ n → n ≤ 256 → r + n ≤ g.accRows → off % 16 = 0 →
    off + bytes ≤ 384 * g.spRows → spadSeal s g off bytes = none →
    ScalarStartsEngine i s g ix sp
      (.accst (g.accBase + r) n (384 * g.spBase + off) ty (if rm = 0 then sp.fmt.toNat % 4 else rm - 1) (w.getLsbD 27)) none)

namespace Sys2Proof.Machine

/-- The checks of BCOPY at its issue on length, pannier word and addresses (R218, R225, R227): sizes and alignment, the form of
both addresses, one side at most a peer's, a peer destination whose pannier is the one named, and the ranges. -/
structure CopyAllowed (s : State) (g : Group) (len pj src dst : Nat) : Prop where
  word : pj / 2 ^ 12 = 0 ∧ pj / 2 ^ 6 % 4 = 0
  pannier : pj % 64 < panCount s g.vd
  length : 0 < len ∧ len ≤ 0xFFFFF0 ∧ len % 16 = 0
  source : placeBreach src = none ∧ src % 16 = 0 ∧ peerBreach s g src = none
  destination : placeBreach dst = none ∧ dst % 16 = 0 ∧ peerBreach s g dst = none
  peers : src / 2 ^ 62 = 3 → dst / 2 ^ 62 ≠ 3
  named : dst / 2 ^ 62 = 3 → dst / 2 ^ 36 % 64 = pj % 64
  bytes : sideBreach s g src dst len = none

/-- A form of BCOPY whose checks pass names a copy and waits for its admission; at the limit of wc3 it is held at its issue. -/
def StartsCopy (mk : BitVec 6 → BitVec 7 → BitVec 7 → BitVec 2 → Instr) (il4 : Bool) : Prop :=
  ∀ (s : State) (g : Group) (ix : Nat) (sp : Split) (d : BitVec 6) (a b : BitVec 7) (t : BitVec 2),
    let i := mk d a b t
    let len := (g.sval ix d.toNat).toNat
    let pj := (g.sval ix (d.toNat + 1)).toNat
    let src := (pairAt g ix a.toNat).toNat
    let dst := (pairAt g ix b.toNat).toNat
    let span (addr : Nat) : List Span := [spanOf s g (placeOf s g addr) len]
    ScalarReady i (uses [d.toNat, d.toNat + 1, a.toNat, a.toNat + 1, b.toNat, b.toNat + 1] []) s g ix sp →
    (ix = 8 → (∀ h, g.handler = some h → h.resume = true) ∨ dst < 2 ^ 63) →
    (wc3Full s g = true → ∃ u, exec i s = .next u ∧ Held s u g) ∧
    (wc3Full s g = false → CopyAllowed s g len pj src dst → copyClash s g (span src) (span dst) true = none →
    ∃ u c, exec i s = .next u ∧ ScalarSuspends i s u g ix sp (.copy c.id) ∧ u.copies = s.copies ++ [c] ∧ u.engops = s.engops ∧
      c.gid = g.gid ∧ c.core = g.core ∧ c.vd = g.vd ∧ c.who = ix ∧ c.il4 = il4 ∧ c.len = len ∧
      c.panCore = (if dst / 2 ^ 62 = 3 then g.core / 12 * 12 + dst / 2 ^ 32 % 16 else g.core) ∧
      c.pan = panFirst s g.vd + pj % 64 ∧ c.share = pj / 2 ^ 8 % 16 ∧ c.claimed = false ∧ c.admitted = false ∧ c.delivered = 0 ∧
      c.active = [] ∧ c.ord = scalarOrd s ix sp ∧ c.portions.flatten.map (fun y => (y.off, y.src, y.dst, y.len)) =
        [(0, placeOf s g src, placeOf s g dst, len)])

/-- `i` issues and goes on at the next word, and entry `e` of its core's pannier table becomes `p`; no other entry, register
or byte of memory changes. -/
def PannierBecomes (i : Instr) (s : State) (g : Group) (ix : Nat) (sp : Split) (e : Nat) (p : Pannier) : Prop :=
  ∃ t, exec i s = .next t ∧ GoesOnWord i s t g ix sp ∧ panAt t g.core e = p ∧
    (∀ c k, c ≠ g.core ∨ k ≠ e → panAt t c k = panAt s c k) ∧ (∀ c, c ≠ g.core → t.core c = s.core c) ∧
    t.core g.core = { s.core g.core with units := (t.core g.core).units, pans := (t.core g.core).pans } ∧ t = s.withIssueOf t

end Sys2Proof.Machine

/-- R225, R227: BCOPY and BCOPY.il4, their checks passed, name a copy of one transfer and wait for its admission. -/
def Sys2Proof.Machine.BcopyStartsACopy : Prop := StartsCopy .bcopy false ∧ StartsCopy .bcopyIl4 true

/-- R221 to R223: PANARM waits for its entry to be free and arms it, filling, with the range, the readers and the shares of its
descriptor; PANREL of a full pannier takes one reader off, and the last one makes it draining, free from the next cycle on while
no read is in flight; PANREL.wait waits until it is full. -/
def Sys2Proof.Machine.PanniersAreArmedAndReleased : Prop :=
  (∀ (p : Pannier) (now : Nat), p.state = .draining → p.asOf now = if p.inflight = 0 ∧ p.drainAt < now then Pannier.empty else p) ∧
  (∀ (s : State) (g : Group) (ix : Nat) (sp : Split) (d : BitVec 6) (a : BitVec 7) (t : BitVec 2),
    let i := Instr.panarm d a t
    let w := fun k => g.sval ix (a.toNat + k)
    let n := ((w 0).extractLsb' 27 4).toNat
    let e := panFirst s g.vd + d.toNat
    ScalarReady i (uses ((List.range (n + 2)).map (a.toNat + ·)) []) s g ix sp → d.toNat < panCount s g.vd →
    ((panAt s g.core e).state = .free → (w 0).getLsbD 31 = false → 1 ≤ n → n ≤ 12 → a.toNat % 64 + n + 1 ≤ 63 →
      descBreach g n ((List.range (n + 2)).map w) = none →
      PannierBecomes i s g ix sp e
        { state := .filling, vd := g.vd, gen := g.gen, team := g.team, first := g.spBase + ((w 0).extractLsb' 0 13).toNat,
          rows := ((w 0).extractLsb' 13 14).toNat, readers := ((w 1).extractLsb' 0 5).toNat,
          shares := (List.range n).map fun j => { prod := ((w (2 + j)).extractLsb' 24 8).toNat,
                                                  expected := ((w (2 + j)).extractLsb' 0 24).toNat, claimed := 0, delivered := 0 },
          inflight := 0, drainAt := 0 }) ∧
    ((panAt s g.core e).state ≠ .free → ∃ u, exec i s = .next u ∧ Held s u g)) ∧
  ∀ (s : State) (g : Group) (ix : Nat) (sp : Split) (p : BitVec 8) (t : BitVec 2),
    let e := panFirst s g.vd + p.toNat
    let pan := panAt s g.core e
    p.toNat < panCount s g.vd →
    (ScalarReady (.panrel p t) {} s g ix sp → pan.team = g.team →
      (pan.state = .full → 2 ≤ pan.readers → PannierBecomes (.panrel p t) s g ix sp e { pan with readers := pan.readers - 1 }) ∧
      (pan.state = .full → pan.readers ≤ 1 →
        PannierBecomes (.panrel p t) s g ix sp e { pan with state := .draining, readers := 0, drainAt := s.now g.core }) ∧
      (pan.state ≠ .full → pan.state ≠ .free → ∃ u, exec (.panrel p t) s = .next u ∧ Held s u g)) ∧
    (ScalarReady (.panrelWait p t) {} s g ix sp →
      (panIs s g.vd g.core e .full = true → Leaves (.panrelWait p t) s g ix sp 1 []) ∧
      (panIs s g.vd g.core e .full = false → ∃ u, exec (.panrelWait p t) s = .next u ∧ Held s u g))

namespace Sys2Proof.Machine

/-! ### Marks, solicitations and the census (R296 to R312) -/

/-- The base of a tile as the directory keeps it: a scratchpad tile stands at its absolute row, under the tag (R297). -/
def tileBase (g : Group) (b : DWord) : DWord := if b.getLsbD 63 then b + BitVec.ofNat 64 (384 * g.spBase) else b

/-- `i` issues and goes on at the next word, and entry `entry` of its core's mark directory becomes `new`, or is free: every
entry of another index stays as it is. No register, other core or byte of memory changes. -/
def DirectoryBecomes (i : Instr) (s t : State) (g : Group) (ix : Nat) (sp : Split) (entry : Nat) (new : Option Mark) : Prop :=
  exec i s = .next t ∧ GoesOnWord i s t g ix sp ∧
    (∀ m, new = some m → m ∈ (t.core g.core).marks) ∧ (new = none → ∀ m ∈ (t.core g.core).marks, m.ix ≠ entry) ∧
    (∀ m, m.ix ≠ entry → (m ∈ (t.core g.core).marks ↔ m ∈ (s.core g.core).marks)) ∧
    (∀ c, c ≠ g.core → t.core c = s.core c) ∧ t.mem = s.mem ∧ t.solicits = s.solicits

/-- An instruction of the directory issues and leaves every directory as it is. -/
def DirectoryStays (i : Instr) (s t : State) (g : Group) (ix : Nat) (sp : Split) : Prop :=
  exec i s = .next t ∧ GoesOnWord i s t g ix sp ∧ (t.core g.core).marks = (s.core g.core).marks ∧
    (∀ c, c ≠ g.core → t.core c = s.core c) ∧ t.mem = s.mem ∧ t.solicits = s.solicits

/-- An instruction of the directory may act now: no earlier acquire of its split, and no load before a FENCE.st, is still without
its value, and no event of the directory that comes after it in the order of R315 has happened in this cycle (R274, R314,
R315). -/
def DirectoryOpen (s : State) (g : Group) (ix : Nat) (sp : Split) : Prop :=
  acqPending s g.gid g.vd (scalarOrd s ix sp) false = false ∧ fencedLoad s g.gid (scalarOrd s ix sp) = false ∧
    dirLate s g.core (dirInsn g.slot) = false

end Sys2Proof.Machine

/-- R300 to R303, R314, R315: MARKPUT puts a held entry at the lowest free index of its core's directory; MARKDROP takes a held entry out,
waits for one in a move, and passes over an absent one; MARKMOVE turns a held entry to transit and starts a move of it to its
target, counted on wc3; all three wait for the acquires before them and for their turn in the directory's order. -/
def Sys2Proof.Machine.MarksArePutDroppedAndMoved : Prop :=
  (∀ (s : State) (g : Group) (ix : Nat) (sp : Split) (a b : BitVec 7) (t : BitVec 2) (e : Nat),
    let i := Instr.markput a b t
    let w := fun k => g.sval ix (b.toNat + k)
    let base := tileBase g (pairAt g ix b.toNat)
    let spad := base.getLsbD 63
    ScalarReady i (uses ([a.toNat, a.toNat + 1] ++ (List.range 4).map (b.toNat + ·)) []) s g ix sp →
    tileBreach g (w 0).toNat (w 1).toNat (w 2).toNat (w 3).toNat = none → (w 3).toNat < g.launch.slen →
    (¬ DirectoryOpen s g ix sp → ∃ u, exec i s = .next u ∧ Held s u g) ∧
    (DirectoryOpen s g ix sp → markFind s g.core g.vd (pairAt g ix a.toNat) base = none → freeMark s g.core g.vd = some e →
    ∃ u, DirectoryBecomes i s u g ix sp e (some
      { ix := e, state := .held, vd := g.vd, gen := g.gen, mark := pairAt g ix a.toNat, base := base, len := (w 2).toNat,
        resp := (w 3).toNat, lid := g.launch.lid, launch := g.launch, answered := [],
        row := if spad then base.toNat % 2 ^ 63 / 384 else 0, team := if spad then tileOwner g else none, move := none }))) ∧
  (∀ (s : State) (g : Group) (ix : Nat) (sp : Split) (a b : BitVec 7) (t : BitVec 2),
    let i := Instr.markdrop a b t
    let found := markFind s g.core g.vd (pairAt g ix a.toNat) (tileBase g (pairAt g ix b.toNat))
    ScalarReady i (uses [a.toNat, a.toNat + 1, b.toNat, b.toNat + 1] []) s g ix sp →
    (¬ DirectoryOpen s g ix sp → ∃ u, exec i s = .next u ∧ Held s u g) ∧
    (DirectoryOpen s g ix sp → found = none → ∃ u, DirectoryStays i s u g ix sp) ∧
    (∀ m, DirectoryOpen s g ix sp → found = some m → m.state = .held → ∃ u, DirectoryBecomes i s u g ix sp m.ix none) ∧
    (∀ m, found = some m → m.state ≠ .held → ∃ u, exec i s = .next u ∧ Held s u g)) ∧
  (∀ (s : State) (g : Group) (ix : Nat) (sp : Split) (d : BitVec 6) (a b : BitVec 7) (t : BitVec 2) (m : Mark) (nb : DWord)
    (row : Nat) (team : Option Nat),
    let i := Instr.markmove d a b t
    let target := (g.sval ix d.toNat).toNat
    ScalarReady i { reads := [d.toNat, a.toNat, a.toNat + 1] ++ (List.range 4).map (b.toNat + ·), ban := 2 } s g ix sp →
    target ∈ coresOf s g.vd → target ≠ g.core →
    let old := tileBase g (pairAt g ix b.toNat)
    markFind s g.core g.vd (pairAt g ix a.toNat) old = some m →
    movedBase s g (old.getLsbD 63) target m.len (pairAt g ix (b.toNat + 2)) = some (nb, row, team) →
    (m.state = .arriving ∨ 255 ≤ g.wc.getD 3 0 ∨ ¬ DirectoryOpen s g ix sp → m.state ≠ .transit →
      ∃ u, exec i s = .next u ∧ Held s u g) ∧
    (m.state = .held → g.wc.getD 3 0 < 255 → DirectoryOpen s g ix sp →
    ∃ u mv, DirectoryBecomes i s u g ix sp m.ix (some { m with state := .transit, move := some mv.id }) ∧ CountedOn s u g 3 ∧
      u.moves = s.moves ++ [mv] ∧ mv.vd = g.vd ∧ mv.gid = g.gid ∧ mv.src = g.core ∧ mv.dst = target ∧ mv.srcIx = m.ix ∧
      mv.stage = .installing ∧ mv.late = [] ∧ mv.waiting = [] ∧ mv.forwards = [] ∧
      mv.entry = { m with base := nb, row := row, team := team, state := .arriving, move := some mv.id }))

/-- R299, R304, R309, R311: SOLICIT waits as a fence and for a free census entry, opens the entry for the cores that its scope
reaches and leaves its token in sd; CENSUS of an open entry holds its three registers until the answer is complete, and of a
complete one writes them and frees it; RESPOND sets the value of a responder. -/
def Sys2Proof.Machine.SolicitCensusAndRespond : Prop :=
  (∀ (s : State) (g : Group) (ix : Nat) (sp : Split) (d : BitVec 6) (a b : BitVec 7) (f : BitVec 4) (t : BitVec 2),
    let i := Instr.solicit d a b f t
    let op := f.toNat / 3
    let scope := f.toNat % 3
    let ready := fenceReady s g.gid ix (scope + 2) 0 s.fresh = true
    ScalarReady i (uses [a.toNat, a.toNat + 1, b.toNat] [d.toNat]) s g ix sp → censusGrant s g.vd ≠ 0 →
    (¬ BatchesDone s g ix sp ∨ ¬ ready ∨ freeCensus s g.core g.vd = none → ∃ u, exec i s = .next u ∧ Held s u g) ∧
    (∀ e, BatchesDone s g ix sp → ready → freeCensus s g.core g.vd = some e → ∃ u q h k, exec i s = .next u ∧
      u.solicits = s.solicits ++ [q] ∧ q.vd = g.vd ∧ q.gid = g.gid ∧ q.core = g.core ∧ q.ix = e ∧ q.op = op ∧ q.scope = scope ∧
      q.seq = ((s.core g.core).censusSeq + 1) % 2 ^ 16 ∧ (u.core g.core).censusSeq = q.seq ∧ q.mark = pairAt g ix a.toNat ∧
      q.arg = g.sval ix b.toNat ∧ q.complete = false ∧ q.named = none ∧ q.balance = 0 ∧ q.reported = 0 ∧
      q.arriving = (coresOf s g.vd).filter (fun c => match scope with
        | 0 => c / 12 == g.core / 12
        | 1 => c / 36 == g.core / 36
        | _ => true) ∧ q.cores = q.arriving.length ∧
      q.value = (match op with
        | 2 => (0x7FFFFFFFFFFFFFFF : DWord)
        | 3 => 0x8000000000000000
        | _ => 0) ∧
      u.reg g.gid ix d.toNat = BitVec.ofNat 32 (2 ^ 16 * q.seq + 2 ^ 8 * g.core + e) ∧
      (∀ n, n ≠ d.toNat → u.reg g.gid ix n = s.reg g.gid ix n) ∧ u.group? g.gid = some h ∧ h.split? ix = some k ∧
      k.pc = sp.pc + 1 ∧ h.vregs = g.vregs ∧ h.preds = g.preds ∧ h.flags = g.flags ∧ u.mem = s.mem)) ∧
  (∀ (s : State) (g : Group) (ix : Nat) (sp : Split) (d : BitVec 6) (a : BitVec 7) (t : BitVec 2) (q : Solicit),
    let i := Instr.census d a t
    let token := (g.sval ix a.toNat).toNat
    ScalarReady i (uses [a.toNat] [d.toNat, d.toNat + 1, d.toNat + 2]) s g ix sp → g.status = .running →
    residentOn s g.core g.vd = true →
    s.solicits.find? (fun q => 2 ^ 16 * q.seq + 2 ^ 8 * q.core + q.ix == token - 16 * (token / 16 % 16) && q.gid == g.gid &&
      q.named == none) = some q → s.solicits.filter (fun r => r.sid == q.sid) = [q] →
    (q.complete = false → ∃ u h, exec i s = .next u ∧ GoesOnWord i s u g ix sp ∧ u.mem = s.mem ∧ u.group? g.gid = some h ∧
      h.locks = g.locks ++ [(ix, d.toNat), (ix, d.toNat + 1), (ix, d.toNat + 2)] ∧
      u.solicits = s.solicits.map fun r => if r.sid == q.sid then { q with named := some (ix, sp.born, d.toNat) } else r) ∧
    (q.complete = true → q.orphan = false →
      let v : DWord := if q.op = 0 then BitVec.ofNat 64 q.count else q.value
      ∃ u, exec i s = .next u ∧ u.solicits = s.solicits.filter (fun r => r.sid != q.sid) ∧ u.mem = s.mem ∧
        u.reg g.gid ix d.toNat = v.extractLsb' 0 32 ∧ u.reg g.gid ix (d.toNat + 1) = v.extractLsb' 32 32 ∧
        u.reg g.gid ix (d.toNat + 2) = BitVec.ofNat 32 q.count ∧
        ∀ n, n < d.toNat ∨ d.toNat + 2 < n → u.reg g.gid ix n = s.reg g.gid ix n)) ∧
  (∀ (s : State) (g : Group) (ix : Nat) (sp : Split) (a : BitVec 7) (t : BitVec 2) (r : Responder),
    let i := Instr.respond a t
    ScalarReady i { reads := [a.toNat, a.toNat + 1], ban := 2 } s g ix sp → g.responder = some r → r.sent = none →
    (BatchesDone s g ix sp →
      Becomes i s g ix sp (fun h => { h with responder := some { r with sent := some (pairAt g ix a.toNat) } }) id) ∧
    (¬ BatchesDone s g ix sp → ∃ u, exec i s = .next u ∧ Held s u g))

namespace Sys2Proof.Machine

/-! ### Queues, cancellation, counters, regrouping, notify registers and YDONE (R189, R325, R326, R328, R396, R434) -/

/-- The accesses of a scalar instruction that makes its own checks reach `rs` (R369). -/
def Translates (s : State) (g : Group) (kind : AccKind) (width : Nat) (addrs : List Nat) (rs : List Reached) : Prop :=
  ∃ s1, reachAll (issueState s g) (prunePend g (s.now g.core)) { space := 2, kind := kind, fe := 0, width := width, fid := 0x03 }
    (addrs.map fun a => (127, a)) [] none [] [] = .go s1 rs

/-- A form of CANCEL whose word at byte `off` of the block or record can be written: bit 0 of that word is set at once, and no
other byte changes. -/
def Cancels (mk : BitVec 7 → BitVec 2 → Instr) (align off : Nat) : Prop :=
  ∀ (s : State) (g : Group) (ix : Nat) (sp : Split) (a : BitVec 7) (t : BitVec 2) (r : Reached) (vd at_ : Nat),
    let i := mk a t
    let addr := (pairAt g ix a.toNat).toNat
    ScalarReady i (uses [a.toNat, a.toNat + 1] []) s g ix sp → addr < 2 ^ 52 → addr % align = 0 →
    Translates s g .write 4 [addr + off] [r] → Uncounted [r] → r.place = .hbm vd at_ → badLine s r.place = none →
    s.memOk = true → s.trackers = [] →
    ((∀ e ∈ s.stores, e.gid = g.gid → e.meets r.place.key 4 = false) →
      ∃ u, exec i s = .next u ∧ GoesOnWord i s u g ix sp ∧ u.stores = s.stores ∧
        ∀ k, u.mem.read k = if k = r.place.key then s.mem.read k ||| 1 else s.mem.read k) ∧
    (∀ e ∈ s.stores, e.gid = g.gid → e.meets r.place.key 4 = true → ∃ u, exec i s = .next u ∧ Held s u g)

end Sys2Proof.Machine

/-- R325: the five forms of CANCEL set CXL of a queue record, or bit 0 of the CANCEL word at offset 12 of a counter block, and
wait while a store of their own group to that word is on its way. -/
def Sys2Proof.Machine.CancelSetsItsWord : Prop :=
  Cancels .cancelUnit 64 0 ∧ Cancels .cancelLaunch 16 12 ∧ Cancels .cancelGraph 16 12 ∧ Cancels .cancelPhase 16 12 ∧
  Cancels .cancelJob 16 12

/-- R326, R328: CTRRD starts one 16-byte acquire load of a block into four registers, counted on wc0; QPUSH of 1 to 16 records to
a queue of the device is counted on wc2 and stands, with nothing done yet, at the end of the pushes. -/
def Sys2Proof.Machine.CtrrdAndQpushStart : Prop :=
  (∀ (s : State) (g : Group) (ix : Nat) (sp : Split) (d : BitVec 6) (a : BitVec 7) (t : BitVec 2) (r : Reached),
    let i := Instr.ctrrd d a t
    let addr := (pairAt g ix a.toNat).toNat
    ScalarReady i (uses [a.toNat, a.toNat + 1] ((List.range 4).map (d.toNat + ·))) s g ix sp → addr < 2 ^ 52 → addr % 16 = 0 →
    Translates s g .read 16 [addr] [r] → g.wc.getD 0 0 < 255 →
    ∃ u, exec i s = .next u ∧ GoesOnWord i s u g ix sp ∧ CountedOn s u g 0 ∧
      newLoad s u g (scalarOrd s ix sp) (some 4) [(r.place, 16, .sregs4 ix d.toNat)] ∧ (Uncounted [r] → u.mem = s.mem)) ∧
  (∀ (s : State) (g : Group) (ix : Nat) (sp : Split) (d : BitVec 6) (a b : BitVec 7) (f : BitVec 4) (t : BitVec 2) (q : Queue)
    (rs : List Reached),
    let i := Instr.qpush d a b f t
    let n := f.toNat + 1
    let addr := (pairAt g ix b.toNat).toNat
    ScalarReady i (uses [a.toNat, b.toNat, b.toNat + 1] [d.toNat]) s g ix sp →
    queueOf s g.vd (g.sval ix a.toNat).toNat = some q → pushBreach g addr n = none →
    Translates s g .read 64 (if 2 ^ 63 ≤ addr then [] else (List.range n).map fun k => addr + 64 * k) rs → g.wc.getD 2 0 < 255 →
    ∃ u p, exec i s = .next u ∧ GoesOnWord i s u g ix sp ∧ CountedOn s u g 2 ∧ u.pushes = s.pushes ++ [p] ∧
      p.vd = g.vd ∧ p.gid = g.gid ∧ p.q = (g.sval ix a.toNat).toNat ∧ p.base = q.base ∧ p.ctrl = q.ctrl ∧ p.size = 2 ^ q.logsz ∧
      p.count = n ∧ p.src = some (if 2 ^ 63 ≤ addr then .localSp (addr % 2 ^ 32) else .dev addr) ∧ p.post = none ∧
      p.stage = 0 ∧ p.split = ix ∧ p.reg = d.toNat ∧ p.ord = scalarOrd s ix sp ∧ (Uncounted rs → u.mem = s.mem))

namespace Sys2Proof.Machine

/-- What a group brings to a regroup bin, for `live` registers of its active lanes in ascending order (R189, R190). -/
def Brings (c : Contrib) (g : Group) (ix : Nat) (sp : Split) (live : Nat) : Prop :=
  let lanes := (List.range 96).filter fun n => (maskAt g ix 60).getLsbD n
  c.rank = g.rank ∧ c.slot = g.slot ∧ c.sregs = g.sregs.take 16 ∧ c.fmt = sp.fmt ∧
  c.lanesIn.map (·.1) = lanes.map (fun n => (List.range live).map fun r => g.lane r n) ∧
  c.lanesIn.map (fun p => (List.range 24).map p.2.1.getLsbD) =
    lanes.map (fun n => (List.range 24).map fun k => laneBit (g.preds.getD k 0) n) ∧
  c.lanesIn.map (·.2.2) = lanes.map fun n => g.settleAll.flag n

/-- The open regroup bin of a group's device and launch for a resume index (R185). -/
def regroupBinAt (s : State) (g : Group) (code : Nat) : Option Bin := openBin s g.core .regroup g.vd g.launch.lid code

/-- A bin of the group's core has fired (R186). -/
def HasFired (t : State) (g : Group) (bin : Bin) : Prop :=
  ∃ b ∈ (t.core g.core).bins, b.bix = bin.bix ∧ b.fired = true ∧ b.contribs = bin.contribs ∧ b.args = bin.args

/-- The split has not gone on: it issues at its word again. -/
def StillAt (h : Group) (ix : Nat) (sp : Split) : Prop := ∃ q, h.split? ix = some q ∧ q.pc = sp.pc ∧ q.state = sp.state ∧ q.block = sp.block

end Sys2Proof.Machine

/-- R185, R189: REGROUP of a group with one live split, whose batches and operations are done, ends the group and adds it to the open
bin of the resume index, or to a new bin at the lowest free one; an open bin without room fires first, and the next one carries
its counts on; REGROUP waits while no bin may be opened, and until its group's staged window stores are written back. -/
def Sys2Proof.Machine.RegroupJoinsABin : Prop :=
  ∀ (s : State) (g : Group) (ix : Nat) (sp : Split) (a b : BitVec 7) (t : BitVec 2),
    let i := Instr.regroup a b t
    let na := (g.sval ix a.toNat).toNat
    let nb := (g.sval ix b.toNat).toNat
    let code := sp.pc + 1
    let lanes := ((List.range 96).filter fun n => (maskAt g ix 60).getLsbD n).length
    ScalarReady i { reads := [a.toNat, b.toNat], ban := 2 } s g ix sp → ix < 8 → g.liveSplits.length ≤ 1 → 1 ≤ na → na ≤ 96 →
    nb ≤ g.launch.vregs → g.responder = none → binGrant s g.vd ≠ 0 → code < g.launch.slen →
    (¬ BatchesDone s g ix sp ∨ groupDrained (issueState s g) g 4 = false → ∃ u, exec i s = .next u ∧ Held s u g) ∧
    (BatchesDone s g ix sp → groupDrained (issueState s g) g 4 = true → s.stagedLines g.vd g.gid ≠ [] →
      ∃ l ∈ s.stagedLines g.vd g.gid, ∃ u h, exec i s = .next u ∧ u.group? g.gid = some h ∧ StillAt h ix sp ∧
        u.mem = (s.writeLine g.vd g.gid l).mem ∧ u.hub.staged = (s.writeLine g.vd g.gid l).hub.staged) ∧
    (BatchesDone s g ix sp → groupDrained (issueState s g) g 4 = true → s.stagedLines g.vd g.gid = [] →
      (regroupBinAt s g code = none → freeBin s g.core g.vd = none → ∃ u, exec i s = .next u ∧ Held s u g) ∧
      (∀ k, regroupBinAt s g code = none → freeBin s g.core g.vd = some k → 2 ≤ na →
        (∀ r ∈ (s.core g.core).carries, r.vd ≠ g.vd ∨ r.launch.lid ≠ g.launch.lid ∨ r.code ≠ code) →
        ∃ u bin c, exec i s = .next u ∧ u.group? g.gid = none ∧ regroupBinAt u g code = some bin ∧ bin.bix = k ∧
          bin.declared = na ∧ bin.live = nb ∧ bin.arrivals = 1 ∧ bin.contribs = [c] ∧ Brings c g ix sp nb) ∧
      (∀ bin, regroupBinAt s g code = some bin → 96 < bin.size + lanes →
        (s.core g.core).bins.filter (fun d => d.bix == bin.bix) = [bin] →
        (freeBin s g.core g.vd = none → ∃ u h, exec i s = .next u ∧ u.group? g.gid = some h ∧ StillAt h ix sp ∧
          HasFired u g bin) ∧
        (∀ k, freeBin s g.core g.vd = some k → bin.arrivals + 1 ≠ bin.declared → ∃ u next c, exec i s = .next u ∧
          u.group? g.gid = none ∧ HasFired u g bin ∧ regroupBinAt u g code = some next ∧ next.bix = k ∧
          next.declared = bin.declared ∧ next.live = bin.live ∧ next.arrivals = bin.arrivals + 1 ∧ next.contribs = [c] ∧
          Brings c g ix sp bin.live)) ∧
      (∀ bin, regroupBinAt s g code = some bin → bin.size + lanes ≤ 96 → bin.arrivals + 1 ≠ bin.declared →
        ∃ u c, exec i s = .next u ∧ u.group? g.gid = none ∧ Brings c g ix sp bin.live ∧
          regroupBinAt u g code = some { bin with contribs := bin.contribs ++ [c], arrivals := bin.arrivals + 1 }))

/-- R396, R434, R471: WAITN takes the value of a full notify register that no earlier waiter waits for, and otherwise joins the
register's waiters and holds its register, and issues once no higher slot has joined them in its cycle; YDONE ends the handler split, after which the group is saved or its splits issue
again; elsewhere it takes the handler fault. -/
def Sys2Proof.Machine.WaitnAndYdone : Prop :=
  (∀ (s : State) (g : Group) (ix : Nat) (sp : Split) (d : BitVec 6) (a : BitVec 7) (t : BitVec 2),
    let i := Instr.waitn d a t
    let n := (g.sval ix a.toNat).toNat
    ScalarReady i (uses [a.toNat] [d.toNat]) s g ix sp → n < 256 →
    (waitLate s g n = true → ∃ u, exec i s = .next u ∧ Held s u g) ∧
    (waitLate s g n = false → (∀ w ∈ (s.vd g.vd).waiters, w.n ≠ n) →
    ((∀ r ∈ (s.vd g.vd).notify, r.n = n → r.full = false) → ∃ u h w, exec i s = .next u ∧ GoesOnWord i s u g ix sp ∧
      (u.vd g.vd).waiters = (s.vd g.vd).waiters ++ [w] ∧ w.n = n ∧ w.gid = g.gid ∧ w.split = ix ∧ w.reg = d.toNat ∧
      u.group? g.gid = some h ∧ h.locks = g.locks ++ [(ix, d.toNat)] ∧ u.mem = s.mem) ∧
    (∀ r, (s.vd g.vd).notify.find? (fun r => r.n == n && r.full) = some r → residentOn s g.core g.vd = true →
      ∃ u, exec i s = .next u ∧ u.reg g.gid ix d.toNat = r.value ∧
        (∀ k, k ≠ d.toNat → u.reg g.gid ix k = s.reg g.gid ix k) ∧
        (u.vd g.vd).waiters = (s.vd g.vd).waiters ∧ (∀ k ∈ (u.vd g.vd).notify, k.n = n → k.full = false) ∧ u.mem = s.mem))) ∧
  (∀ (s : State) (g : Group) (ix : Nat) (sp : Split) (t : BitVec 2), ScalarReady (.ydone t) {} s g ix sp →
    (ix ≠ 8 → g.status = .running → ∃ u, exec (.ydone t) s = .next u ∧ Faults (.ydone t) s u g ix sp 0x0B 0 3) ∧
    (∀ h, ix = 8 → g.handler = some h →
      (¬ BatchesDone s g ix sp → ∃ u, exec (.ydone t) s = .next u ∧ Held s u g) ∧
      (BatchesDone s g ix sp → ∃ u k, exec (.ydone t) s = .next u ∧ u.group? g.gid = some k ∧ u.mem = s.mem ∧
        (h.resume = true → k = { g with pend := k.pend, handler := none }) ∧
        (h.resume = false → k = { g with pend := k.pend, handler := none, status := .savedCoop,
                                         cycBefore := g.cycBefore + (s.now g.core - g.cycSince), cycSince := s.now g.core }))))

namespace Sys2Proof.Machine

/-! ### The porter's and the engine's events (R221, R227, R228, R232, R234, R242 to R260) -/

/-- `n` bytes stand from key `a` up after a step, and every other byte is as it was. -/
def WritesBytes (s t : State) (a n : Nat) (f : Nat → Byte) : Prop :=
  (∀ k, k < n → t.mem.read (a + k) = f k) ∧ ∀ k, k < a ∨ a + n ≤ k → t.mem.read k = s.mem.read k

/-- The only copy of a number becomes `c`. -/
def CopyBecomes (s t : State) (c : Copy) : Prop := t.copies = s.copies.map fun k => if k.id == c.id then c else k

end Sys2Proof.Machine

/-- R221, R227, R228, R232 to R235: COPY_ADMIT keeps in mind that a copy's pannier was filling while its other waits last, claims
the bytes of a copy on its share, and admits a claimed one that has room for its seals and entries, and waits for nothing
else; COPY_PORTION_TAKE gives the next portion its entries; PORTER_DELIVERY moves an interval and counts it;
PANNIER_READ_END takes a reader's read off. -/
def Obligations.PorterMovesCopies : Prop :=
  (∀ (s : State) (id : Nat) (c : Copy) (g : Group), s.copies.find? (fun c => c.id == id) = some c → s.group? c.gid = some g →
    c.admitted = false →
    (c.claimed = false → g.status = .running → (g.frozen = true → c.who = 8) → copyArmed s c = true → copyBehind s c = false →
      copyMay s c = false → ∃ t, exec (.copyAdmit id) s = .next t ∧ t = { s with copies := t.copies } ∧
        CopyBecomes s t { c with armed := true }) ∧
    (c.claimed = false → g.status = .running → (g.frozen = true → c.who = 8) →
      (c.armed = true ∨ panIs s c.vd c.panCore c.pan .filling = true ∧ residentOn s c.panCore c.vd = true) →
      copyBehind s c = false →
      (∀ p ∈ peerSources c.all, panIs s c.vd p.1 p.2 .full = true ∧ residentOn s p.1 c.vd = true) →
      spadAccepted s c.gid c.ord.seq = true → acqPending s c.gid c.vd c.ord false = false → step4 s g c = none →
      ∃ t k, exec (.copyAdmit id) s = .next t ∧ k ∈ t.copies ∧ k.id = id ∧ k.claimed = true ∧ k.reading = peerSources c.all ∧
        (panAt t c.panCore c.pan).shares = (panAt s c.panCore c.pan).shares.zipIdx.map fun p =>
          if p.2 = c.share then { p.1 with claimed := p.1.claimed + c.len } else p.1) ∧
    (∀ e, c.claimed = true → sealsFit s (copySeals s g c) = true →
      takeEntries s c = some e → ∃ t, exec (.copyAdmit id) s = .next t ∧ CountedOn s t g 3 ∧ t.mem = s.mem ∧
        CopyBecomes s t { c with admitted := true, reserved := c.reserved + e.1, pool := c.pool + e.2,
                                 active := c.active ++ c.portions.headD [], portions := c.portions.drop 1 } ∧
        (∀ p ∈ copySeals s g c, p.2 ∈ (t.core p.1).seals) ∧
        (∀ x ∈ c.all, ∀ core a, dstSpad s c x = some (core, a) → ∀ n ∈ granulesOf a x.len, granuleEmpty t core n = true))) ∧
  (∀ (s : State) (id : Nat) (c : Copy) (e : Nat × Nat), s.copies.find? (fun c => c.id == id) = some c → c.admitted = true →
    c.portions ≠ [] → takeEntries s c = some e → ∃ t, exec (.copyPortionTake id) s = .next t ∧
      e.1 + e.2 = transfersOf (c.portions.headD []) ∧ t = { s with copies := t.copies } ∧
      CopyBecomes s t { c with reserved := c.reserved + e.1, pool := c.pool + e.2,
                               active := c.active ++ c.portions.headD [], portions := c.portions.drop 1 }) ∧
  (∀ (s : State) (id off len a b core : Nat) (c : Copy) (g : Group) (y : Xfer),
    s.copies.find? (fun c => c.id == id) = some c → s.group? c.gid = some g → intervalOf c off len = some y →
    movable s c y off len = true → y.src = .localSp a → y.dst = .localSp b → c.read = [] → c.core = core → c.reading = [] →
    (s.core core).poison = [] → s.memOk = true → (panAt s c.panCore c.pan).state = .filling →
    (∀ e ∈ s.stores, e.stage = .point → e.loc.isSpad = true → e.meets (Loc.spad core (384 * c.spBase + b)).key len = false) →
    ∃ t, exec (.porterDelivery id off len .ok) s = .next t ∧
      WritesBytes s t (Loc.spad core (384 * c.spBase + b)).key len (fun k =>
        (copyBytesOf c.il4 (s.agentBytes core c.vd (.spad core (384 * c.spBase + a)) len)).getD k 0) ∧
      (∀ sh, (panAt s c.panCore c.pan).shares[c.share]? = some sh →
        (panAt t c.panCore c.pan).shares[c.share]? = some { sh with delivered := sh.delivered + len }) ∧
      (∀ k ∈ t.copies, k.id = id → k.delivered = c.delivered + len ∧ k.active = cutPieces c.active off len)) ∧
  (∀ (s : State) (id core e : Nat) (c : Copy), s.copies.find? (fun c => c.id == id) = some c → c.admitted = true →
    c.allRead = true → c.reading = [(core, e)] → ∃ t, exec (.pannierReadEnd id) s = .next t ∧
      CopyBecomes s t { c with reading := [] } ∧
        panAt t core e = { panAt s core e with inflight := (panAt s core e).inflight - 1 }.asOf (t.now core))

/-- R242, R244 to R246, R251: ENGINE_ADMIT puts an operation whose turn has come at the end of the admission order, one in a
cycle and of one cycle's the lower group slot first; TOKEN_GRANT
gives the first asking engine a token of its device; PASS_STREAM_START starts the oldest pass whose slot is ready. -/
def Sys2Proof.Machine.EngineAdmitsGrantsAndStreams : Prop :=
  (∀ (s : State) (id : Nat) (o : EngOp) (g : Group), s.engops.find? (fun o => o.id == id) = some o → s.group? o.gid = some g →
    o.admitted = false → g.status = .running → (g.frozen = true → o.who = 8) → residentOn s o.core o.vd = true →
    (∀ e, o.pan = some e → panIs s o.vd (panCoreOf o) e .full = true ∧ residentOn s (panCoreOf o) o.vd = true) →
    queueRoom s o.core o.slot = true → spadAccepted s o.gid o.ord.seq = true → acqPending s o.gid o.vd o.ord false = false →
    portBehind s o = false → slotMissing s o = none → loadOut s o = none →
    ∃ t, exec (.engineAdmit id) s = .next t ∧ t.mem = s.mem ∧
      t.engops = s.engops.filter (fun k => k.id != id) ++ [{ o with admitted := true, admittedAt := t.now o.core }] ∧
      t.now o.core = max (s.now o.core) (s.core o.core).engine.portAt ∧ (t.core o.core).engine.portAt = t.now o.core + 1 ∧
      (o.counted = true → CountedOn s t g 3) ∧
      ∀ e, o.pan = some e → panAt t (panCoreOf o) e =
        { panAt s (panCoreOf o) e with inflight := (panAt s (panCoreOf o) e).inflight + 1 }) ∧
  (∀ (s : State) (core vd : Nat), s.hub.tokenReqs.find? (fun r => r.1 == core) = some (core, vd) →
    s.hub.tokenReqs.find? (fun r => r.2 == vd) = some (core, vd) → tokensHeld s (some vd) < max 1 (tokShare s vd) →
    tokensHeld s none < tokenPool s → ∃ t, exec (.tokenGrant core) s = .next t ∧ (t.core core).engine.token = some vd ∧
      (∀ c, c ≠ core → t.core c = s.core c) ∧ t.hub = { s.hub with tokenReqs := s.hub.tokenReqs.filter (fun r => r.1 != core) } ∧
      t = { s with cores := t.cores, hub := t.hub }) ∧
  (∀ (s : State) (core n : Nat) (o : EngOp), oldestPass s core = some o → o.slotNo = some n → o.streaming = false →
    (s.core core).engine.token = some o.vd → loadBefore (engBefore s o) o.vd n = false → slotOf s core o.vd n = .ready →
    ∃ t, exec (.passStreamStart core) s = .next t ∧ (∀ k ∈ t.engops, k.id = o.id → k.streaming = true) ∧
      (∃ k ∈ t.engops, k.id = o.id) ∧ t.mem = s.mem ∧
      t.engops.map (fun k => { k with streaming := false }) = s.engops.map (fun k => { k with streaming := false }))

namespace Sys2Proof.Machine

/-- The exact sum of products of two rows of signed bytes (R149). -/
def byteProducts (a b : List Byte) : Int := ((a.zip b).map fun p => p.1.toInt * p.2.toInt).sum

end Sys2Proof.Machine

/-- R149, R250 to R252: ACC_ROW_UPDATE replaces the next row of the streaming pass by the update of its 128 elements from the
slot's columns; for type .i8 every element grows by the exact sum of products, modulo 2^32, from zero with .z. -/
def Sys2Proof.Machine.AccRowUpdateAccumulates : Prop :=
  ∀ (s : State) (core n : Nat) (z diag : Bool) (fmt : Word) (r : PassRow) (rest : List PassRow) (lanes : Option LaneMask)
    (o : EngOp), oldestPass s core = some o → o.kind = .pass n z diag fmt (r :: rest) lanes → o.streaming = true →
    accBlocked s o [r.acc] [r.acc] = false → rowPoison s o r z = none →
    let old := accRow s core r.acc
    let rows := rowBytes s o r
    ∃ t, exec (.accRowUpdate core) s = .next t ∧ t.mem = s.mem ∧ (∀ k, k ≠ r.acc → accRow t core k = accRow s core k) ∧
      accRow t core r.acc = ((updateRow s core n z diag fmt old.1 rows.1 rows.2).1,
        (if z then 0 else old.2) ||| (updateRow s core n z diag fmt old.1 rows.1 rows.2).2) ∧
      (fmtA fmt = 0x11 → (accRow t core r.acc).2 = (if z then 0 else old.2) ∧
        ∀ c, c < 128 → (accRow t core r.acc).1.getD c 0 = (if z then 0 else old.1.getD c 0) + BitVec.ofInt 32
          (let cut := fun (l : List Byte) => if diag then (l.drop (24 * (c / 8))).take 24 else l
           byteProducts (cut rows.1) (cut (s.bytesAt (.slot core n (384 * c)) 384))))

namespace Sys2Proof.Machine

/-- An admitted operation that nothing blocks and that reads no poisoned row. -/
def MayComplete (s : State) (id : Nat) (o : EngOp) : Prop :=
  s.engops.find? (fun o => o.id == id) = some o ∧ o.admitted = true ∧ accBlocked s o o.accReads o.accWrites = false ∧
  accReadPoison s o = none

/-- ENGINE_COMPLETE ends the operation: it is gone, and its group's counter of engine operations is one lower if it was
counted. -/
def EngineEnds (id : Nat) (o : EngOp) (s t : State) : Prop :=
  exec (.engineComplete id) s = .next t ∧ t.engops = s.engops.filter (fun k => k.id != id) ∧
  ∀ g, s.group? o.gid = some g → ∃ h, t.group? o.gid = some h ∧
    ∀ k, h.wc.getD k 0 = g.wc.getD k 0 - if k = 3 ∧ o.counted = true then 1 else 0

end Sys2Proof.Machine

/-- R250, R257 to R261: ENGINE_COMPLETE of ACCZ zeroes its rows and their flags, of ACCRD brings the elements or the flags to the
lanes, of ACCWR writes its elements, of ACCST stores its rows, of a streamed pass and of a finished load ends it. -/
def Sys2Proof.Machine.EngineOperationsComplete : Prop :=
  ∀ (s : State) (id : Nat) (o : EngOp), MayComplete s id o →
    (∀ a n, o.kind = .accz a n → ∃ t, EngineEnds id o s t ∧ t.mem = s.mem ∧
      ∀ r, accRow t o.core r = if a ≤ r ∧ r < a + n then (List.replicate 128 0, 0) else accRow s o.core r) ∧
    (∀ spec reads fl, o.kind = .accrd spec reads fl → spec ≠ 0x3FE → (reads.map (·.1)).Nodup → (∀ r ∈ reads, r.1 < 96) →
      ∀ g, s.group? o.gid = some g → ∃ t h, EngineEnds id o s t ∧ t.mem = s.mem ∧ t.group? o.gid = some h ∧
        (∀ r ∈ reads, h.lane spec r.1 = if fl then ((accRow s o.core r.2.1).2).setWidth 32
          else (accRow s o.core r.2.1).1.getD r.2.2 0) ∧
        ∀ k l, l < 96 → k ≠ spec ∨ l ∉ reads.map (·.1) → h.lane k l = g.lane k l) ∧
    (∀ w, o.kind = .accwr [w] → w.2.1 < (accRow s o.core w.1).1.length → ∃ t, EngineEnds id o s t ∧ t.mem = s.mem ∧
      (accRow t o.core w.1).2 = (accRow s o.core w.1).2 ∧
      (∀ c, c < 128 → (accRow t o.core w.1).1.getD c 0 = if c = w.2.1 then w.2.2 else (accRow s o.core w.1).1.getD c 0) ∧
      ∀ r, r ≠ w.1 → accRow t o.core r = accRow s o.core r) ∧
    (∀ row dst sat rm, o.kind = .accst row 1 dst 0x43 rm sat → s.memOk = true → portBusy s o.core dst 512 = false →
      o.read = [] → (accRow s o.core row).1.length = 128 → ∃ t, EngineEnds id o s t ∧
        WritesBytes s t (Loc.spad o.core dst).key 512 fun k =>
          (natLe 4 ((accRow s o.core row).1.getD (k / 4) 0).toNat).getD (k % 4) 0) ∧
    (∀ n z diag fmt lanes, o.kind = .pass n z diag fmt [] lanes → ∃ t, EngineEnds id o s t ∧ t.mem = s.mem) ∧
    (∀ n src cols bx wx all, o.kind = .mloadb n src cols bx wx all [] → ∃ t, EngineEnds id o s t ∧ t.mem = s.mem)

/-- R242, R243: SLOT_LOAD takes the load's point in a target's order, then marks the slot loading, then writes the slot: the columns
read from the source, zeros after them, and the slot is ready. -/
def Sys2Proof.Machine.SlotLoadFillsTheSlot : Prop :=
  ∀ (s : State) (id target n cols : Nat) (src : Place) (bx : Bool) (wx : Option Nat) (all left : List Nat) (out : LineOut)
    (o : EngOp), s.engops.find? (fun o => o.id == id) = some o → o.kind = .mloadb n src cols bx wx all left →
    o.admitted = true → target ∈ left → (∀ p ∈ s.parks, p.copy ≠ some id) → residentOn s target o.vd = true →
    (pointOf s o target = none → ∃ t p, exec (.slotLoad id target out) s = .next t ∧ t.engops = s.engops ++ [p] ∧
      p.core = target ∧ p.kind = .point id n ∧ p.admitted = true ∧ t.mem = s.mem) ∧
    (∀ p, pointOf s o target = some p → loadWaits s p o.vd n = false → n < (s.core target).slots.length →
      (slotOf s target o.vd n ≠ .loading → ∃ t, exec (.slotLoad id target out) s = .next t ∧
        slotOf t target o.vd n = .loading ∧ t.mem = s.mem) ∧
      (∀ bs s1, slotOf s target o.vd n = .loading → s.memOk = true → cols ≤ 128 →
        readPieces s o src wx target n out ((List.range ((if bx then 432 else 384) * cols / 128)).map (128 * ·)) =
          (.bytes bs, s1) → (s1.vd o.vd).fenced = (s.vd o.vd).fenced → s1.mem = s.mem → s1.core target = s.core target →
        (s1.vd o.vd).part = (s.vd o.vd).part → bs.length = (if bx then 432 else 384) * cols →
        ∃ t, exec (.slotLoad id target out) s = .next t ∧ slotOf t target o.vd n = .ready ∧
          WritesBytes s t (Loc.slot target n 0).key 55296 (fun k =>
            if k < 384 * cols then bs.getD k 0
            else if 49152 ≤ k ∧ bx = true then bs.getD (384 * cols + (k - 49152)) 0 else 0) ∧
          ∀ k ∈ t.engops, k.id = id → k.kind = .mloadb n src cols bx wx all (left.filter fun c => c != target)))

namespace Sys2Proof.Machine

/-! ### Hand-offs, solicitations and responders: their events (R303 to R312) -/

/-- A new report to the census network stands behind the others (R310); `counts` tells if it stands for a responder that N
counts. -/
def Reports (s t : State) (x : Solicit) (report : Option Nat) (value : Option DWord) (counts : Bool) : Prop :=
  ∃ id, t.reports = s.reports ++
    [{ id := id, sid := x.sid, gen := x.gen, vd := x.vd, report := report, value := value, counts := counts }]

/-- The directories and the spawn bins of every core stay as they are. -/
def DirectoriesKept (s t : State) : Prop :=
  ∀ c, (t.core c).marks = (s.core c).marks ∧ (t.core c).bins = (s.core c).bins

/-- A record of a responder can be taken on a core: the device is granted no bin, so that it is discharged at once, or a
responder bin has room, or a bin is free (R308, R501). -/
def CanAnswer (s : State) (core vd : Nat) : Prop :=
  binGrant s vd = 0 ∨ (∃ b ∈ (s.core core).bins, b.kind = .responder ∧ b.vd = vd ∧ b.records.length < 96) ∨
  (freeBin s core vd).isSome

end Sys2Proof.Machine

/-- R303, R306, R307: MOVE_INSTALL puts the entry at the lowest free index of the receiver; MOVE_ACK frees the sender's entry and
turns what waited there, and was not answered late, into forwards; MOVE_FORWARD answers one at the receiver's entry, once;
MOVE_RELEASE makes the entry held and ends the move. -/
def Sys2Proof.Machine.MovesHandEntriesOver : Prop :=
  ∀ (s : State) (id : Nat) (mv : Move), s.moves.find? (fun m => m.id == id) = some mv →
    (∀ ix, mv.stage = .installing → mv.entry.move = some id → (∀ m ∈ (s.core mv.dst).marks, m.move ≠ some id) →
      markFind s mv.dst mv.vd mv.entry.mark mv.entry.base = none → freeMark s mv.dst mv.vd = some ix →
      (∀ m, lateFor s mv m = []) →
      ∃ t, exec (.moveInstall id) s = .next t ∧ { mv.entry with ix := ix } ∈ (t.core mv.dst).marks ∧
        t.moves = s.moves.map (fun m => if m.id == id then { m with stage := .acking } else m) ∧ t.mem = s.mem) ∧
    (mv.stage = .acking → ∃ t, exec (.moveAck id) s = .next t ∧ t.mem = s.mem ∧
      (t.core mv.src).marks = (s.core mv.src).marks.filter (fun m => m.move != some id) ∧
      (∀ m ∈ t.moves, m.id = id → m.stage = .releasing ∧ m.waiting = [] ∧
        m.forwards = mv.waiting.filter fun sid => !mv.late.contains sid) ∧
      (∀ x ∈ s.solicits, x.sid ∉ mv.waiting → x ∈ t.solicits) ∧
      ∀ c, c ≠ mv.src → t.core c = s.core c) ∧
    (∀ sid rest x m, mv.stage = .releasing → mv.forwards = sid :: rest → s.solicits.find? (fun x => x.sid == sid) = some x →
      (s.core mv.dst).marks.find? (fun m => m.move == some id) = some m →
      (sid ∈ m.answered → ∃ t, exec (.moveForward id) s = .next t ∧ Reports s t x none none false ∧ DirectoriesKept s t ∧
        ∀ k ∈ t.moves, k.id = id → k.forwards = rest) ∧
      (sid ∉ m.answered → CanAnswer s mv.dst x.vd → ∃ t, exec (.moveForward id) s = .next t ∧
        { m with answered := m.answered ++ [sid] } ∈ (t.core mv.dst).marks ∧ ∀ k ∈ t.moves, k.id = id → k.forwards = rest)) ∧
    (mv.stage = .releasing → mv.forwards = [] → ∃ t, exec (.moveRelease id) s = .next t ∧ t.mem = s.mem ∧
      t.moves = s.moves.filter (fun m => m.id != id) ∧ (t.core mv.dst).marks = (s.core mv.dst).marks.map (fun m =>
        if m.move == some id then { m with state := .held, move := none } else m))

/-- R299, R305, R310, R311: SOLICIT_RESOLVE answers the held entries of the mark at a core, waits on an arriving one, and reports the
obligations of the core with those of entries that left; CENSUS_REPORT adds a report or a discharge to its entry, which is
complete when every core has reported and the obligations are met. -/
def Sys2Proof.Machine.SolicitationsResolveAndCount : Prop :=
  (∀ (s : State) (sid core : Nat) (x : Solicit), core < 256 → s.solicits.find? (fun x => x.sid == sid) = some x →
    core ∈ x.arriving → (∀ y ∈ s.solicits, y.sid ≠ sid → y.vd = x.vd → ∀ k ∈ y.stuck, k.1 ≠ core) →
    (∀ k ∈ x.stuck, k.1 ≠ core) →
    let es := (marksOn s core x.vd).filter fun m => m.mark == x.mark
    let late := keyGet 0 (s.core core).departures sid
    let ended := fun (t : State) => ∀ y ∈ t.solicits, y.sid = sid → core ∉ y.arriving
    (es = [] → ∃ t, exec (.solicitResolve (256 * sid + core)) s = .next t ∧ Reports s t x (some late) none false ∧ ended t) ∧
    (∀ m, es = [m] → m.state = .held → sid ∈ m.answered →
      ∃ t, exec (.solicitResolve (256 * sid + core)) s = .next t ∧ Reports s t x (some late) none false ∧ ended t) ∧
    (∀ m, es = [m] → m.state = .held → sid ∉ m.answered → CanAnswer s core x.vd →
      ∃ t r, exec (.solicitResolve (256 * sid + core)) s = .next t ∧ r ∈ t.reports ∧ r.sid = sid ∧ r.report = some (1 + late) ∧
        { m with answered := m.answered ++ [sid] } ∈ (t.core core).marks ∧ ended t) ∧
    (∀ m, es = [m] → m.state = .arriving → ∃ t, exec (.solicitResolve (256 * sid + core)) s = .next t ∧
      t.reports = s.reports ∧ DirectoriesKept s t ∧ ∀ y ∈ t.solicits, y.sid = sid → (core, m.ix, 0) ∈ y.stuck)) ∧
  (∀ (s : State) (id : Nat) (r : Report) (x : Solicit), s.reports.find? (fun r => r.id == id) = some r →
    s.solicits.filter (fun x => x.sid == r.sid) = [x] → x.orphan = false →
    let reported := x.reported + if r.report.isSome then 1 else 0
    let balance := match r.report with
      | some b => x.balance + (b : Int)
      | none => x.balance - 1
    let count := if r.report.isSome then x.count else (x.count + if r.counts then 1 else 0) % 2 ^ 32
    let value := if r.report.isSome then x.value else match x.op with
      | 1 => x.value + r.value.getD 0
      | 2 => let v := r.value.getD 0x7FFFFFFFFFFFFFFF; if x.value.slt v then x.value else v
      | 3 => let v := r.value.getD 0x8000000000000000; if x.value.slt v then v else x.value
      | 4 => x.value ||| r.value.getD 0
      | _ => 0
    let complete := x.complete || (reported == x.cores && balance == 0)
    (x.named = none ∨ complete = false → ∃ t, exec (.censusReport id) s = .next t ∧ t.mem = s.mem ∧
      t.reports = s.reports.filter (fun k => k.id != id) ∧ t.groups = s.groups ∧ t.solicits = s.solicits.map fun y =>
        if y.sid == r.sid then { x with reported := reported, balance := balance, count := count, value := value,
                                        complete := complete } else y) ∧
    (∀ ix born n g, x.named = some (ix, born, n) → complete = true → s.group? x.gid = some g → g.status = .running → n + 2 < 64 →
      (g.split? ix).map (·.born) = some born → residentOn s g.core g.vd = true →
      let v : DWord := if x.op = 0 then BitVec.ofNat 64 count else value
      ∃ t, exec (.censusReport id) s = .next t ∧ t.solicits = s.solicits.filter (fun y => y.sid != r.sid) ∧
        t.reg x.gid ix n = v.extractLsb' 0 32 ∧ t.reg x.gid ix (n + 1) = v.extractLsb' 32 32 ∧
        t.reg x.gid ix (n + 2) = BitVec.ofNat 32 count ∧ t.mem = s.mem))

/-- R308, R309: RESPONDER_START forms the group of the record that was spawned first, in the lowest free slot, with the tile, the
argument, the mark and the asker in its registers; RESPONDER_COMPLETE writes the staged stores of a responder that has drained
back, one window line at a time, and then ends it and sends its value or, without one, the identity. -/
def Obligations.RespondersStartAndComplete : Prop :=
  (∀ (s : State) (core vd slot row : Nat) (b : Bin) (r : RespRec) (slots : List Nat),
    hereNow s core vd = true → firstRecord s core vd = some (b, r) →
    freeSlots s core vd = slot :: slots → freeRows s core vd r.launch.vregs = some row → ∃ t g, 
    exec (.responderStart core vd) s = .next t ∧ g ∈ t.groups ∧ g.core = core ∧ g.slot = slot ∧ g.vd = vd ∧
      g.rowBase = row ∧ g.launch = r.launch ∧ g.status = .running ∧ g.responder = some { sid := r.sid, sent := none, team := r.team } ∧
      (∃ sp, g.splits[0]? = some sp ∧ sp.pc = r.entry ∧ sp.state = .running ∧ sp.mask = ~~~(0 : LaneMask)) ∧
      (let base : DWord := if r.base.getLsbD 63 then 0x8000000000000000 else r.base
       (List.range 11).map (fun n => g.sregs.getD n 0) = [0, 0, 0, 1, base.extractLsb' 0 32, base.extractLsb' 32 32,
         BitVec.ofNat 32 r.len, r.arg, r.mark.extractLsb' 0 32, r.mark.extractLsb' 32 32, BitVec.ofNat 32 r.asker]) ∧
      t.mem = s.mem) ∧
  (∀ (s : State) (gid : Nat) (g : Group) (r : Responder) (x : Solicit), s.group? gid = some g → g.responder = some r →
    g.status = .running → g.liveSplits = [] → g.handler = none → groupDrained s g 4 = true →
    s.solicits.find? (fun x => x.sid == r.sid) = some x →
    (s.stagedLines g.vd gid = [] → ∃ t k, exec (.responderComplete gid) s = .next t ∧ t.group? gid = none ∧ k ∈ t.reports ∧
      k.sid = r.sid ∧ k.report = none ∧ k.value = r.sent ∧ k.counts = true) ∧
    (s.stagedLines g.vd gid ≠ [] → ∃ l ∈ s.stagedLines g.vd gid,
      exec (.responderComplete gid) s = .next ({ s with free := s.free + 1 }.writeLine g.vd gid l)))

namespace Sys2Proof.Machine

/-! ### Bins, units and batches: their events (R93, R176 to R178, R186 to R191, R194, R324, R330, R331) -/

/-- Group `g` has started in a slot of a core, with register rows from `row` on, `sregs` in its first scalar registers and the
lanes of `mask`, at an entry index (R41 to R46). -/
def Started (g : Group) (core slot vd row : Nat) (l : Launch) (entry : Nat) (sregs : List Word) (mask : LaneMask) (fmt : Word) :
    Prop :=
  g.core = core ∧ g.slot = slot ∧ g.vd = vd ∧ g.rowBase = row ∧ g.launch = l ∧ g.status = .running ∧
  g.sregs = (List.range 48).map (fun n => sregs.getD n 0) ∧ g.batches = [] ∧ g.wc = [0, 0, 0, 0] ∧
  ∃ sp, g.splits[0]? = some sp ∧ sp.state = .running ∧ sp.pc = entry ∧ sp.mask = mask ∧ sp.fmt = fmt ∧
    ∀ n, 0 < n → n < 8 → (g.splits[n]?).map (·.state) = some .free

/-- The mask of the lowest `n` lanes. -/
def lowLanes (n : Nat) : LaneMask := BitVec.ofNat 96 (2 ^ n - 1)

end Sys2Proof.Machine

/-- R186 to R191: SPAWN_BIN_TIMER fires an open spawn bin of a resident device as the cycle ends in which its timer reaches its
value, and no sooner; BIN_GROUP_RESIDENT forms the group of a fired
bin in the lowest free slot: the lanes of a spawn bin hold their arguments in v0, those of a regroup bin what its contributor
brought. -/
def Sys2Proof.Machine.BinsFireAndFormGroups : Prop :=
  (∀ (s : State) (core n : Nat) (b : Bin), (s.core core).bins.find? (fun b => b.bix == n) = some b → b.kind = .spawn →
    b.fired = false → b.args ≠ [] → residentOn s core b.vd = true →
    let limit := match (s.vd b.vd).ctx with
      | some c => c.bintimer
      | none => 1024
    (limit < b.timer + (s.now core - b.timerAt) → b.timerAt ≤ s.now core → b.timer ≤ limit →
      ∃ t, exec (.spawnBinTimer core n) s = .next t ∧
        ({ b with fired := true, launch := withJob s b.vd b.launch } : Bin) ∈ (t.core core).bins) ∧
    (s.now core ≤ b.timerAt + (limit - b.timer) → exec (.spawnBinTimer core n) s = .next s)) ∧
  (∀ (s : State) (core n slot row : Nat) (slots : List Nat) (b : Bin),
    (s.core core).bins.find? (fun b => b.bix == n) = some b → b.fired = true → hereNow s core b.vd = true → freeSlots s core b.vd = slot :: slots → freeRows s core b.vd b.launch.vregs = some row →
    launchCancelled s b.vd b.launch = false →
    (b.kind = .spawn → b.args ≠ [] → b.args.length ≤ 96 → ∃ t g, exec (.binGroupResident core n) s = .next t ∧ g ∈ t.groups ∧
      Started g core slot b.vd row b.launch b.code [BitVec.ofNat 32 b.args.length] (lowLanes b.args.length) fmtReset ∧
      g.rank = (b.args.map (·.2)).headD 0 ∧ g.tracker = b.tracker ∧ t.mem = s.mem ∧
      (∀ k, k < b.args.length → g.lane 0 k = (b.args.map (·.1)).getD k 0) ∧ ∀ c ∈ (t.core core).bins, c.bix ≠ n) ∧
    (∀ c, b.kind = .regroup → b.contribs = [c] → c.lanesIn.length ≤ 96 → b.live ≤ 256 →
      ∃ t g, exec (.binGroupResident core n) s = .next t ∧ g ∈ t.groups ∧
      Started g core slot b.vd row b.launch b.code c.sregs (lowLanes c.lanesIn.length) c.fmt ∧
      g.rank = c.rank ∧ g.tracker = b.tracker ∧ t.mem = s.mem ∧ (∀ d ∈ (t.core core).bins, d.bix ≠ n) ∧
      (∀ k x, c.lanesIn[k]? = some x → (∀ r, r < b.live → g.lane r k = x.1.getD r 0) ∧ g.flag k = x.2.2 ∧
        ∀ q, q < 24 → laneBit (g.preds.getD q 0) k = x.2.1.getLsbD q)))

/-- R93, R176 to R178, R194, R279: GROUP_RETIRE writes the staged stores of a group with no live split whose operations are done
back, one window line at a time in an order that is not fixed, and then ends it; BATCH_START gives the
first ready batch of the only device that has one to an idle pipeline; BATCH_RESUME makes a suspended batch ready again when
what it waited for has cleared. -/
def Sys2Proof.Machine.GroupsRetireAndBatchesStart : Prop :=
  (∀ (s : State) (gid : Nat) (g : Group), s.group? gid = some g → g.status = .running → g.liveSplits = [] → g.handler = none →
    g.responder = none →
    (groupDrained s g 4 = true → s.stagedLines g.vd gid = [] → ∃ t, exec (.groupRetire gid) s = .next t ∧ t.group? gid = none) ∧
    (groupDrained s g 4 = true → s.stagedLines g.vd gid ≠ [] → ∃ l ∈ s.stagedLines g.vd gid,
      exec (.groupRetire gid) s = .next ({ s with free := s.free + 1 }.writeLine g.vd gid l)) ∧
    (groupDrained s g 4 = false → exec (.groupRetire gid) s = .next s)) ∧
  (∀ (s : State) (core pipe : Nat) (g : Group) (b : Batch), pipe < 4 → pipeHeld s core pipe = false →
    let slot := pipeSlot s core pipe
    (∀ q, q < pipe → pipeHeld s core q = true ∨ slot < pipeSlot s core q) →
    dueBefore s core (3 * slot) = none → firstBatch (readyBatches s core slot) = some (g, b) → (∀ x ∈ readyBatches s core slot, x.1.vd = g.vd) →
    s.group? g.gid = some g → ∃ t h, exec (.batchStart core pipe) s = .next t ∧ t.group? g.gid = some h ∧
      h = { g with batches := g.batches.map fun c => if c.bid == b.bid then
        { b with started := true, pipe := some pipe, nextSlot := max b.nextSlot slot } else c } ∧
      (t.core core).cyc = max (s.core core).cyc (3 * slot) ∧ t.mem = s.mem) ∧
  (∀ (s : State) (gid bid : Nat) (g : Group) (b : Batch), s.group? gid = some g → g.batch? bid = some b →
    b.suspended = true → g.frozen = false → groupIssues s g = true → blockClear s b.block = true →
    ∃ t h, exec (.batchResume gid bid) s = .next t ∧ t.group? gid = some h ∧ t.mem = s.mem ∧
      h = { g with batches := g.batches.map fun c => if c.bid == bid then { b with suspended := false } else c })

/-- R322, R324, R330, R331, R354: UNIT_PLACE places the task at the head of the queue whose turn it is, on the core chosen for it:
a group of one in the lowest free slot, with its index, argument and tile in its registers, its team's rows allotted and the job
block that its context names now; a JOBCTR that cannot be stops the queue instead. -/
def Sys2Proof.Machine.UnitPlaceStartsATask : Prop :=
  ∀ (s : State) (vd core slot row sp acc : Nat) (k : Queue) (p : Parsed) (slots : List Nat),
    ((allQueues s).map fun x => (x.1, x.2.q)).foldl (cancelHeads 16) s = s → pickQueue s = some (vd, k, p, core) →
    (∀ f, jobFault s vd = some f → ∃ t, exec .unitPlace s = .next t ∧ queueStopped t vd k.q = true ∧ t.groups = s.groups) ∧
    (jobFault s vd = none → p.kind = 1 → p.launch.team = 1 → hereNow s core vd = true → freeSlots s core vd = slot :: slots →
    freeRows s core vd p.launch.vregs = some row → freeTeamRows s core vd p.launch = some (sp, acc) → p.launch.image = none →
    ∃ t g, exec .unitPlace s = .next t ∧ g ∈ t.groups ∧ g.succ = p.succ ∧ g.spBase = sp ∧ g.spRows = p.launch.sprows ∧
      g.accBase = acc ∧ g.accRows = p.launch.accrows ∧ g.team = some s.fresh ∧ (∃ m ∈ t.teams, m.tid = s.fresh ∧ m.vd = vd) ∧
      Started g core slot vd row (withJob s vd p.launch) p.entry
        [BitVec.ofNat 32 p.index, BitVec.ofNat 32 p.index, 0, 1, p.arg.extractLsb' 0 32, p.arg.extractLsb' 32 32,
          p.tile.extractLsb' 0 32, p.tile.extractLsb' 32 32] (~~~(0 : LaneMask)) fmtReset)

namespace Sys2Proof.Machine

/-! ### Lines and queues: their events (R229, R321, R322, R327 to R329, R480, R481, R497) -/

/-- `n` bytes of a device's memory from an address on lie in its HBM space from `a` on (R364, R367). -/
def InHbm (s : State) (vd va a n : Nat) : Prop :=
  ∀ j, j < n → ∃ m, (s.vd vd).maps.find? (fun m => m.va ≤ va + j && va + j < m.va + m.size) = some m ∧ m.self = false ∧
    m.loc = 0 ∧ hbmAt m.runs (va + j - m.va) = a + j

/-- The word at a byte of a device's HBM space. -/
def wordIn (s : State) (vd a : Nat) : Nat := s.natAt (.hbm vd a) 4

/-- Memory is as before but for words of a device's HBM space. -/
def OnlyWords (s t : State) (vd : Nat) (at_ : List Nat) : Prop :=
  ∀ k, (∀ a ∈ at_, k < (Loc.hbm vd a).key ∨ (Loc.hbm vd a).key + 4 ≤ k) → t.mem.read k = s.mem.read k

/-- The `n` records from position `first` of a ring of `size` records at `a` of a device's HBM space hold bytes (R327). -/
def RingHolds (t : State) (vd a size first n : Nat) (byte : Nat → Byte) : Prop :=
  ∀ k, k < 64 * n → t.mem.read (Loc.hbm vd (a + (64 * first + k) % (64 * size))).key = byte k

end Sys2Proof.Machine

/-- R409, R480, R481: a line that comes back intact, or was never written under its key, completes its element as LOAD_COMPLETE
does; one whose own MAC fails is a failing line from then on, and the group that reads it faults with its address; one whose tree fails fences its device. -/
def Sys2Proof.Machine.LinesComeBackOrFail : Prop :=
  ∀ (s : State) (id el va' a : Nat) (o : LoadOp) (e : LoadEl) (r : OpRec) (g : Group),
    s.loads.find? (fun o => o.op == id) = some o → o.els.find? (fun p => p.1 == el) = some (el, e) → e.loc = .hbm o.vd a →
    e.va = va' → loadHeld s o (el, e) = false → earlierFree s o.gid o.ord = true → ownEarlierFree s o el = true →
    (exec (.lineReadReturn id el .ok) s = exec (.loadComplete id el) s) ∧
    (lineChecked s e.loc = false → exec (.lineReadReturn id el (.mac 0)) s = exec (.loadComplete id el) s) ∧
    (lineChecked s e.loc = true → s.ops.find? (fun r => r.op == id) = some r → r.gid = o.gid → s.group? o.gid = some g → g.status = .running →
      ∃ t h f, exec (.lineReadReturn id el (.mac 0)) s = .next t ∧ (a / 128, 0x17, 0) ∈ (t.vd o.vd).bad ∧ t.mem = s.mem ∧
        t.group? o.gid = some h ∧ h.status = .faulting ∧ h.faults = [f] ∧ f.code = 0x17 ∧ f.addr = va' / 128 * 128 ∧
        f.insn = r.insn ∧ f.spc = r.spc) ∧
    (∀ n, 0 < n → 0 < o.vd → (s.vd o.vd).fenced = false → ∃ t, exec (.lineReadReturn id el (.mac n)) s = .next t ∧
      (t.vd o.vd).fenced = true ∧ t.loads = s.loads)

/-- R327, R328: QPUSH_PUBLISH reserves positions in RES where there is room, and ends the push with 0 in sd where there is none;
it copies the records to the ring; and when PROD has reached them it advances PROD and writes the count to sd. -/
def Sys2Proof.Machine.PushesReserveCopyAndPublish : Prop :=
  ∀ (s : State) (id cp : Nat) (p : Push), s.memOk = true → s.pushes.find? (fun p => p.id == id && p.post.isNone) = some p →
    deviceWorks s p.vd = true → InHbm s p.vd p.ctrl cp 12 →
    (p.stage = 0 → storesDone s p.gid p.ord.seq 4 = true → loadsDone s p.gid p.ord = true →
      let res := wordIn s p.vd (cp + 8)
      let held := (res + 2 ^ 32 - wordIn s p.vd (cp + 4)) % 2 ^ 32
      ((queueOf s p.vd p.q).isSome → held + p.count ≤ p.size → ∃ t, exec (.qpushPublish id) s = .next t ∧
        wordIn t p.vd (cp + 8) = (res + p.count) % 2 ^ 32 ∧ OnlyWords s t p.vd [cp + 8] ∧ t.groups = s.groups ∧
        { p with stage := 1, first := BitVec.ofNat 32 res } ∈ t.pushes) ∧
      (p.size < held + p.count → p.reg < 64 → ((s.group? p.gid).bind fun g => g.split? p.split).isSome →
        ∃ t, exec (.qpushPublish id) s = .next t ∧ t.mem = s.mem ∧ t.pushes = s.pushes.filter (fun q => q.id != id) ∧
          t.reg p.gid p.split p.reg = 0)) ∧
    (∀ va rp bs, p.stage = 1 → p.src = some (.dev va) → hubBad s p.vd va (64 * p.count) = none →
      hubBytes s p.vd va (64 * p.count) = .ok bs → InHbm s p.vd p.base rp (64 * p.size) → p.count ≤ p.size →
      ∃ t, exec (.qpushPublish id) s = .next t ∧ t.groups = s.groups ∧ { p with stage := 2, records := [] } ∈ t.pushes ∧
        RingHolds t p.vd rp p.size p.first.toNat p.count (fun k => bs.getD k 0) ∧
        ∀ k, k < (Loc.hbm p.vd rp).key ∨ (Loc.hbm p.vd rp).key + 64 * p.size ≤ k → t.mem.read k = s.mem.read k) ∧
    (p.stage = 2 → wordIn s p.vd cp = p.first.toNat → p.reg < 64 → ((s.group? p.gid).bind fun g => g.split? p.split).isSome →
      ∃ t, exec (.qpushPublish id) s = .next t ∧ wordIn t p.vd cp = (p.first.toNat + p.count) % 2 ^ 32 ∧ OnlyWords s t p.vd [cp] ∧
        t.pushes = s.pushes.filter (fun q => q.id != id) ∧ t.reg p.gid p.split p.reg = BitVec.ofNat 32 p.count)

/-- R329: a batch of the courier, at 64 records or at the timeout, reserves positions of the depot and writes the oldest records
of the post there; DEPOT_PUBLISH advances the depot's PROD, when it has reached the batch, and the post's CONS. -/
def Sys2Proof.Machine.TheCourierMovesBatches : Prop :=
  (∀ (s : State) (vd q n cp pp dp rp : Nat) (k d : Queue) (i : Instr), s.memOk = true → queueOf s vd q = some k →
    courierMay s vd k = true → k.depot.toNat < 2 ^ 63 → InHbm s vd k.ctrl cp 12 → InHbm s vd k.base pp (64 * k.size) →
    InHbm s vd d.ctrl dp 12 → InHbm s vd d.base rp (64 * d.size) → (rp + 64 * d.size ≤ dp ∨ dp + 12 ≤ rp) →
    (s.vd vd).queues.find? (fun x => x.ctrl == k.depot.toNat) = some d →
    let held := (wordIn s vd cp + 2 ^ 32 - wordIn s vd (cp + 4)) % 2 ^ 32
    let cons := wordIn s vd (cp + 4)
    let res := wordIn s vd (dp + 8)
    ((i = .courierBatch vd q n ∧ 64 ≤ held ∧ 0 < n ∧ n ≤ 64) ∨ (i = .courierTimeout vd q ∧ 0 < held ∧ n = min held 64)) →
    hubFails s vd ((k.ctrl, 12) :: (List.range n).map fun j => (k.at_ (cons + j), 64)) = none →
    (res + 2 ^ 32 - wordIn s vd (dp + 4)) % 2 ^ 32 + n ≤ d.size →
    ∃ t p, exec i s = .next t ∧ p ∈ t.pushes ∧ p.post = some q ∧ p.first = BitVec.ofNat 32 res ∧ p.count = n ∧ p.stage = 2 ∧
      p.ctrl = d.ctrl ∧ p.vd = vd ∧ wordIn t vd (dp + 8) = (res + n) % 2 ^ 32 ∧ t.groups = s.groups ∧
      RingHolds t vd rp d.size res n (fun b => s.mem.read (Loc.hbm vd (pp + (64 * cons + b) % (64 * k.size))).key)) ∧
  (∀ (s : State) (id dp cp : Nat) (p : Push) (k : Queue), s.memOk = true →
    s.pushes.find? (fun p => p.id == id && p.post.isSome) = some p → deviceWorks s p.vd = true → InHbm s p.vd p.ctrl dp 12 →
    queueOf s p.vd p.q = some k → InHbm s p.vd k.ctrl cp 12 → (dp + 12 ≤ cp ∨ cp + 12 ≤ dp) →
    wordIn s p.vd dp = p.first.toNat →
    ∃ t, exec (.depotPublish id) s = .next t ∧ wordIn t p.vd dp = (p.first.toNat + p.count) % 2 ^ 32 ∧
      wordIn t p.vd (cp + 4) = (wordIn s p.vd (cp + 4) + p.count) % 2 ^ 32 ∧ OnlyWords s t p.vd [dp, cp + 4] ∧
      t.pushes = s.pushes.filter (fun q => q.id != id))

/-- R321, R322, R327, R330, R497: QUEUE_PARSE adds a record that is well formed behind those parsed, one of which units were
already placed with what had become of it, and stops the queue at one that is not well formed; FENCE_RECORD_READ passes a fence, with one more in CONS, when every counter has reached its target, and waits else. -/
def Obligations.QueuesParseAndPassFences : Prop :=
  (∀ (s : State) (vd q cp : Nat) (k : Queue), queueOf s vd q = some k → k.proxy = false → queueStopped s vd q = false →
    deviceWorks s vd = true → k.parsed.length < 16 → (∀ p ∈ k.parsed, p.kind ≠ 3) → InHbm s vd k.ctrl cp 12 →
    k.head.toNat ≠ wordIn s vd cp → hubFails s vd (parseReads s vd k) = none →
    let record := parseRecord s vd k.head.toNat (fun off n => hubNat s vd (k.at_ k.head.toNat + off) n)
    (∀ p, record = .ok p → (∀ b ∈ k.begun, b.pos ≠ k.head.toNat) → p.cancelled = false →
      (∀ x, (k.parsed ++ [p]).head? = some x → x.over = false) →
      ∃ t, exec (.queueParse vd q) s = .next t ∧ t.groups = s.groups ∧
        queueOf t vd q = some { k with parsed := k.parsed ++ [p], head := k.head + 1 }) ∧
    (∀ p b, record = .ok p → k.begun = [b] → b.pos = k.head.toNat → b.ended = false → p.cancelled = false →
      (∀ x, (k.parsed ++ [{ p with placed := b.placed, tracker := b.tracker }]).head? = some x → x.over = false) →
      ∃ t, exec (.queueParse vd q) s = .next t ∧ t.groups = s.groups ∧
        queueOf t vd q = some { k with parsed := k.parsed ++ [{ p with placed := b.placed, tracker := b.tracker }], begun := [],
                                       head := k.head + 1 }) ∧
    (∀ f, record = .error f → (∀ b ∈ k.begun, b.pos ≠ k.head.toNat) → (s.vd vd).ringSize ≠ 0 → ∃ t, exec (.queueParse vd q) s = .next t ∧ t.groups = s.groups ∧
      queueOf t vd q = some k ∧ queueStopped t vd q = true ∧ (t.vd vd).status &&& 2#32 = 2#32)) ∧
  (∀ (s : State) (vd q cp : Nat) (k : Queue) (p : Parsed), s.memOk = true → queueOf s vd q = some k → k.parsed = [p] → p.kind = 3 →
    deviceWorks s vd = true → queueStopped s vd q = false → InHbm s vd k.ctrl cp 12 →
    (∀ c ∈ p.counters, firstOutside s vd c.1 4 = none) → hubFails s vd ((k.ctrl, 12) :: p.counters.map fun c => (c.1, 4)) = none →
    ((∀ c ∈ p.counters, c.2 ≤ hubNat s vd c.1 4) → ∃ t, exec (.fenceRecordRead vd q) s = .next t ∧
      queueOf t vd q = some { k with parsed := [] } ∧ wordIn t vd (cp + 4) = (wordIn s vd (cp + 4) + 1) % 2 ^ 32 ∧
      OnlyWords s t vd [cp + 4] ∧ t.groups = s.groups) ∧
    ((∃ c ∈ p.counters, hubNat s vd c.1 4 < c.2) → exec (.fenceRecordRead vd q) s = .next s))

namespace Sys2Proof.Machine

/-! ### Notify registers, harts, evidence, debug and peers: their events (R279, R365, R419 to R421, R425, R429 to R437, R484) -/

/-- `n` bytes of a device's HBM space at `a` become `bs`, and every other byte of memory stays. -/
def BytesBecome (s t : State) (vd a : Nat) (bs : List Byte) : Prop :=
  (∀ k, k < bs.length → t.mem.read ((Loc.hbm vd a).key + k) = bs.getD k 0) ∧
  ∀ k, k < (Loc.hbm vd a).key ∨ (Loc.hbm vd a).key + bs.length ≤ k → t.mem.read k = s.mem.read k

/-- The event only answers: the rest of the state stays. -/
def Answers (i : Instr) (s : State) (r : Reply) : Prop := exec i s = .next { s with reply := r }

end Sys2Proof.Machine

/-- R433, R434: a store to a notify register stands there as full, with OVR set when it was full; when a group that waits for it is
resident, the oldest waiter gets the value instead and the register is empty again. -/
def Sys2Proof.Machine.NotifyStoresAreServed : Prop :=
  ∀ (s : State) (vd n : Nat) (data : Word) (src : NotifySrc), n < 256 → 0 < vd → vd ≤ 64 →
    ((∃ h, src = .hart h ∧ hartRuns s h = some vd) ∨ (src = .function ∧ s.hub.vfEnable = true)) →
    let old := notifyOf s vd n
    ((s.vd vd).waiters.find? (fun w => w.n == n) = none → ∃ t, exec (.notifyStore vd n data src) s = .next t ∧
      (notifyOf t vd n).value = data ∧ (notifyOf t vd n).full = true ∧ (notifyOf t vd n).ovr = (old.ovr || old.full) ∧
      t.groups = s.groups) ∧
    (∀ w g, (s.vd vd).waiters.find? (fun w => w.n == n) = some w → s.group? w.gid = some g → residentOn s g.core vd = true →
      w.reg < 64 → (g.split? w.split).isSome → ∃ t, exec (.notifyStore vd n data src) s = .next t ∧
        t.reg w.gid w.split w.reg = data ∧ (notifyOf t vd n).full = false ∧ w ∉ (t.vd vd).waiters)

/-- R279, R430, R431: GO starts a hart that is not running, at ENTRY in S-mode with satp 0, its number in a0 (x10) and ARG in a1
(x11); a running hart loads, fetches and stores through its device's pages, and stores to
no page without W; and a fence of it that covers writes leaves none of its stores staged, what the device reads in its
windows staying as it was. -/
def Obligations.HartsRunAndReachMemory : Prop :=
  (∀ (s : State) (vd n : Nat), n < s.hub.harts.length → hartDevice s n = some vd → deviceWorks s vd = true →
    (hartOf s n).state ≠ 1 → ∃ t, exec (.oasisGo vd n) s = .next t ∧
      hartOf t n = { hartOf s n with state := 1, pc := (hartOf s n).entry, priv := 1, satp := 0,
                                     regs := ((hartOf s n).regs.set 9 (BitVec.ofNat 64 n)).set 10 (hartOf s n).arg } ∧
      (∀ k, k ≠ n → hartOf t k = hartOf s k) ∧ t.mem = s.mem) ∧
  (∀ (s : State) (vd n a addr len : Nat) (data : List Byte), hartRuns s n = some vd → InHbm s vd addr a len → addr + len ≤ 2 ^ 52 →
    (∀ j, j < len → badLine s (.hbm vd (a + j)) = none) →
    Answers (.oasisHartAccess n addr (.load len) data) s (.data (s.bytesAt (.hbm vd a) len)) ∧
    (len = 4 → (∀ j p, j < 4 → hartPage s vd (addr + j) = some p → p.x = true) →
      Answers (.oasisHartAccess n addr .fetch data) s (.data (s.bytesAt (.hbm vd a) 4))) ∧
    (data.length = len → s.memOk = true → (∀ j p, j < len → hartPage s vd (addr + j) = some p → p.w = true) →
      ∃ t, exec (.oasisHartAccess n addr .store data) s = .next t ∧ t.reply = .data [] ∧ BytesBecome s t vd a data) ∧
    (data.length = len → (∃ j p, j < len ∧ hartPage s vd (addr + j) = some p ∧ p.w = false) →
      Answers (.oasisHartAccess n addr .store data) s .accessFault)) ∧
  (∀ (s : State) (vd n : Nat), hartRuns s n = some vd → s.memOk = true → (∀ x ∈ s.hub.staged, x.off < 2 ^ 64) →
    exec (.oasisHartFence n false) s = .next s ∧
    ∃ t, exec (.oasisHartFence n true) s = .next t ∧ (∀ x ∈ t.hub.staged, x.vd = vd → x.writer ≠ 2 ^ 32 + n) ∧
      ∀ uid off, off < 2 ^ 64 → t.homeByte vd (.win uid off) = s.homeByte vd (.win uid off))

/-- R420, R421, R435: the SPDM requests of a function that exists are answered with the standard's messages, KEY_EXCHANGE adds
a session, and GET_MEASUREMENTS gives the block of the index, attested with the nonce when a signature is asked for. The
bytes of block 8 are the model's reading (log entry 47). -/
def Sys2Proof.Machine.EvidenceIsGiven : Prop :=
  ∀ (s : State) (fn : Nat), functionExists s fn = true →
    Answers (.getVersion fn) s (.data (Config.spdmAnswer 0x84 fn 0)) ∧
    Answers (.getCapabilities fn) s (.data (Config.spdmAnswer 0xE1 fn 0)) ∧
    Answers (.negotiateAlgorithms fn) s (.data (Config.spdmAnswer 0xE3 fn 0)) ∧
    Answers (.getDigests fn) s (.data (Config.spdmAnswer 0x81 fn 0)) ∧
    Answers (.getCertificate fn) s (.data (Config.spdmAnswer 0x82 fn 0)) ∧
    (∀ nonce, Answers (.challenge fn nonce) s (.data (Config.spdmAnswer 0x83 fn nonce))) ∧
    (∀ x, ∃ t, exec (.keyExchange fn x) s = .next t ∧ t.reply = .data (Config.spdmAnswer 0xE4 fn x) ∧
      t.hub.sessions = s.hub.sessions ++ [(fn, x)] ∧ t.mem = s.mem ∧ t.vds = s.vds) ∧
    ∀ index block nonce,
      ((1 ≤ index ∧ index ≤ 4 ∧ block = measurement s.hub.colds (index - 1)) ∨
       (index = 5 ∧ block = natLe 4 s.hub.layoutGen.toNat ++ layoutDigest s) ∨
       (index = 6 ∧ block = agreementPublic s.hub.colds) ∨
       (index = 8 ∧ block = [if s.hub.duState = 1 then 1 else 0])) →
      Answers (.getMeasurements fn index false nonce) s (.data block) ∧
      exec (.getMeasurements fn index true nonce) s = .next { s with
        reply := .data (block ++ attest s.hub.draws (block ++ natLe 32 nonce)),
        hub := { s.hub with draws := s.hub.draws + 1 } }

/-- R419, R425, R505: a debug token of this device with the nonce and a good signature unlocks and raises the layout generation,
any other does not; each draws a new nonce. A debug access reads and writes a device's memory and registers where VISMASK
bit 4 of the device allows it, and else reads zeros and writes nothing. Which registers it names is the
model's reading (log entry 43). -/
def Sys2Proof.Machine.DebugUnlocksAndReaches : Prop :=
  (∀ s : State, s.hub.token.length = 160 →
    let token := s.hub.token
    let good := leNat (token.take 8) = Config.serial.toNat ∧
      leNat ((token.drop 8).take 8) = (Config.drawnNonce s.hub.duNonce).toNat ∧
      debugSigOk token = true
    ∃ t, exec .debugTokenSubmit s = .next t ∧ t.hub.duNonce = s.hub.duNonce + 1 ∧ t.groups = s.groups ∧
      (good → t.hub.duState = 1 ∧ t.hub.layoutGen = s.hub.layoutGen + 1) ∧
      (¬ good → t.hub.duState = (if s.hub.duState = 1 then 1 else 2) ∧ t.hub.layoutGen = s.hub.layoutGen)) ∧
  (∀ (s : State) (vd addr a len : Nat) (data : List Byte), vd ≤ 64 → InHbm s vd addr a len → data.length = len →
    (visible s vd 4 = true →
      Answers (.debugAccess vd (.mem addr len) false data) s (.data (s.bytesAt (.hbm vd a) len)) ∧
      (s.memOk = true → ∃ t, exec (.debugAccess vd (.mem addr len) true data) s = .next t ∧ BytesBecome s t vd a data ∧
        t.groups = s.groups)) ∧
    (visible s vd 4 = false →
      Answers (.debugAccess vd (.mem addr len) false data) s (.data (List.replicate len 0)) ∧
      exec (.debugAccess vd (.mem addr len) true data) s = .next s)) ∧
  (∀ (s : State) (vd core slot : Nat) (r : DebugReg) (data : List Byte) (g : Group) (w : Word), vd ≤ 64 → debugWord g r = some w →
    s.groups.find? (fun g => g.vd == vd && g.core == core && g.slot == slot) = some g →
    (visible s vd 4 = true →
      Answers (.debugAccess vd (.reg core slot r) false data) s (.data (natLe 4 w.toNat)) ∧
      ∃ t h, exec (.debugAccess vd (.reg core slot r) true data) s = .next t ∧ t.mem = s.mem ∧
        t.groups.find? (fun g => g.vd == vd && g.core == core && g.slot == slot) = some h ∧
        (∀ ix n, r = .scalar ix n → h.sval ix n = if n < 64 then BitVec.ofNat 32 (leNat data) else w) ∧
        (∀ spec lane, r = .lane spec lane → (h.vval spec).getD lane 0 = BitVec.ofNat 32 (leNat data)) ∧
        (∀ n, r = .pred n → h.sregs = g.sregs ∧ h.vregs = g.vregs ∧ h.oregs = g.oregs)) ∧
    (visible s vd 4 = false →
      Answers (.debugAccess vd (.reg core slot r) false data) s (.data [0, 0, 0, 0]) ∧
      exec (.debugAccess vd (.reg core slot r) true data) s = .next s))

/-- R365, R437, R484: a peer's access to a page exposed to it loads, stores or updates it atomically, and any other is refused; a
group's own store to a peer's page is written there or, as that peer decides, refused with 0x1A and nothing written; a flit's failed retry is counted, and after 16 of them the port goes down, with every access through it that is not
acknowledged. -/
def Obligations.PeersAreAdmittedOrFail : Prop :=
  (∀ (s : State) (port dev vd addr n : Nat) (kind : PeerKind) (data : List Byte), (portOf s port).up = true → vd ≤ 64 →
    ((kind = .load n) ∨ (kind = .store ∧ data.length = n) ∨ ∃ op, kind = .atomic op n) →
    let write : Bool := match kind with
      | .load _ => false
      | _ => true
    (peerAdmits s port dev vd addr n write = false → walkBad s vd addr = none → walkBad s vd (addr + n - 1) = none → Answers (.peerAccessArrive port dev vd addr kind data) s .refused) ∧
    (∀ a, peerAdmits s port dev vd addr n write = true → InHbm s vd addr a n → s.memOk = true →
      (kind = .load n → Answers (.peerAccessArrive port dev vd addr kind data) s (.data (s.bytesAt (.hbm vd a) n))) ∧
      (kind = .store → ∃ t, exec (.peerAccessArrive port dev vd addr kind data) s = .next t ∧ t.reply = .data [] ∧
        BytesBecome s t vd a data) ∧
      (∀ op, kind = .atomic op n → ∃ t, exec (.peerAccessArrive port dev vd addr kind data) s = .next t ∧
        t.reply = .data (s.bytesAt (.hbm vd a) n) ∧ BytesBecome s t vd a (natLe n
          (atomicNew (op % 16) (8 * n) (decide (16 ≤ op)) (leNat ((data.drop n).take n)) (s.natAt (.hbm vd a) n)
            (leNat (data.take n))))))) ∧
  (∀ (s : State) (id port pvd a : Nat) (e : StoreEl) (r : OpRec) (g : Group), s.memOk = true →
    s.stores.find? (fun e => e.id == id) = some e → e.stage = .point → e.loc = .peer port pvd a → e.kind = .plain → e.rel = none →
    s.stores.filter (fun f => f.op == e.op && f.stage == .point && f.loc.line == e.loc.line) = [e] → pointBehind s e = false →
    s.ops.find? (fun r => r.op == e.op) = some r → r.gid = e.gid → s.group? e.gid = some g → g.status = .running →
    ∃ t h, exec (.storeAccept id) s = .next t ∧ t.group? e.gid = some h ∧
      (Config.freeBit s.free = false → WritesBytes s t e.loc.key e.bytes.length (fun k => e.bytes.getD k 0) ∧ h.faults = g.faults) ∧
      (Config.freeBit s.free = true → t.mem = s.mem ∧ h.status = .faulting ∧
        ∃ f, h.faults = [f] ∧ f.code = 0x1A ∧ f.addr = e.va ∧ f.detail = port + 2 ^ 5)) ∧
  (∀ (s : State) (port : Nat), port < 16 → port < s.hub.ports.length → (portOf s port).up = true →
    ((portOf s port).retries < 16 → ∃ t, exec (.peerFlitRetry port) s = .next t ∧ (portOf t port).up = true ∧ t.mem = s.mem ∧
      ((portOf t port).retries = 1 ∨ (portOf t port).retries = (portOf s port).retries + 1)) ∧
    (16 ≤ (portOf s port).retries → ∃ t, exec (.peerPortDown port) s = .next t ∧ (portOf t port).up = false ∧
      (∀ o ∈ t.loads, ∀ p ∈ o.els, behindPort port p.2.loc = false) ∧ ∀ e ∈ t.stores, behindPort port e.loc = false))

namespace Sys2Proof.Machine

/-! ### The reconciler (R335 to R361, R401, R405, R412 to R417, R422 to R424, R448) -/

/-- The next step of a device is the creation or change that the record `b` of slot `r` asks for; `s1` is the state with the
reasons of the records that wait (R350). -/
def NextChange (s : State) (vd : Nat) (r : RSlot) (b : List Byte) (s1 : State) : Prop :=
  nextStep s vd = (some (false, r), s1) ∧ r.want = some b ∧ r.tvd = vd ∧ r.deleting = false

/-- The entry of a slot shows its record as converged; a torn read of the slot shows on (R340, R344, R348). -/
def Converges (t : State) (r : RSlot) (b : List Byte) : Prop :=
  (slotAt t r.dom r.ix).state = .converged ∧ (slotAt t r.dom r.ix).reason = (if r.reason = 0x05 then 0x05 else 0) ∧
  (slotAt t r.dom r.ix).conv = some b ∧ (slotAt t r.dom r.ix).convVer = manVer b ∧ (slotAt t r.dom r.ix).want = none ∧
  (slotAt t r.dom r.ix).running = false

/-- The entry of a slot shows a conflict with its reason (R344, R347). -/
def Conflicts (t : State) (r : RSlot) (reason : Nat) : Prop :=
  (slotAt t r.dom r.ix).state = .conflict ∧ (slotAt t r.dom r.ix).reason = reason ∧ (slotAt t r.dom r.ix).want = none ∧
  (slotAt t r.dom r.ix).running = false

end Sys2Proof.Machine

/-- R336, R340, R341: SLOT_WRITE writes an area's bytes and marks the slots that they touch; READ_SLOT takes up a stable, valid
record of a slot that held none as pending, leaves the entry at a torn one, and shows 0x05 for one whose check fails. -/
def Obligations.AreasAreWrittenAndRead : Prop :=
  (∀ (s : State) (dom off : Nat) (data : List Byte), s.memOk = true → areaExists s dom = true → data ≠ [] →
    off + data.length ≤ 0x40000 → ∃ t, exec (.slotWrite dom off data) s = .next t ∧ t.groups = s.groups ∧
      (∀ k, k < data.length → t.mem.read ((Loc.area dom off).key + k) = data.getD k 0) ∧
      (∀ k, k < (Loc.area dom off).key ∨ (Loc.area dom off).key + data.length ≤ k → t.mem.read k = s.mem.read k) ∧
      ∀ ix, off / 256 ≤ ix → 256 * ix < off + data.length → (slotAt t dom ix).dirty = true) ∧
  (∀ (s : State) (dom ix : Nat) (rest : List (Nat × Nat)), slotsToRead s = (dom, ix) :: rest → slotBad s dom ix = none →
    let b := s.bytesAt (.area dom (256 * ix)) 256
    let old := slotAt s dom ix
    ((manVer b).toNat % 2 = 0 → manKind b ≠ 0 → crc32c (b.drop 0x30) = manAt b 0x0C 4 → examine s dom ix b = none →
      claimant s (manTvd b) (manKind b) (manId b) = none → old.claims = false →
      ∃ t, exec (.readSlot dom ix) s = .next t ∧ t.groups = s.groups ∧ (slotAt t dom ix).want = some b ∧
        (slotAt t dom ix).state = .pending ∧ (slotAt t dom ix).seenVer = manVer b ∧ (slotAt t dom ix).kind = manKind b ∧
        (slotAt t dom ix).tvd = manTvd b ∧ (slotAt t dom ix).id = manId b ∧ (slotAt t dom ix).dirty = false) ∧
    ((manVer b).toNat % 2 = 1 → rest ≠ [] → ∃ t, exec (.readSlot dom ix) s = .next t ∧ t.mem = s.mem ∧
      slotAt t dom ix = { old with dom := dom, ix := ix, dirty := false }) ∧
    ((manVer b).toNat % 2 = 0 → manKind b ≠ 0 → crc32c (b.drop 0x30) ≠ manAt b 0x0C 4 → rest ≠ [] → ∃ t,
      exec (.readSlot dom ix) s = .next t ∧
      slotAt t dom ix = { old with dom := dom, ix := ix, dirty := false, seenVer := manVer b, reason := 0x05 }))

/-- R354 to R356, R386, R401, R405, R413 to R417, R422 to R424, R448: a partition, a context, a window, a mapping, a queue, the
envelope and a key release take effect as their records say, with their entries converged; one that the device cannot
take is in conflict. The bytes that HKDF takes are the model's reading (log entry 19). -/
def Obligations.RecordsTakeEffect : Prop :=
  ∀ (s s1 : State) (vd : Nat) (r : RSlot) (b : List Byte), NextChange s vd r b s1 →
    (r.kind = 1 → r.conv = none → regionDisagrees s1 vd (partitionOf b) = false → ∃ t, exec (.stepPartition vd) s = .next t ∧
      Converges t r b ∧ (t.vd vd).part = some (partitionOf b) ∧ (t.vd vd).key = some s1.hub.draws ∧
      t.hub.draws = s1.hub.draws + 1 ∧ t.hub.layoutGen = s1.hub.layoutGen + 1) ∧
    (r.kind = 1 → regionDisagrees s1 vd (partitionOf b) = true → ∃ t, exec (.stepPartition vd) s = .next t ∧
      Conflicts t r 0x0A ∧ (t.vd vd).part = (s1.vd vd).part) ∧
    (∀ d, r.kind = 2 → (s1.vd vd).ctx = none → 0 < vd →
      let c := contextOf b (if s1.hub.duState = 1 then 0x1F else manField b 0x34 4 0) (s1.hub.duState == 1)
      placeContext (s1.vd vd) c = some d → ∃ t, exec (.stepContext vd) s = .next t ∧ Converges t r b ∧ (t.vd vd).ctx = some c ∧
        (t.vd vd).ringSize = 2 ^ (c.errlog + 4) ∧ (t.vd vd).frames = d.frames ∧ (t.vd vd).sysRuns = d.sysRuns) ∧
    (∀ runs d, r.kind = 3 → r.conv = none → manField b 0x40 29 29 = 0 →
      allot (s1.vd vd) (framesOf (windowBytes b)) 1 = some (runs, d) → ∃ t w, exec (.stepWindow vd true) s = .next t ∧
        Converges t r b ∧ w ∈ t.hub.windows ∧ w.vd = vd ∧ w.id = r.id ∧ w.size = manAt b 0x30 8 ∧ w.runs = runs ∧
        (t.vd vd).frames = d.frames ∧ w.exchange = (manField b 0x40 31 30 != 1) ∧
        w.key = if manField b 0x40 31 30 = 1 then none else some (Config.drawnKey s1.hub.draws)) ∧
    (∀ w, r.kind = 3 → r.conv = none → manField b 0x40 29 29 = 1 → w ∈ s1.hub.windows → w.vd = manField b 0x44 6 0 →
      w.id = manField b 0x44 31 16 → ∃ t, exec (.stepWindow vd true) s = .next t ∧ Converges t r b ∧
        { w with joiners := w.joiners ++ [(vd, r.id)] } ∈ t.hub.windows) ∧
    (∀ readOk, r.kind = 4 → r.conv = none →
      (∀ m d, mappingBreach s1 vd (mappingOf b r.id) = none → placeMapping (s1.vd vd) (mappingOf b r.id) = some (m, d) →
        manAt b 0x48 4 = 0 → ∃ t, exec (.stepMapping vd readOk) s = .next t ∧
        Converges t r b ∧ m ∈ (t.vd vd).maps ∧ (t.vd vd).frames = d.frames ∧ (t.vd vd).tables = d.tables) ∧
      (∀ o, mappingBreach s1 vd (mappingOf b r.id) = some o → ∃ t, exec (.stepMapping vd readOk) s = .next t ∧
        Conflicts t r 0x0A ∧ (t.vd vd).maps = (s1.vd vd).maps)) ∧
    (r.kind = 5 → r.conv = none → ∃ t k, exec (.stepQueue vd) s = .next t ∧ Converges t r b ∧ k ∈ (t.vd vd).queues ∧ k.q = r.id ∧
      k.base = manAt b 0x30 8 ∧ k.ctrl = manAt b 0x38 8 ∧ k.size = 2 ^ manField b 0x40 4 0 ∧ k.prio = manField b 0x40 10 8 ∧
      k.aff = manField b 0x40 27 16 ∧ k.parsed = [] ∧ k.begun = []) ∧
    (r.kind = 7 → vd = 0 → ∃ t, exec .stepEnvelope s = .next t ∧ Converges t r b ∧
      t.hub.limit = if manField b 0x30 11 0 = 0 then 2600 else manField b 0x30 11 0) ∧
    (∀ c w, r.kind = 8 → (s1.vd vd).ctx = some c → c.prot = true →
      s1.hub.windows.find? (fun w => w.vd == vd && w.id == manField b 0x34 31 16 && !w.exchange) = some w →
      manAt b 0x30 4 = s1.hub.layoutGen.toNat → windowLoading s1 w.uid = false →
      let agreed := ecdh s1.hub.colds ((b.drop 0x38).take 97)
      let key := fun z => unwrap (hkdf (layoutDigest s1) z (keyInfo ++ natLe 2 vd ++ natLe 2 (manField b 0x34 31 16)))
        ((b.drop 0x9C).take 40)
      ∃ t, exec (.stepKeyRelease vd) s = .next t ∧ (agreed.bind key = none → Conflicts t r 0x0A) ∧
        ∀ k, agreed.bind key = some k → Converges t r b ∧ { w with key := some k } ∈ t.hub.windows)

/-- R342, R351, R352, R357 to R360, R496: a resident program is created with its image mapped and its launch known, its teams are
placed one by one, and a restart ends the old launch; a deletion undoes a queue or a mapping and leaves its entry absent,
and that of a partition resets its device. -/
def Obligations.ProgramsRunAndRecordsEnd : Prop :=
  (∀ (s s1 : State) (vd : Nat) (r : RSlot) (b : List Byte) (m : Mapping) (d : VDev), NextChange s vd r b s1 → r.kind = 6 →
    programOf s1 vd r.id = none → placeMapping (s1.vd vd) (imageMapping r.id (manAt b 0x38 4)) = some (m, d) →
    imageBreach (fun off k => s1.natAt (.host (manAt b 0x30 8 + off)) k) (manAt b 0x38 4) = false →
    (∃ t p, exec (.stepProgramCreate vd true) s = .next t ∧ programOf t vd r.id = some p ∧ p.record = b ∧ p.placed = 0 ∧
      p.launch.lid = BitVec.ofNat 32 (0x60000000 + r.id) ∧ p.runs = m.runs ∧ m ∈ (t.vd vd).maps ∧ (t.vd vd).frames = d.frames ∧
      m.va = programVa r.id ∧ m.x = true ∧ m.w = false ∧ m.system = true) ∧
    ∃ t, exec (.stepProgramCreate vd false) s = .next t ∧ Conflicts t r 0x10) ∧
  (∀ (s : State) (vd id core : Nat) (p : Program) (r : RSlot), programOf s vd id = some p →
    claimant s vd 6 id = some r → r.want = some p.record → r.deleting = false → deviceWorks s vd = true → s.hub.boot = 4 →
    (∀ x, runningSlot s vd = some x → x = r) →
    launchCancelled s vd (withJob s vd p.launch) = false → overEnergy s vd = false → programCore s p = some core → p.vd = vd →
    0 < p.launch.team → p.launch.image = none →
    ∃ t m g, exec (.programTeamPlace vd id) s = .next t ∧ programOf t vd id = some { p with placed := p.placed + 1 } ∧
      m ∈ t.teams ∧ m.tid = s.fresh ∧ m.core = core ∧ m.vd = vd ∧ m.lid = p.launch.lid ∧ g ∈ t.groups ∧ g.team = some s.fresh ∧
      g.launch = withJob s vd p.launch ∧ g.tracker = some p.tracker ∧ g.core = core) ∧
  (∀ (s s1 : State) (vd : Nat) (r : RSlot) (b : List Byte) (p : Program), NextChange s vd r b s1 → r.kind = 6 →
    programOf s vd r.id = some p → p.vd = vd → p.id = r.id → p.record ≠ b → launchGroups s1 vd p.launch.lid = [] →
    launchResponders s1 vd p.launch.lid = false →
    (∀ k ∈ s1.cores, ∀ m ∈ k.2.marks, m.vd = vd → m.launch.lid ≠ p.launch.lid) →
    ∃ t, exec (.stepProgramRestart vd) s = .next t ∧ programOf t vd r.id = none ∧ ∀ x ∈ t.trackers, x.tid ≠ p.tracker) ∧
  (∀ (s s1 : State) (vd : Nat) (r : RSlot), fencedDeletion s vd = none → nextStep s vd = (some (true, r), s1) → r.tvd = vd →
    (r.kind = 5 → ∃ t, exec (.stepDelete vd) s = .next t ∧ queueOf t vd r.id = none ∧ (slotAt t r.dom r.ix).state = .absent) ∧
    (r.kind = 4 → mappingQuiet s1 vd r.id = true → ∃ t, exec (.stepDelete vd) s = .next t ∧
      (slotAt t r.dom r.ix).state = .absent ∧ ∀ m ∈ (t.vd vd).maps, m.id = r.id → m.system = true) ∧
    (r.kind = 1 → ∃ t x, exec (.stepDelete vd) s = .next t ∧ (t.vd vd).resetting = some x ∧ x.cause = 3 ∧
      x.deletePart = true ∧ (t.vd vd).gen = (if (s1.vd vd).counted then ((s1.vd vd).gen + 1) % 2 ^ 16 else (s1.vd vd).gen) ∧ ∀ g ∈ t.groups, g.vd ≠ vd))

namespace Sys2Proof.Machine

/-! ### Parks, slices, tokens and energy (R370 to R372, R389 to R403, R438) -/

/-- The host page of a translation request or of a park: the 4 KiB page `hp` lies in the range (R372). -/
def inHostRange (haddr size hp : Nat) : Prop := haddr ≤ 4096 * hp ∧ 4096 * hp < haddr + size

/-- A place lies in host memory that was reached through a host translation which an invalidation dropped (R372). -/
def OverDropped (q : Inval) (vd : Nat) (l : Loc) : Prop :=
  ∃ a lo size, l = .host a ∧ (vd, lo, size) ∈ q.dropped ∧ lo ≤ a ∧ a < lo + size

/-- A device is the resident one of a region on a core, as its slice begins (R389). -/
def BecomesResident (s t : State) (core region : Nat) (new : Option Nat) (last : Nat) : Prop :=
  sliceOf t core region = some { region := region, resident := new, last := last, since := s.now core, leaving := false, idle := false }

/-- The groups of a device that comes back to a core run again: from where they stopped, where the hardware saved them, and
with their handler in its resume phase, where they saved themselves; and those that were placed while it was away start (R389, R398). -/
def GroupsReturn (s t : State) (core vd : Nat) : Prop :=
  ∀ g ∈ s.groups, g.vd = vd → g.core = core →
    (g.status = .savedForced → g.handler = none → ∃ h ∈ t.groups, h.gid = g.gid ∧ h.status = .running ∧ h.handler = none ∧
      h.vregs = g.vregs ∧ h.preds = g.preds) ∧
    (g.status = .savedFresh → ∃ h ∈ t.groups, h.gid = g.gid ∧ h.status = .running ∧ h.launch = g.launch) ∧
    (g.status = .savedCoop → ∃ h ∈ t.groups, ∃ k, h.gid = g.gid ∧ h.status = .running ∧ h.handler = some k ∧ k.resume = true ∧
      k.sp.pc = g.resumeAt.2.2 ∧ k.scode = g.resumeAt.1 ∧ k.slen = g.resumeAt.2.1)

end Sys2Proof.Machine

/-- R371, R372, R479: PARK_REPLAY takes a released park away, and its split issues again; an ATS completion makes an entry of the host
translation cache and releases the parks of its pages; a PRI response releases the parks of its page or faults their group
with 0x23, and drops no entry; an invalidation drops the entries that it overlaps at once, and ends when every access that was
translated through one of them is performed at .sys. -/
def Sys2Proof.Machine.ParksAreReleased : Prop :=
  (∀ (s : State) (gid who : Nat) (p : Parked) (g : Group), s.parks.find? (fun p => p.gid == gid && p.who == who && p.released) = some p →
    p.copy = none → s.group? gid = some g → g.status = .running → (g.frozen = false ∨ p.who = 8) → residentOn s g.core g.vd = true →
    ∃ t h, exec (.parkReplay gid who) s = .next t ∧ (∀ q ∈ t.parks, q.id ≠ p.id) ∧ t.group? gid = some h ∧
      (∀ ix sp, h.split? ix = some sp → ix < 9 → sp.block ≠ .park p.id) ∧ t.mem = s.mem ∧ h.sregs = g.sregs) ∧
  (∀ (s : State) (core vd haddr size : Nat) (r w : Bool) (q : HostReq), completionOk haddr size = true →
    s.hostReqs.find? (fun q => q.core == core && q.vd == vd && !q.pri && hostRange haddr size q.page) = some q →
    q.gen = (s.vd vd).gen → ∃ t, exec (.atsCompletion core vd haddr size r w) s = .next t ∧ q ∉ t.hostReqs ∧
      { vd := vd, gen := q.gen, lo := haddr, size := size, r := r, w := w, dev := q.dev, again := false : HostEntry } ∈
        (t.core core).hosts ∧ ((s.core core).hosts.length ≤ 1024 → (t.core core).hosts.length ≤ 1024) ∧
      (∀ p ∈ t.parks, p.vd = vd → p.core = core → ∀ hp ∈ p.hosts, inHostRange haddr size hp → p.released = true)) ∧
  (∀ (s : State) (vd haddr : Nat) (q : HostReq), q ∈ (s.hostReqs.filter fun q => q.pri && q.vd == vd).take 512 →
    q.page = haddr / 4096 → q.gen = (s.vd vd).gen →
    (∃ t, exec (.priResponse vd haddr .success) s = .next t ∧ q ∉ t.hostReqs ∧
      (∀ k ∈ s.cores, ∃ k' ∈ t.cores, k'.1 = k.1 ∧ k'.2.hosts.length = k.2.hosts.length) ∧
      ∀ p ∈ t.parks, p.vd = vd → haddr / 4096 ∈ p.hosts → p.released = true) ∧
    (∀ resp cause p f g, ((resp = .invalid ∧ cause = 1) ∨ (resp = .failure ∧ cause = 2)) →
      s.parks.filter (fun p => p.vd == vd && p.hosts.contains (haddr / 4096) && !p.released) = [p] → p.copy = none →
      p.frec = some f → f.code = 0x23 → s.group? p.gid = some g → g.status = .running →
      ∃ t h, exec (.priResponse vd haddr resp) s = .next t ∧ q ∉ t.hostReqs ∧ t.group? p.gid = some h ∧ h.status = .faulting ∧
        ∃ k ∈ h.faults, k.code = 0x23 ∧ k.detail = cause)) ∧
  (∀ (s : State) (haddr size : Nat), s.hub.invals.length < 32 → (∀ q ∈ s.hub.invals, ¬(q.lo = haddr ∧ q.size = size)) →
    ∃ t, exec (.atsInvalidate haddr size) s = .next t ∧ t.mem = s.mem ∧
      (∀ k ∈ t.cores, ∀ h ∈ k.2.hosts, ¬(h.lo < haddr + size ∧ haddr < h.lo + h.size)) ∧
      ∃ q ∈ t.hub.invals, q.lo = haddr ∧ q.size = size ∧ q.before = s.fresh ∧
        ∀ k ∈ s.cores, ∀ h ∈ k.2.hosts, h.lo < haddr + size → haddr < h.lo + h.size → (h.vd, h.lo, h.size) ∈ q.dropped) ∧
  (∀ (s : State) (haddr size : Nat) (q : Inval), s.hub.invals.find? (fun q => q.lo == haddr && q.size == size) = some q →
    ((∀ e ∈ s.stores, e.id < q.before → OverDropped q e.vd e.loc → e.performedAt 5 = true) →
     (∀ l ∈ s.loads, l.op < q.before → ∀ p ∈ l.els, ¬OverDropped q l.vd p.2.loc) →
      ∃ t, exec (.atsInvalidate haddr size) s = .next t ∧ q ∉ t.hub.invals ∧ t.mem = s.mem) ∧
    ((∃ e ∈ s.stores, e.id < q.before ∧ OverDropped q e.vd e.loc ∧ e.performedAt 5 = false) →
      exec (.atsInvalidate haddr size) s = .next s))

/-- R390 to R393, R396: the slice of a device ends when its cycles have passed and another device has work: its groups are
trapped, or saved at once in their resume phase; a trapped group whose lane work has drained starts its handler in the
save phase, and without a valid record, or with its budget overrun, the hardware saves it. -/
def Sys2Proof.Machine.SlicesEndInTraps : Prop :=
  (∀ (s : State) (core region v : Nat) (k : Slice), sliceOf s core region = some k → k.resident = some v → k.region = region →
    k.leaving = false → k.since + sliceCycles s v < s.now core → hasWork s core v = true →
    (∀ g ∈ groupsOn s core v, retires s g = false) →
    (nextDevice s core region v = none → ∃ t, exec (.sliceExpiry core region) s = .next t ∧
      sliceOf t core region = some { k with since := k.since + sliceCycles s v } ∧ t.groups = s.groups) ∧
    (∀ u, nextDevice s core region v = some u → ∃ t, exec (.sliceExpiry core region) s = .next t ∧ t.mem = s.mem ∧
      sliceOf t core region = some { k with leaving := true } ∧
      ∀ g ∈ (mergeGroups s core).groups, (∀ h ∈ (mergeGroups s core).groups, h.gid = g.gid → h = g) →
        (g.core = core → g.vd = v → g.status = .running →
          { g with status := if g.handler.isSome then .saving else .trapped, trapAt := s.now core } ∈ t.groups) ∧
        (g.core ≠ core ∨ g.vd ≠ v → g ∈ t.groups))) ∧
  (∀ (s : State) (gid : Nat) (g : Group), s.group? gid = some g → g.status = .trapped →
    (∀ r, handlerRec s g.vd = some r → trapReady g (s.now g.core) = true → ∃ t h, exec (.handlerStart gid) s = .next t ∧
      t.group? gid = some h ∧ h.status = .running ∧ h.resumeAt = (r.scode, r.slen, r.resume) ∧
      h.handler = some { sp := freshSplit r.save (s.now g.core) zeroPriv fmtReset s.fresh, resume := false, scode := r.scode, slen := r.slen } ∧
      h.sregs = g.sregs ∧ h.vregs = g.vregs ∧ h.preds = g.preds ∧ h.flags = g.flags ∧
      (∀ o ∈ t.engops, o.gid = gid → o.admitted = true ∨ o.isPoint = true ∨ o.who = 8) ∧
      ((∀ o ∈ s.engops, o.gid = gid → o.admitted = true ∨ o.isPoint = true ∨ o.who = 8) →
        h.splits = g.splits ∧ h.batches = g.batches)) ∧
    (∀ r, handlerRec s g.vd = some r → trapReady g (s.now g.core) = false → exec (.handlerStart gid) s = .next s) ∧
    (handlerRec s g.vd = none → ∃ t, exec (.handlerStart gid) s = .next t ∧ t.group? gid = some { g with status := .saving })) ∧
  (∀ (s : State) (gid : Nat) (g : Group) (c : Context), s.group? gid = some g → (s.vd g.vd).ctx = some c →
    (g.status = .trapped ∨ ∃ h, g.status = .running ∧ g.handler = some h ∧ h.resume = false) →
    (g.trapAt + c.budget < s.now g.core → ∃ t, exec (.handlerBudgetExpiry gid) s = .next t ∧
      t.group? gid = some { g with status := .saving, handler := none }) ∧
    (s.now g.core ≤ g.trapAt + c.budget → exec (.handlerBudgetExpiry gid) s = .next s)) ∧
  (∀ (s : State) (gid : Nat) (g : Group), s.group? gid = some g → g.status = .saving →
    (∀ b ∈ g.batches, b.started = true → b.suspended = true) → coreQuiet s g.core g.vd = true →
    ∃ t h, exec (.forcedSave gid) s = .next t ∧ t.group? gid = some h ∧ h.status = .savedForced ∧ h.sregs = g.sregs ∧
      h.vregs = g.vregs ∧ h.cycBefore = g.cycBefore + (s.now g.core - g.cycSince) ∧ ∀ m ∈ t.teams, g.team = some m.tid → m.forced = true)

/-- R389, R390, R397, R398: when every group of the outgoing device has left, the next device with work becomes resident and its
groups return, and with no other one the old one stays if it has work; a core of a region without a resident device takes the
lowest one with work, and one whose device has run out of work takes the next, or none, once nothing of the old device is under way
there. -/
def Obligations.ResidentsChange : Prop :=
  (∀ (s : State) (core region v u : Nat) (k : Slice) (p q : Partition), sliceOf s core region = some k → k.resident = some v →
    k.leaving = true → (∀ g ∈ groupsOn s core v, g.gone = true) → coreQuiet s core v = true → portClear s core v = true →
    (s.vd v).part = some p → (s.vd u).part = some q → nextDevice s core region v = some u →
    ∃ t, exec (.regionSwitch core region) s = .next t ∧ BecomesResident s t core region (some u) v ∧ GroupsReturn s t core u) ∧
  (∀ (s : State) (core region v : Nat) (k : Slice) (p : Partition), sliceOf s core region = some k → k.resident = some v →
    k.leaving = true → (∀ g ∈ groupsOn s core v, g.gone = true) → coreQuiet s core v = true → portClear s core v = true →
    (s.vd v).part = some p → nextDevice s core region v = none →
    (hasWork s core v = true → (s.vd v).fenced = false → ∃ t, exec (.regionSwitch core region) s = .next t ∧
      BecomesResident s t core region (some v) v ∧ GroupsReturn s t core v) ∧
    ((hasWork s core v = false ∨ (s.vd v).fenced = true) → ∃ t, exec (.regionSwitch core region) s = .next t ∧ BecomesResident s t core region none v ∧
      ∀ n, n < 384 * p.scount → t.mem.read ((Loc.spad core (384 * p.sfirst)).key + n) = 0)) ∧
  (∀ (s : State) (core vd : Nat) (p : Partition) (k : Slice), (s.vd vd).part = some p → 0 < p.region → core ∈ p.cores →
    sliceOr s core p.region = k → k.leaving = false →
    (k.resident = none → lowestDevice s core p.region = some vd →
      ∃ t, exec (.deviceResident core vd) s = .next t ∧ BecomesResident s t core p.region (some vd) k.last ∧ GroupsReturn s t core vd) ∧
    (∀ v, k.resident = some v → v ≠ vd → coreQuiet s core v = true → portClear s core v = true →
      (k.idle = true → lowestDevice s core p.region = some vd) →
      (k.idle = false → hasWork s core v = false ∧ nextDevice s core p.region v = some vd) →
      ∃ t, exec (.deviceResident core vd) s = .next t ∧ BecomesResident s t core p.region (some vd) v ∧ GroupsReturn s t core vd) ∧
    (k.resident = some vd → k.idle = true → lowestDevice s core p.region = some vd →
      ∃ t, exec (.deviceResident core vd) s = .next t ∧ BecomesResident s t core p.region (some vd) k.last ∧ t.groups = s.groups) ∧
    (k.resident = some vd → k.idle = false → hasWork s core vd = false → nextDevice s core p.region vd = none →
      (coreQuiet s core vd = true → portClear s core vd = true →
        ∃ t, exec (.deviceResident core vd) s = .next t ∧ BecomesResident s t core p.region none vd) ∧
      ((coreQuiet s core vd = false ∨ portClear s core vd = false) → ∃ t, exec (.deviceResident core vd) s = .next t ∧
        sliceOf t core p.region = some { k with idle := true } ∧ t.groups = s.groups ∧ t.mem = s.mem)))

/-- R401, R402, R438: the pool of tokens shrinks by 8, to no fewer than 6, while a die is above 105 degrees, and grows back while
all are below 100; an energy update adds each amount to its field and all of them to TOTAL, and SEQ rises by 2. -/
def Sys2Proof.Machine.TokensAndEnergyFollowTheDies : Prop :=
  (∀ (s : State) (temps : List Nat), temps ≠ [] →
    ((∃ x ∈ temps, 105 < x) → s.hub.lowered < (s.hub.limit - 1450) * 144 / 1150 - 6 → ∃ t,
      exec (.thermalPoolStep temps) s = .next t ∧
      t.hub.lowered = min (s.hub.lowered + 8) ((s.hub.limit - 1450) * 144 / 1150 - 6)) ∧
    ((∀ x ∈ temps, x < 100) → 0 < s.hub.lowered → ∃ t, exec (.thermalPoolStep temps) s = .next t ∧
      t.hub.lowered = s.hub.lowered - 8) ∧
    ((∀ x ∈ temps, x ≤ 105) → (∃ x ∈ temps, 100 ≤ x) → exec (.thermalPoolStep temps) s = .next s)) ∧
  (∀ (s : State) (vd matrix lane memory other : Nat), s.memOk = true → vd ≤ 64 →
    let field := fun (u : State) (off n : Nat) => u.natAt (.sys vd (0x20000 + off)) n
    ∃ t, exec (.energyUpdate vd matrix lane memory other) s = .next t ∧ t.groups = s.groups ∧
      field t 0x00 8 = (field s 0x00 8 + (matrix + lane + memory + other)) % 2 ^ 64 ∧
      field t 0x08 8 = (field s 0x08 8 + matrix) % 2 ^ 64 ∧ field t 0x10 8 = (field s 0x10 8 + lane) % 2 ^ 64 ∧
      field t 0x18 8 = (field s 0x18 8 + memory) % 2 ^ 64 ∧ field t 0x20 8 = (field s 0x20 8 + other) % 2 ^ 64 ∧
      field t 0x28 4 = (field s 0x28 4 + 2) % 2 ^ 32)

namespace Sys2Proof.Machine

/-! ### Resets, bring-up, halts and scrubs (R383, R384, R405, R436, R439, R440, R447, R450 to R452, R483, R486 to R496, R507) -/

/-- A reset of a device has begun with a cause: its generation, if its partition has ever converged, has risen, its groups are
gone, and those of the others stay (R383, R384, R486, R487). -/
def ResetBegins (s t : State) (vd cause : Nat) : Prop :=
  (∃ x, (t.vd vd).resetting = some x ∧ x.cause = cause ∧ x.cleared = false ∧ x.oldGen = (s.vd vd).gen) ∧
  (t.vd vd).gen = (if (s.vd vd).counted then ((s.vd vd).gen + 1) % 2 ^ 16 else (s.vd vd).gen) ∧ (∀ g ∈ t.groups, g.vd ≠ vd) ∧ ∀ g ∈ s.groups, g.vd ≠ vd → g ∈ t.groups

/-- The cause that a reset reports: 6 for a device that is fenced (R454, R486). -/
def resetCause (s : State) (vd cause : Nat) : Nat := if (s.vd vd).fenced then 6 else cause

end Sys2Proof.Machine

/-- R384, R436, R486 to R488, R494, R506: a function-level reset, a TDI that leaves RUN and the clearing of VF Enable begin the
reset of a device; the first also clears the areas that serve it; VF Enable's setting makes the rings of the virtual
functions. -/
def Sys2Proof.Machine.ResetsBegin : Prop :=
  (∀ (s : State) (vd : Nat), 0 < vd → vd ≤ 64 → s.hub.vfEnable = true → ∃ t, exec (.functionLevelReset vd) s = .next t ∧
    ResetBegins s t vd (resetCause s vd 1) ∧ (t.vd vd).tdi = .unlocked ∧
    (∀ n, n < 0x40000 → t.mem.read ((Loc.area vd 0).key + n) = 0 ∧ t.mem.read ((Loc.area (0x40 + vd) 0).key + n) = 0)) ∧
  (∀ (s : State) (vd : Nat) (error : Bool), 0 < vd → vd ≤ 64 → (s.vd vd).tdi = .run → ∃ t,
    exec (.tdiLeaveRun vd error) s = .next t ∧ ResetBegins s t vd (resetCause s vd 4) ∧
    (t.vd vd).tdi = if error then .error else .unlocked) ∧
  (∀ (s : State) (vd : Nat), 0 < vd → vd ≤ 64 → s.hub.vfEnable = true → ∃ t, exec (.tdiEntersRun vd) s = .next t ∧
    (t.vd vd).tdi = .run ∧ t.groups = s.groups) ∧
  (∀ s : State, s.hub.vfEnable = false → (∀ p ∈ s.vds, ∀ x, p.2.resetting = some x → x.cause ≠ 5) → ∃ t,
    exec .vfEnableSet s = .next t ∧ t.hub.vfEnable = true ∧ t.mem = s.mem ∧ t.groups = s.groups ∧
    (∀ dom, dom ≠ 0 → keyGet 0 t.hub.aseq dom = 0) ∧
    ∀ v, 0 < v → v ≤ 64 → (t.vd v).ringSize = 16 ∧ (t.vd v).fcount = 0 ∧ (t.vd v).tdi = .unlocked) ∧
  (∀ s : State, s.hub.vfEnable = true → ∃ t, exec .vfEnableClear s = .next t ∧ t.hub.vfEnable = false ∧
    (∀ r ∈ t.hub.slots, r.dom = 0) ∧
    ∀ v, 0 < v → v ≤ 64 → (t.vd v).resetting.map (·.cause) = some 5 ∧
      ((s.vd v).resetting = none → ∀ g ∈ t.groups, g.vd ≠ v))

/-- R405, R487, R490 to R496: DEVICE_RESET deletes the records of the device and draws its new key; RESET_COMPLETE ends the reset,
the device is no longer fenced, and a deleted partition goes with its key. -/
def Sys2Proof.Machine.ResetsComplete : Prop :=
  (∀ (s : State) (vd : Nat) (r : Resetting), (s.vd vd).resetting = some r → r.cleared = false → ∃ t,
    exec (.deviceReset vd) s = .next t ∧ (t.vd vd).resetting = some { r with cleared := true } ∧ (t.vd vd).maps = [] ∧
    (t.vd vd).queues = [] ∧ (t.vd vd).ctx = none ∧ (t.vd vd).leaves = [] ∧ (∀ b ∈ (t.vd vd).bad, 2 ^ 60 ≤ b.1) ∧
    ((s.vd vd).part.isSome → (t.vd vd).key = some s.hub.draws ∧ t.hub.draws = s.hub.draws + 1)) ∧
  (∀ (s : State) (vd : Nat) (r : Resetting), (s.vd vd).resetting = some r → r.cleared = true → r.cause ≠ 5 → ∃ t,
    exec (.resetComplete vd) s = .next t ∧ (t.vd vd).resetting = none ∧ (t.vd vd).fenced = false ∧
    (t.vd vd).status &&& 32#32 = 32#32 ∧ t.groups = s.groups ∧
    (r.deletePart = true → (t.vd vd).part = none ∧ (t.vd vd).key = none ∧ t.hub.layoutGen = s.hub.layoutGen + 1))

/-- R421, R424, R425, R439: a cold reset leaves nothing but what lies outside the package and the counts of its draws; the bring-up
goes on stage by stage to 4, or stops at 0xFF. -/
def Obligations.ThePackageComesUp : Prop :=
  (∀ s : State, ∃ t, exec .coldReset s = .next t ∧ t.groups = [] ∧ t.cores = [] ∧
    t.vds = [(0, { VDev.reset with ringSize := 4096, key := some s.hub.draws })] ∧ t.hub.draws = s.hub.draws + 1 ∧ t.stores = [] ∧
    t.loads = [] ∧ t.hub.boot = 0 ∧ t.hub.vfEnable = false ∧ t.hub.windows = [] ∧ t.hub.slots = [] ∧ t.hub.duState = 0 ∧
    t.hub.colds = s.hub.colds + 1 ∧ (s.memOk = true →
      (∀ a, a < 2 ^ 112 → t.mem.read (Loc.host a).key = s.mem.read (Loc.host a).key) ∧
      ∀ vd a, vd < 2 ^ 48 → a < 2 ^ 64 → t.mem.read (Loc.hbm vd a).key = 0)) ∧
  (∀ s : State, s.hub.boot < 4 → ∃ t, exec (.bootstateAdvance true) s = .next t ∧ t.hub.boot = s.hub.boot + 1 ∧ t.mem = s.mem) ∧
  (∀ s : State, s.hub.boot < 3 → ∃ t, exec (.bootstateAdvance false) s = .next t ∧ t.hub.boot = 0xFF)

/-- R440, R447, R450 to R452: a faulting group whose issued work has completed writes its staged window stores, line by line, and then halts, its record is
kept and counted, after the groups of lower cores and slots that may halt with it; a halted group
that a function's window selects is discarded; and the host's writes reach the areas, the rings' CONS, the selection and
the status bits, of which a written 1 clears all but FENCED. -/
def Obligations.GroupsHaltAndTheHostReachesThem : Prop :=
  (∀ (s : State) (gid : Nat) (g : Group), s.group? gid = some g → g.status = .faulting →
    (haltDrained (withdraw s g) g = true → ∀ l ls, (withdraw s g).stagedLines g.vd gid = l :: ls → ∃ t w k, exec (.groupHalt gid) s = .next t ∧
      w ∈ l :: ls ∧ t = State.writeLine { withdraw s g with free := k } g.vd gid w) ∧
    (haltDrained (withdraw s g) g = true → (withdraw s g).stagedLines g.vd gid = [] → haltBefore s g = false → ∃ t h seq, exec (.groupHalt gid) s = .next t ∧ t.group? gid = some h ∧
      h.status = .halted ∧ h.faults = g.faults ∧ h.sregs = g.sregs ∧ h.record = (groupRecord g).bytes seq ∧
      (t.vd g.vd).fcount = (s.vd g.vd).fcount + 1) ∧
    (haltBefore s g = true → (withdraw s g).stagedLines g.vd gid = [] → ∃ t h, exec (.groupHalt gid) s = .next t ∧
      t.group? gid = some h ∧ h.status = .faulting ∧ t.mem = s.mem) ∧
    (haltDrained (withdraw s g) g = false → ∃ t h, exec (.groupHalt gid) s = .next t ∧ t.group? gid = some h ∧
      h.status = .faulting ∧ t.mem = s.mem)) ∧
  (∀ (s : State) (fn : Nat), functionExists s fn = true →
    (∀ g, inspected s fn = some g → ∃ t, exec (.inspectDiscard fn) s = .next t ∧ t.group? g.gid = none) ∧
    (inspected s fn = none → exec (.inspectDiscard fn) s = .next s)) ∧
  (∀ (s : State) (fn off : Nat) (data : List Byte), functionExists s fn = true →
    (off + data.length ≤ 0x40000 → off < 0x40000 → exec (.registerWrite fn off data) s = exec (.slotWrite fn off data) s) ∧
    (data.length = 4 → s.memOk = true → ∃ t, exec (.registerWrite fn 0xB0008 data) s = .next t ∧
      t.natAt (.sys fn (ringCtl + 8)) 4 = leNat data ∧ t.vds = s.vds ∧ t.groups = s.groups) ∧
    (data.length = 8 → ∃ t, exec (.registerWrite fn 0xB0100 data) s = .next t ∧ t.mem = s.mem ∧
      (t.vd fn).insp = BitVec.ofNat 64 (Nat.land (inspMask fn) (leNat data))) ∧
    (∀ b, data = [b] → ∃ t, exec (.registerWrite fn (2 ^ 32 + 0x20C) data) s = .next t ∧ t.mem = s.mem ∧
      ∀ i, i < 32 → (t.vd fn).status.getLsbD i = ((s.vd fn).status.getLsbD i && (i == 6 || !b.getLsbD i))))

/-- R452, R481, R483: a corrected error sets CORRECTED of the owner; an uncorrectable one poisons a scratchpad element, an element of a
register or of an accumulator row, fences the owner of control state, and makes a line of HBM fail. -/
def Sys2Proof.Machine.ScrubbersReport : Prop :=
  (∀ (s : State) (core row elem : Nat),
    (∃ t, exec (.sramScrub core (.spad row elem) .uncorrectable) s = .next t ∧ (2, row, elem) ∈ (t.core core).poison ∧ t.mem = s.mem) ∧
    (∃ t, exec (.sramScrub core (.acc row elem) .uncorrectable) s = .next t ∧ (4, row, elem) ∈ (t.core core).poison ∧ t.mem = s.mem) ∧
    (∀ gid g, s.group? gid = some g → ∃ t, exec (.sramScrub core (.reg gid row elem) .uncorrectable) s = .next t ∧
      (0, g.rowBase + row, elem) ∈ (t.core g.core).poison ∧ t.mem = s.mem) ∧
    (∀ what vd, sramOwner s core what = some vd → ∃ t, exec (.sramScrub core what .corrected) s = .next t ∧ t.mem = s.mem ∧
      (t.vd vd).status = (s.vd vd).status ||| 128#32 ∧ t.groups = s.groups) ∧
    (∀ what, exec (.sramScrub core what .clean) s = .next s)) ∧
  (∀ (s : State) (core vd : Nat), 0 < vd → (s.vd vd).fenced = false →
    ∃ t, exec (.sramScrub core (.control vd) .uncorrectable) s = .next t ∧ (t.vd vd).fenced = true ∧
      ∀ g ∈ t.groups, g.vd = vd → g.status = .faulting ∨ g.status = .halted) ∧
  (∀ (s : State) (vd line : Nat),
    (∃ t c, exec (.hbmPatrolScrub vd line .uncorrectable) s = .next t ∧ (line, 0x19, c) ∈ (t.vd vd).bad ∧
      c / 8 = setOf s (.hbm vd (128 * line)) ∧ t.mem = s.mem) ∧
    (∃ t, exec (.hbmPatrolScrub vd line .corrected) s = .next t ∧ (t.vd vd).status = (s.vd vd).status ||| 128#32) ∧
    exec (.hbmPatrolScrub vd line .remap) s = .next s)

/-- R407, R409: what the stacks hold of a line is its ciphertext under the device's key and the line's counters: it decrypts to the
plaintext, and a line that is not written under its key reads as zeros. -/
def Sys2Proof.Machine.LinesAreStoredEncrypted : Prop :=
  (∀ (key : BitVec 256) (major minor a : Nat) (plain : List Byte), plain.length = 128 →
    (lineCipher key major minor a plain).length = 128 ∧
    lineCipher key major minor a (lineCipher key major minor a plain) = plain) ∧
  (∀ (s : State) (vd a : Nat), let c := lineCounters (s.vd vd).leaves a
    (c.2.2 = true → readStored s vd a = s.bytesAt (.hbm vd (a / 128 * 128)) 128) ∧
    (c.2.2 = false → readStored s vd a = List.replicate 128 0)) ∧
  (∀ (s : State) (vd block : Nat), (macLines s vd block).length = 256 ∧ (leafLine s vd block).length = 128) ∧
  ∀ (s : State) (vd level ix : Nat), (innerLine s vd level ix).length = 128

namespace Sys2Proof.Machine

/-! ### The machine as a whole: decoding, steps, memory, faults, reset -/

/-- These bytes of code lie at an address in the device's HBM space, in pages that may be fetched from (R364, R369). -/
def CodeBytes (s : State) (vd va : Nat) (bs : List Byte) : Prop :=
  ∀ k, k < bs.length → ∃ m, (s.vd vd).maps.find? (fun m => m.va ≤ va + k && va + k < m.va + m.size) = some m ∧ m.self = false ∧
    m.loc = 0 ∧ m.x = true ∧ m.va % 2 ^ 16 = 0 ∧ m.size % 2 ^ 16 = 0 ∧
    s.mem.read (Loc.hbm vd (hbmAt m.runs (va + k - m.va))).key = bs.getD k 0

/-- The state in which the agenda's first entry acts on a core: the merges that are due there have taken place (R182). -/
def turnStart (s : State) (rest : List Act) (core : Nat) : State := mergeGroups { s with agenda := rest, held := false } core

/-- The state in which an issue of the agenda's first entry starts, with its core at a cycle. -/
def turnState (s : State) (rest : List Act) (core t : Nat) : State := reachCycle (turnStart s rest core) core t

/-- The group of the faulting split has taken a fault with this record (R440, R446). -/
def TookFault (t : State) (gid code detail insn : Nat) : Prop :=
  ∃ h f, t.group? gid = some h ∧ h.status = .faulting ∧ h.faults = [f] ∧ f.code = code ∧ f.detail = detail ∧ f.insn = insn

end Sys2Proof.Machine

/-- R59 to R62, R74 to R78: decoding the words of a well-formed instruction gives it back, with every operand. -/
def Obligations.DecodingUndoesEncoding : Prop :=
  ∀ i : Instr, WellFormed i → encode i ≠ [] → decodeWords (encode i) = .ok i

/-- R61, R62, R193, R369, R457: when nothing else is due, and what is fetched at a split's pc decodes to an instruction, a step in
which its unit has the opportunity is that instruction's `exec` (with the device's share counted), or, while a condition holds
it, only the unit's cycle passes; a step of a pipeline is `exec` of the lane instruction at its batch's index; and an event is
its `exec`. What is fetched is the bytes at the address. -/
def Obligations.AStepRunsTheDecodedInstruction : Prop :=
  (∀ (s s1 s3 : State) (core u n : Nat) (rest : List Act) (c : Cand) (i : Instr), u < 2 → s.agenda = .unit core u :: rest →
    dueTurn s = none → unitCands (turnStart s rest core) core u = [c] → c.sp.passOver = false → c.sp.pc < codeLen c.g c.ix →
    let t := max (max (s.now core) ((s.core core).units.getD u 0)) c.sp.earliest
    dueBefore (turnStart s rest core) core t = none →
    fetchBytes (turnState s rest core t) c.g (scalarCodeAt c.g c.ix c.sp.pc) 4 = (.word n, s1) →
    decodeScalar (BitVec.ofNat 32 n) = .ok i →
    exec i { s1 with cur := some (.split c.g.gid c.ix) } = .next s3 →
    (s3.held = false → step s = .next (shareTaken s3 core u [c.g.vd] c.g.vd)) ∧
    (s3.held = true → step s = .next (unitIssued { s3 with held := false } core u t))) ∧
  (∀ (s s1 s2 : State) (core p n : Nat) (rest : List Act) (g : Group) (b : Batch) (i : Instr), s.agenda = .pipe core p :: rest →
    dueTurn s = none → pipeBatch (turnStart s rest core) core p = some (g, b) →
    let slot := max (pipeSlot s core p) b.nextSlot
    (g.status = .faulting → g.trapAt = 3 * slot) → dueBefore (turnStart s rest core) core (3 * slot) = none →
    fetchBytes (turnState s rest core (max (s.now core) (3 * slot))) g (laneCodeAt g (b.first + b.next)) 12 = (.word n, s1) →
    decodeLane n = .ok i → exec i { s1 with cur := some (.batch g.gid b.bid) } = .next s2 →
    (s2.held = false → step s = .next s2) ∧
    (s2.held = true → step s = .next (pipeFrom { s2 with held := false } core b.pipe (slot + 1)))) ∧
  (∀ (s : State) (i : Instr) (rest : List Act), s.agenda = .event i :: rest → dueTurn s = none → encode i = [] →
    step s = exec i { s with agenda := rest, held := false, cur := none }) ∧
  (∀ (s : State) (g : Group) (va : Nat) (bs : List Byte), bs.length = 4 ∨ bs.length = 12 → CodeBytes s g.vd va bs →
    fetchBytes s g va bs.length = (.word (leNat bs), s))

/-- R457 to R460, R462: a word that is no instruction, and a pc past the end of the code, fault the group of the split that
issues, with the field and the reason, or the index and the length, in DETAIL. -/
def Sys2Proof.Machine.WordsThatAreNoInstructionFault : Prop :=
  (∀ (s : State) (core u : Nat) (rest : List Act) (c : Cand), u < 2 → s.agenda = .unit core u :: rest → dueTurn s = none →
    unitCands (turnStart s rest core) core u = [c] → c.sp.passOver = false →
    (turnStart s rest core).group? c.g.gid = some c.g → c.g.status = .running →
    let t := max (max (s.now core) ((s.core core).units.getD u 0)) c.sp.earliest
    dueBefore (turnStart s rest core) core t = none →
    (codeLen c.g c.ix ≤ c.sp.pc → ∃ t, step s = .next t ∧
      TookFault t c.g.gid 0x02 (rangeDetail c.sp.pc (codeLen c.g c.ix) false) 0) ∧
    (∀ v bs, c.sp.pc < codeLen c.g c.ix → bs.length = 4 → CodeBytes s c.g.vd (scalarCodeAt c.g c.ix c.sp.pc) bs →
      decodeScalar (BitVec.ofNat 32 (leNat bs)) = .error v → ∃ t, step s = .next t ∧
      TookFault t c.g.gid 0x01 (v.2 + 2 ^ 8 * v.1) (leNat bs))) ∧
  (∀ (s : State) (core p : Nat) (rest : List Act) (g : Group) (b : Batch) (v : Viol) (bs : List Byte),
    s.agenda = .pipe core p :: rest → dueTurn s = none → pipeBatch (turnStart s rest core) core p = some (g, b) →
    g.status = .running → (turnStart s rest core).group? g.gid = some g →
    dueBefore (turnStart s rest core) core (3 * max (pipeSlot s core p) b.nextSlot) = none → bs.length = 12 →
    CodeBytes s g.vd (laneCodeAt g (b.first + b.next)) bs → decodeLane (leNat bs) = .error v →
    ∃ t, step s = .next t ∧ TookFault t g.gid 0x01 (v.2 + 2 ^ 8 * v.1) (leNat bs))

/-- R370, R371: a fetch that meets a self-managed page without a valid entry, or a host page without a translation, parks its split
or its batch, which waits for the park. -/
def Sys2Proof.Machine.FetchesPark : Prop :=
  (∀ (s s1 : State) (core u why page addr : Nat) (hosts : List (Nat × Nat)) (pages : List Nat) (rest : List Act) (c : Cand), u < 2 →
    s.agenda = .unit core u :: rest → dueTurn s = none → unitCands (turnStart s rest core) core u = [c] →
    c.sp.pc < codeLen c.g c.ix →
    let t := max (max (s.now core) ((s.core core).units.getD u 0)) c.sp.earliest
    dueBefore (turnStart s rest core) core t = none →
    fetchBytes (turnState s rest core t) c.g (scalarCodeAt c.g c.ix c.sp.pc) 4 = (.park why page hosts pages addr, s1) →
    ∃ v p, step s = .next v ∧ p ∈ v.parks ∧ p.gid = c.g.gid ∧ p.who = c.ix ∧ p.why = why ∧ p.pages = pages ∧
      p.hosts = hosts.map (·.2) ∧ p.released = false ∧
      ∀ h sp, v.group? c.g.gid = some h → h.split? c.ix = some sp → sp.block = .park p.id) ∧
  (∀ (s s1 : State) (core q why page addr : Nat) (hosts : List (Nat × Nat)) (pages : List Nat) (rest : List Act) (g : Group)
    (b : Batch), s.agenda = .pipe core q :: rest → dueTurn s = none → pipeBatch (turnStart s rest core) core q = some (g, b) →
    g.status = .running →
    let slot := max (pipeSlot s core q) b.nextSlot
    dueBefore (turnStart s rest core) core (3 * slot) = none →
    fetchBytes (turnState s rest core (max (s.now core) (3 * slot))) g (laneCodeAt g (b.first + b.next)) 12 =
      (.park why page hosts pages addr, s1) →
    ∃ v p, step s = .next v ∧ p ∈ v.parks ∧ p.gid = g.gid ∧ p.who = 16 + b.bid ∧ p.why = why ∧ p.pages = pages ∧
      p.hosts = hosts.map (·.2) ∧ p.released = false)

/-- R186, R210, R277, R389, R390, R396, R454, R481: what may not wait comes before anything that the agenda names: a fence that a
failing line has asked for, a full-empty access whose
granule allows it, a barrier at which every counted group has arrived, a spawn bin whose timer has reached its value, a change of
residents, a slice and a save budget that have expired; and a core stops at the cycle after one at whose end such a thing is
due. -/
def Sys2Proof.Machine.WhatIsDueComesFirst : Prop :=
  (∀ s : State, s.hub.fences = [] → s.teams.any (teamOver s) = false →
    (∀ q, s.feqs.find? (feDue s) = some q → step s = exec (.feAccessServe q.id) { s with held := false, cur := none }) ∧
    (s.feqs.find? (feDue s) = none →
      (∀ b, dueBar s = some b → step s = exec (.barRelease b.1 b.2) { s with held := false, cur := none }) ∧
      (dueBar s = none →
        (∀ b, dueBin s = some b → step s = exec (.spawnBinTimer b.1 b.2) { s with held := false, cur := none }) ∧
        (dueBin s = none →
          (∀ r, dueResident s = some r → step s = exec (.deviceResident r.1 r.2) { s with held := false, cur := none }) ∧
          (dueResident s = none →
            (∀ r, dueSlice s = some r → step s = exec (.sliceExpiry r.1 r.2) { s with held := false, cur := none }) ∧
            (dueSlice s = none → ∀ g, s.groups.find? (budgetOver s) = some g →
              step s = exec (.handlerBudgetExpiry g.gid) { s with held := false, cur := none })))))) ∧
  (∀ (s : State) (f : FenceReq) (l : List FenceReq), s.hub.fences = f :: l → 0 < f.vd → (s.vd f.vd).fenced = false →
    ∃ t, step s = .next t ∧ (t.vd f.vd).fenced = true ∧ ∀ g ∈ t.groups, g.vd = f.vd → g.status = .faulting ∨ g.status = .halted) ∧
  (∀ (s : State) (core n h : Nat) (rest : List Act), s.agenda = .tick core n :: rest → dueTurn s = none →
    (dueBefore { s with agenda := rest, held := false } core (s.now core + n) = some h → h < s.now core + n →
      ∃ t, step s = .next t ∧ t.now core = h ∧ t.agenda = .tick core (s.now core + n - h) :: rest ∧ t.groups = s.groups ∧
        t.mem = s.mem) ∧
    (dueBefore { s with agenda := rest, held := false } core (s.now core + n) = none →
      ∃ t, step s = .next t ∧ t.now core = s.now core + n ∧ t.agenda = rest ∧ t.groups = s.groups ∧ t.mem = s.mem))

/-- R393, R459, R464, R465: at its issue a scalar instruction that breaks a field rule faults with the field and the reason; with
STALLCHK on, one that reads a result of its split too early faults with the register and the producer; and in a handler
one that writes s0 to s47 faults with 0x0B. -/
def Sys2Proof.Machine.IssueChecksFault : Prop :=
  (∀ (i : Instr) (s : State) (g : Group) (ix : Nat) (sp : Split) (v : Viol), (encode i).length = 1 →
    issuingSplit s = some (g, ix, sp) → g.status = .running → worstViol (violations i) = some v →
    ∃ t, exec i s = .next t ∧ Faults i s t g ix sp 0x01 0 (v.2 + 2 ^ 8 * v.1)) ∧
  (∀ (s : State) (g : Group) (ix : Nat) (sp : Split) (d : BitVec 6) (a b : BitVec 7) (t : BitVec 2) (p : Pend),
    let i := Instr.sadd d a b t
    issuingSplit s = some (g, ix, sp) → g.status = .running → WellFormed i → handlerBreach (issueOf i s g ix sp)
      (uses [a.toNat, b.toNat] [d.toNat]) = none → g.stallchk = true → a.toNat < 64 → pendHits g ix (.s a.toNat) = [p] →
    p.scalar = true → p.split = ix → p.mask &&& fullMask ≠ 0 → s.now g.core < p.ready → ∃ u, exec i s = .next u ∧ Faults i s u g ix sp 0x04 0
      (0x340 + a.toNat + 2 ^ 11 + 2 ^ 12 * (p.prod % 2 ^ 20) + 2 ^ 32 * ((p.ready - s.now g.core) % 2 ^ 8))) ∧
  (∀ (s : State) (g : Group) (sp : Split) (h : Handler) (d : BitVec 6) (a b : BitVec 7) (t : BitVec 2),
    let i := Instr.sadd d a b t
    issuingSplit s = some (g, 8, sp) → g.status = .running → WellFormed i → g.handler = some h → d.toNat < 48 →
    ∃ u, exec i s = .next u ∧ Faults i s u g 8 sp 0x0B 0 (1 + (if h.resume then 2 ^ 8 else 0) + 2 ^ 16 * 0x02))

/-- R440 to R442, R446, R453: a fault stops its group: the first one stands in its record, those of the same cycle are added, one for
each split in the order of their lowest lanes, later ones are counted, and a halted group stays; other groups go on; and no
split of a group that is not running is chosen to issue. -/
def Obligations.AFaultStopsItsGroup : Prop :=
  (∀ (s : State) (gid t : Nat) (g : Group) (f : FaultRec), s.group? gid = some g →
    (g.status = .running → (raiseFault s gid t f).group? gid =
      some { g with status := .faulting, trapAt := t, faults := [f] }) ∧
    (g.status = .faulting → g.trapAt = t → ∃ h, (raiseFault s gid t f).group? gid = some h ∧ h.status = .faulting ∧
      h.late = g.late ∧ ((∀ k ∈ g.faults, k.who ≠ f.who) → h.faults.Perm (f :: g.faults) ∧
        h.faults.Pairwise fun x y => x.low < y.low ∨ (x.low = y.low ∧ x.who ≤ y.who))) ∧
    (g.status = .faulting → g.trapAt ≠ t → ∃ h, (raiseFault s gid t f).group? gid = some h ∧ h.faults = g.faults ∧
      h.late.1 = (if g.late.2 = 0 then f.code else g.late.1) ∧ h.late.2 = min (g.late.2 + 1) (2 ^ 24 - 1)) ∧
    (g.status = .halted → (raiseFault s gid t f).group? gid = some g) ∧
    (∀ other, other ≠ gid → (raiseFault s gid t f).group? other = s.group? other) ∧
    (raiseFault s gid t f).mem = s.mem) ∧
  (∀ (s : State) (core u : Nat), ∀ c ∈ unitCands s core u, c.g.status = .running ∧ c.g ∈ s.groups ∧ c.sp.block = .none)

/-- R21, R58, R440: every instruction that a split or a batch issues, and every event, has a next state: the device stops at no
instruction. -/
def Obligations.EveryInstructionGoesOn : Prop :=
  ∀ (i : Instr) (s : State), ((encode i = []) ∨ ((encode i).length = 1 ∧ (issuingSplit s).isSome) ∨
    ((encode i).length = 3 ∧ (issuingBatch s).isSome)) → ∃ t, exec i s = .next t

/-- A read after a write of the same byte gives the byte, a write leaves every other byte, and the canonical form of memory is kept
by a write, by a string of bytes written, by a clearing and by a copy (the model's memory, log entry 4). -/
def Obligations.MemoryReadsWhatWasWritten : Prop :=
  (∀ (m : Memory) (a : Nat) (x : Byte), m.wf = true → (m.write a x).wf = true ∧ (m.write a x).read a = x ∧
    ∀ b, b ≠ a → (m.write a x).read b = m.read b) ∧
  (∀ (m : Memory) (a : Nat) (bs : List Byte), m.wf = true → (m.writeBytes a bs).wf = true ∧
    (∀ k, k < bs.length → (m.writeBytes a bs).read (a + k) = bs.getD k 0) ∧
    (∀ b, b < a ∨ a + bs.length ≤ b → (m.writeBytes a bs).read b = m.read b)) ∧
  (∀ (s : State) (l d : Loc) (n : Nat), s.memOk = true → (s.clearBytes l n).memOk = true ∧
    (∀ k, k < n → (s.clearBytes l n).mem.read (l.key + k) = 0) ∧
    (∀ b, b < l.key ∨ l.key + n ≤ b → (s.clearBytes l n).mem.read b = s.mem.read b) ∧ (s.copyBytes l d n).memOk = true ∧
    ((l.key + n ≤ d.key ∨ d.key + n ≤ l.key) → ∀ k, k < n → (s.copyBytes l d n).mem.read (d.key + k) = s.mem.read (l.key + k))) ∧
  (∀ (a b : Memory), a.wf = true → b.wf = true → (∀ k, a.read k = b.read k) → a = b)

/-- Every step keeps memory in its canonical form, so that equal memories are equal data (the model's own invariant). -/
def Obligations.EveryStepKeepsMemoryCanonical : Prop :=
  ∀ s t : State, s.memOk = true → step s = .next t → t.memOk = true

/-- R401, R406, R422, R425, R439, R448: what the spec gives for a reset: bring-up at stage 0, LIMIT 2,600 W, layout generation 0, no unlock,
VF Enable clear, the physical function's ring of 4,096 entries and its key, no group and no record; and memory has its canonical form. Generation 0, VF Enable clear and unwritten memory that reads 0 are
the model's choices (log entries 4 and 6). -/
def Obligations.ResetLeavesTheDeviceEmpty : Prop :=
  State.reset.hub.boot = 0 ∧ State.reset.hub.limit = 2600 ∧ State.reset.hub.layoutGen = 0 ∧ State.reset.hub.duState = 0 ∧
  State.reset.hub.vfEnable = false ∧ State.reset.hub.slots = [] ∧ State.reset.groups = [] ∧ (State.reset.vd 0).ringSize = 4096 ∧
  (∀ v, 0 < v → (State.reset.vd v).ringSize = 0) ∧ (∀ v, (State.reset.vd v).part = none ∧ (State.reset.vd v).gen = 0) ∧
  (State.reset.vd 0).key.isSome ∧
  (∀ a, State.reset.mem.read a = 0) ∧ State.reset.memOk = true

/-- R134, R135, R141, R142: for each floating-point format, the code of the value of a code that is no NaN is the code itself,
without a flag, in every rounding mode and with saturation off or on for finite values. -/
def Obligations.FormatCodesAreExact : Prop :=
  ∀ F ∈ [fmtF32, fmtF16, fmtBf16, fmtE4m3, fmtE5m2], ∀ (c : Nat) (m : Rnd), c < 2 ^ F.width → F.isNan c = false →
    enc F (dec F c false) m false false = (c, 0) ∧
    ((F.ieee = true → F.mag c ≠ F.infMag) → enc F (dec F c false) m true false = (c, 0))

/-- R59, R61, R62, R74 to R76: the words that the encoding tables give for an instruction of each of several families decode to it. -/
def Obligations.WrittenOutWordsDecode : Prop :=
  decodeScalar 0x04308101#32 = .ok (.sadd 3 4 4 1) ∧
  decodeScalar 0x5064A0A2#32 = .ok (.saddi 6 37 5 2) ∧
  decodeScalar 0xF8000004#32 = .ok (.exit 0) ∧
  decodeScalar 0xFC000000#32 = .ok (.nop 0 0) ∧
  (decodeScalar 0x04308141#32).toOption ≠ some (.sadd 3 4 4 1) ∧
  decodeLane (2 ^ 86 * 0x001 + 2 ^ 77 * 31 + 2 ^ 66 * 5 + 2 ^ 56 * 6 + 2 ^ 46 * 7 + 2 ^ 36 * 0x3FE + 2 ^ 20 * 0x13) =
    .ok (.vadd { stall := 0, guard := 31, inv := 0, dst := 5, a := 6, b := 7, c := 0x3FE, imm := 0, ty := 0x13, mode := 0, ext := 0 })

/-- R89: LOOP subtracts 1 from its register, modulo 2^32, with latency 1, and branches when the result is not zero; a field that names
a constant makes the word illegal. -/
def Obligations.LoopCountsDownAndBranches : Prop :=
  (∀ (s : State) (g : Group) (ix : Nat) (sp : Split) (a : BitVec 7) (x : BitVec 14) (t : BitVec 2),
    ScalarReady (.loop a x t) { reads := [a.toNat], writes := [(0x03, a.toNat)] } s g ix sp →
    let c := g.sval ix a.toNat - 1
    (c = 0 → Leaves (.loop a x t) s g ix sp 1 [(a.toNat, c)]) ∧
    (c ≠ 0 → JumpsTo (.loop a x t) s g ix sp (branchTarget sp x) [(a.toNat, c)])) ∧
  (∀ (a : BitVec 7) (x : BitVec 14) (t : BitVec 2), 64 ≤ a.toNat → ¬ WellFormed (.loop a x t))

/-- R104: GETFMT is op 0x36 with sa, sb and fn zero, and writes the split's format register to sd, bits 31:22 as zero, with
latency 2. -/
def Obligations.GetfmtReadsTheFormatRegister : Prop :=
  (∀ (s : State) (g : Group) (ix : Nat) (sp : Split) (d : BitVec 6) (t : BitVec 2),
    ScalarReady (.getfmt d t) (uses [] [d.toNat]) s g ix sp →
    Leaves (.getfmt d t) s g ix sp 2 [(d.toNat, (sp.fmt.extractLsb' 0 22).zeroExtend 32)]) ∧
  (∀ (d : BitVec 6) (t : BitVec 2), encode (.getfmt d t) = [0x36#6 ++ d ++ 0#18 ++ t]) ∧
  ∀ w : Word, w.extractLsb' 26 6 = 0x36 →
    ((w.extractLsb' 13 7 = 0 ∧ w.extractLsb' 6 7 = 0 ∧ w.extractLsb' 2 4 = 0 →
      decodeScalar w = .ok (.getfmt (w.extractLsb' 20 6) (w.extractLsb' 0 2))) ∧
     (w.extractLsb' 13 7 ≠ 0 ∨ w.extractLsb' 6 7 ≠ 0 ∨ w.extractLsb' 2 4 ≠ 0 → ∃ v, decodeScalar w = .error v))

/-- R63, R107: NOP is the hint word 0xFC00_0000 plus its stall count, and it and every word with primary 0x3F issue with no effect
beyond their stall; a lane word with guard 31 and invert 1 that is no hint is an illegal instruction. -/
def Obligations.HintWordsAndInvertedGuards : Prop :=
  (∀ (s : State) (g : Group) (ix : Nat) (sp : Split) (h : BitVec 24) (t : BitVec 2),
    ScalarReady (.nop h t) {} s g ix sp → Leaves (.nop h t) s g ix sp 1 []) ∧
  (∀ t : BitVec 2, encode (.nop 0 t) = [0xFC000000 + t.zeroExtend 32]) ∧
  (∀ w : Word, w.extractLsb' 26 6 = 0x3F → decodeScalar w = .ok (.nop (w.extractLsb' 2 24) (w.extractLsb' 0 2))) ∧
  (∀ w : Nat, bitsOf w 86 10 < 0x3F0 → bitsOf w 77 5 = 31 → bitsOf w 76 1 = 1 → ∃ v, decodeLane w = .error v) ∧
  ∀ (i : Instr) (op : Nat) (l : LaneF), laneParts i = some (op, l) → op < 0x3F0 → l.guard = 31 → l.inv = 1 → ¬ WellFormed i

/-! ### Statements of several parts -/

/-- R70, R79, R81, R82, R84: SADD, SSUB, SMUL, SMULH, the logic and the shift instructions complete with their results and
their frame. -/
def Obligations.ScalarArithmeticAndLogicResults : Prop :=
  ScalarArithmeticResults ∧ ScalarLogicAndShiftResults

/-- R79, R81, R82, R84, R85, R86: SMIN, SMAX, SCMP, SMOV, SPOPC, SCLZ, SADDI, SMOVI and SSEL complete with their results and
their frame. -/
def Obligations.ScalarCompareAndMoveResults : Prop :=
  ScalarCompareResults ∧ ScalarMoveResults

/-- R55, R80, R82, R83, R84: The .i64 scalar instructions complete on register pairs; SDIV starts, waits for its unit, and
delivers its value. -/
def Obligations.ScalarPairAndDivisionResults : Prop :=
  ScalarPairResults ∧ ScalarDivisionResults

/-- R87, R88, R90, R91: BR, JMP, CALL and RET go to their targets, with the link register, or take the code-range fault with
no effect. -/
def Obligations.BranchesCallsAndReturns : Prop :=
  BranchesGoToTheirTargets ∧ CallsAndReturns

/-- R94, R95, R96, R98, R101: YIELD, VSYNC, WAITC and VRUN go on with their effect, or hold the split, as what they wait for
says. -/
def Obligations.StreamControlAndVrun : Prop :=
  StreamControlGoesOnOrWaits ∧ VrunEnqueuesABatch

/-- R51, R56, R57, R58, R100, R103, R105: MASKP, SETFMT, RDSR and WRSR complete in every form, and SETFMT faults on a value
it does not take. -/
def Obligations.MasksFormatsAndSpecialRegisters : Prop :=
  MaskpResults ∧ SetfmtWritesTheFormatRegister ∧ SpecialRegisters

/-- R93, R179, R180, R181, R182, R183, R184: SPLIT divides the lanes of a split, JOIN waits and merges, EXIT ends the split.
-/
def Obligations.SplitsDivideMergeAndEnd : Prop :=
  SplitsDivideWaitAndEnd ∧ MergesJoinWaitingSplits

/-- R198, R201, R202, R204, R205, R206, R207, R208, R215, R216: SLD, SST and SATOM start their access, counted, and change
no register and no byte of memory before it is performed. -/
def Obligations.ScalarAccessesStart : Prop :=
  SldStartsALoad ∧ SstStartsAStore ∧ SatomStartsAnAtomic

/-- R209, R210, R211, R213: The .fe and .fec accesses to the scratchpad wait with one request a granule and are served when
the granule allows. -/
def Obligations.FullEmptyAccessesWaitAndAreServed : Prop :=
  FullEmptyScalarAccessesWait ∧ FullEmptyLaneAccessesWait ∧ FullEmptyAccessesAreServed

/-- R207, R208, R268, R407, R409, R480, R481: LOAD_COMPLETE writes what the element reads to its destination; a line that
fails faults its group or fences its device. -/
def Obligations.LoadsCompleteOrFail : Prop :=
  LoadCompleteWritesTheDestination ∧ LinesComeBackOrFail ∧ LinesAreStoredEncrypted

/-- R211, R215, R216, R268, R269, R270, R271: Stores leave their queue in order and write exactly their bytes; an atomic
replaces its element and returns the old value. -/
def Obligations.StoresAndAtomicsArePerformed : Prop :=
  StoresReachMemoryInOrder ∧ AtomicPerformReplacesAndReturns

/-- R70, R71, R110, R113, R114, R115: The integer, logic and shift lane instructions compute their rule in every active lane
and keep every other lane. -/
def Obligations.LaneIntegerLogicAndShiftResults : Prop :=
  LaneIntegerResults ∧ LaneLogicAndShiftResults

/-- R116, R117, R118, R119, R120, R121: The field, permute, select, move, compare and predicate lane instructions complete
with their results. -/
def Obligations.LaneFieldsMovesAndPredicates : Prop :=
  LaneFieldAndMoveResults ∧ PredicateResults

/-- R123, R124, R125, R126, R127, R128, R129, R130: Shuffles, broadcasts, votes, bitonic stages, reductions and scans
complete with their results. -/
def Obligations.CrossLaneAndReductionResults : Prop :=
  CrossLaneResults ∧ ReductionAndScanResults

/-- R159, R160, R161, R162, R163, R164, R165, R166, R167, R168: Floating-point compares, classes, roundings, special
functions, conversions, packings and the block format complete. -/
def Obligations.LaneFloatFunctionsAndConversions : Prop :=
  LaneFloatFunctionResults ∧ LaneConversionResults

/-- R201, R202, R203, R204, R205, R206, R207, R208, R213, R215, R216: VLD, VLDS, VST, VSTS and VATOM start their accesses in
lane order, counted, and change nothing before these are performed. -/
def Obligations.LaneAccessesStart : Prop :=
  LaneLoadsAndStoresStart ∧ VatomStartsAtomics

/-- R241, R242, R248, R249, R250, R252, R253, R254, R257, R258, R259, R260: MMA, MMAB, ACCRD, ACCWR, MLOADB, MMAS, ACCZ and
ACCST name an engine operation and wait for the engine. -/
def Obligations.EngineInstructionsStart : Prop :=
  LaneEngineOperationsStart ∧ ScalarEngineOperationsStart

/-- R221, R222, R223, R225, R226, R227, R228, R234: LCOPY and BCOPY name a copy and wait for its admission; PANARM arms a
pannier and PANREL releases one. -/
def Obligations.CopiesAndPanniersStart : Prop :=
  LcopyStartsACopy ∧ BcopyStartsACopy ∧ PanniersAreArmedAndReleased

/-- R185, R186, R187, R188, R189, R190, R191: VSPAWN and REGROUP put lanes in bins; a full bin or one whose timer has run
out fires and forms a group. -/
def Obligations.BinsCollectFireAndFormGroups : Prop :=
  VspawnDepositsArguments ∧ RegroupJoinsABin ∧ BinsFireAndFormGroups

/-- R300, R301, R302, R303, R306, R307: MARKPUT, MARKDROP and MARKMOVE change one directory entry; a move hands its entry
over, and forwards what waited. -/
def Obligations.MarksArePutMovedAndHandedOver : Prop :=
  MarksArePutDroppedAndMoved ∧ MovesHandEntriesOver

/-- R299, R304, R305, R309, R310, R311: SOLICIT, CENSUS and RESPOND complete; a solicitation is answered at each core and
its reports are counted once. -/
def Obligations.SolicitationsAskResolveAndCount : Prop :=
  SolicitCensusAndRespond ∧ SolicitationsResolveAndCount

/-- R325, R326, R328: CANCEL sets its word; CTRRD starts a 16-byte acquire load; QPUSH starts a push of its records. -/
def Obligations.CancelCtrrdAndQpushStart : Prop :=
  CancelSetsItsWord ∧ CtrrdAndQpushStart

/-- R327, R328, R329: A push reserves, copies and publishes its records; the courier moves batches of a post to its depot.
-/
def Obligations.PushesAndTheCourierMoveRecords : Prop :=
  PushesReserveCopyAndPublish ∧ TheCourierMovesBatches

/-- R396, R433, R434, R471: WAITN takes a full notify register or waits; a store to the register serves the oldest waiter;
YDONE ends a handler. -/
def Obligations.WaitersAreServed : Prop :=
  WaitnAndYdone ∧ NotifyStoresAreServed

/-- R149, R242, R244, R245, R246, R250, R251, R252: The engine admits in turn, grants tokens, streams passes and updates
accumulator rows exactly. -/
def Obligations.EngineStreamsAndAccumulates : Prop :=
  EngineAdmitsGrantsAndStreams ∧ AccRowUpdateAccumulates

/-- R242, R243, R250, R257, R258, R259, R260, R261: ENGINE_COMPLETE ends each kind of operation with its effect; SLOT_LOAD
fills the weight slot from its source. -/
def Obligations.EngineOperationsCompleteAndLoad : Prop :=
  EngineOperationsComplete ∧ SlotLoadFillsTheSlot

/-- R93, R176, R177, R178, R194, R324, R330, R331: GROUP_RETIRE ends a finished group, BATCH_START starts a batch,
UNIT_PLACE places a task as a group of one. -/
def Obligations.GroupsRetireAndTasksStart : Prop :=
  GroupsRetireAndBatchesStart ∧ UnitPlaceStartsATask

/-- R419, R420, R421, R425, R435, R505: SPDM requests are answered; only the right debug token unlocks; debug access reaches
what the mask allows. -/
def Obligations.EvidenceAndDebugAccess : Prop :=
  EvidenceIsGiven ∧ DebugUnlocksAndReaches

/-- R370, R371, R372, R479: Fetches park too; parked instructions are released by ATS completions and PRI responses, and
issue again or fault. -/
def Obligations.ParksAndTheirReleases : Prop :=
  FetchesPark ∧ ParksAreReleased

/-- R186, R210, R277, R389, R390, R391, R392, R393, R396: What is due comes first; a slice that has passed traps the groups
of its device; a trapped group starts its handler or is saved by the hardware. -/
def Obligations.SlicesAndTimersComeDue : Prop :=
  WhatIsDueComesFirst ∧ SlicesEndInTraps

/-- R401, R402, R438, R483, R507: The tokens follow the temperature of the dies, energy updates add up, and scrubbers report
what they find. -/
def Obligations.TokensEnergyAndScrubs : Prop :=
  TokensAndEnergyFollowTheDies ∧ ScrubbersReport

/-- R384, R436, R486, R487, R488, R490, R491, R492, R493, R494, R496, R506: A reset of a device ends its groups and raises
its generation; DEVICE_RESET and RESET_COMPLETE carry it through. -/
def Obligations.ResetsBeginAndComplete : Prop :=
  ResetsBegin ∧ ResetsComplete

/-- R106, R393, R440, R446, R457, R458, R459, R460, R462, R464, R465: TRAP takes the trap fault; an illegal word, a pc past
the code and a broken issue rule fault with their DETAIL. -/
def Obligations.TrapsAndIllegalWordsFault : Prop :=
  TrapTakesTheTrapFault ∧ WordsThatAreNoInstructionFault ∧ IssueChecksFault

end
end

