-- ==== Sys2Proof/Laws/Dispatch.lean ====
section
/-! SUPPORT. One law for each constructor of Instr: what `exec` calls for it. -/

namespace Sys2Proof.Machine

@[simp] theorem exec_sadd (d : BitVec 6) (a : BitVec 7) (b : BitVec 7) (t : BitVec 2) (s : State) :
    exec (.sadd d a b t) s = execSadd d a b t s := rfl
@[simp] theorem exec_saddI64 (d : BitVec 6) (a : BitVec 7) (b : BitVec 7) (t : BitVec 2) (s : State) :
    exec (.saddI64 d a b t) s = execSaddI64 d a b t s := rfl
@[simp] theorem exec_saddSat (d : BitVec 6) (a : BitVec 7) (b : BitVec 7) (t : BitVec 2) (s : State) :
    exec (.saddSat d a b t) s = execSaddSat d a b t s := rfl
@[simp] theorem exec_saddUsat (d : BitVec 6) (a : BitVec 7) (b : BitVec 7) (t : BitVec 2) (s : State) :
    exec (.saddUsat d a b t) s = execSaddUsat d a b t s := rfl
@[simp] theorem exec_ssub (d : BitVec 6) (a : BitVec 7) (b : BitVec 7) (t : BitVec 2) (s : State) :
    exec (.ssub d a b t) s = execSsub d a b t s := rfl
@[simp] theorem exec_ssubI64 (d : BitVec 6) (a : BitVec 7) (b : BitVec 7) (t : BitVec 2) (s : State) :
    exec (.ssubI64 d a b t) s = execSsubI64 d a b t s := rfl
@[simp] theorem exec_ssubSat (d : BitVec 6) (a : BitVec 7) (b : BitVec 7) (t : BitVec 2) (s : State) :
    exec (.ssubSat d a b t) s = execSsubSat d a b t s := rfl
@[simp] theorem exec_ssubUsat (d : BitVec 6) (a : BitVec 7) (b : BitVec 7) (t : BitVec 2) (s : State) :
    exec (.ssubUsat d a b t) s = execSsubUsat d a b t s := rfl
@[simp] theorem exec_smul (d : BitVec 6) (a : BitVec 7) (b : BitVec 7) (t : BitVec 2) (s : State) :
    exec (.smul d a b t) s = execSmul d a b t s := rfl
@[simp] theorem exec_smulh (d : BitVec 6) (a : BitVec 7) (b : BitVec 7) (t : BitVec 2) (s : State) :
    exec (.smulh d a b t) s = execSmulh d a b t s := rfl
@[simp] theorem exec_smulhZ32 (d : BitVec 6) (a : BitVec 7) (b : BitVec 7) (t : BitVec 2) (s : State) :
    exec (.smulhZ32 d a b t) s = execSmulhZ32 d a b t s := rfl
@[simp] theorem exec_sdiv (d : BitVec 6) (a : BitVec 7) (b : BitVec 7) (t : BitVec 2) (s : State) :
    exec (.sdiv d a b t) s = execSdiv d a b t s := rfl
@[simp] theorem exec_sdivZ32 (d : BitVec 6) (a : BitVec 7) (b : BitVec 7) (t : BitVec 2) (s : State) :
    exec (.sdivZ32 d a b t) s = execSdivZ32 d a b t s := rfl
@[simp] theorem exec_sdivRem (d : BitVec 6) (a : BitVec 7) (b : BitVec 7) (t : BitVec 2) (s : State) :
    exec (.sdivRem d a b t) s = execSdivRem d a b t s := rfl
@[simp] theorem exec_sdivRemZ32 (d : BitVec 6) (a : BitVec 7) (b : BitVec 7) (t : BitVec 2) (s : State) :
    exec (.sdivRemZ32 d a b t) s = execSdivRemZ32 d a b t s := rfl
@[simp] theorem exec_sdivResult (core : Nat) (unit : Nat) (s : State) :
    exec (.sdivResult core unit) s = execSdivResult core unit s := rfl
@[simp] theorem exec_sand (d : BitVec 6) (a : BitVec 7) (b : BitVec 7) (t : BitVec 2) (s : State) :
    exec (.sand d a b t) s = execSand d a b t s := rfl
@[simp] theorem exec_sandNot (d : BitVec 6) (a : BitVec 7) (b : BitVec 7) (t : BitVec 2) (s : State) :
    exec (.sandNot d a b t) s = execSandNot d a b t s := rfl
@[simp] theorem exec_sor (d : BitVec 6) (a : BitVec 7) (b : BitVec 7) (t : BitVec 2) (s : State) :
    exec (.sor d a b t) s = execSor d a b t s := rfl
@[simp] theorem exec_sorNot (d : BitVec 6) (a : BitVec 7) (b : BitVec 7) (t : BitVec 2) (s : State) :
    exec (.sorNot d a b t) s = execSorNot d a b t s := rfl
@[simp] theorem exec_sxor (d : BitVec 6) (a : BitVec 7) (b : BitVec 7) (t : BitVec 2) (s : State) :
    exec (.sxor d a b t) s = execSxor d a b t s := rfl
@[simp] theorem exec_sxorNot (d : BitVec 6) (a : BitVec 7) (b : BitVec 7) (t : BitVec 2) (s : State) :
    exec (.sxorNot d a b t) s = execSxorNot d a b t s := rfl
@[simp] theorem exec_sshl (d : BitVec 6) (a : BitVec 7) (b : BitVec 7) (t : BitVec 2) (s : State) :
    exec (.sshl d a b t) s = execSshl d a b t s := rfl
@[simp] theorem exec_sshlI64 (d : BitVec 6) (a : BitVec 7) (b : BitVec 7) (t : BitVec 2) (s : State) :
    exec (.sshlI64 d a b t) s = execSshlI64 d a b t s := rfl
@[simp] theorem exec_sshr (d : BitVec 6) (a : BitVec 7) (b : BitVec 7) (t : BitVec 2) (s : State) :
    exec (.sshr d a b t) s = execSshr d a b t s := rfl
@[simp] theorem exec_sshrI64 (d : BitVec 6) (a : BitVec 7) (b : BitVec 7) (t : BitVec 2) (s : State) :
    exec (.sshrI64 d a b t) s = execSshrI64 d a b t s := rfl
@[simp] theorem exec_ssar (d : BitVec 6) (a : BitVec 7) (b : BitVec 7) (t : BitVec 2) (s : State) :
    exec (.ssar d a b t) s = execSsar d a b t s := rfl
@[simp] theorem exec_ssarI64 (d : BitVec 6) (a : BitVec 7) (b : BitVec 7) (t : BitVec 2) (s : State) :
    exec (.ssarI64 d a b t) s = execSsarI64 d a b t s := rfl
@[simp] theorem exec_smin (d : BitVec 6) (a : BitVec 7) (b : BitVec 7) (t : BitVec 2) (s : State) :
    exec (.smin d a b t) s = execSmin d a b t s := rfl
@[simp] theorem exec_sminZ32 (d : BitVec 6) (a : BitVec 7) (b : BitVec 7) (t : BitVec 2) (s : State) :
    exec (.sminZ32 d a b t) s = execSminZ32 d a b t s := rfl
@[simp] theorem exec_smax (d : BitVec 6) (a : BitVec 7) (b : BitVec 7) (t : BitVec 2) (s : State) :
    exec (.smax d a b t) s = execSmax d a b t s := rfl
@[simp] theorem exec_smaxZ32 (d : BitVec 6) (a : BitVec 7) (b : BitVec 7) (t : BitVec 2) (s : State) :
    exec (.smaxZ32 d a b t) s = execSmaxZ32 d a b t s := rfl
@[simp] theorem exec_ssel (d : BitVec 6) (a : BitVec 7) (b : BitVec 7) (t : BitVec 2) (s : State) :
    exec (.ssel d a b t) s = execSsel d a b t s := rfl
@[simp] theorem exec_scmpEq (d : BitVec 6) (a : BitVec 7) (b : BitVec 7) (t : BitVec 2) (s : State) :
    exec (.scmpEq d a b t) s = execScmpEq d a b t s := rfl
@[simp] theorem exec_scmpNe (d : BitVec 6) (a : BitVec 7) (b : BitVec 7) (t : BitVec 2) (s : State) :
    exec (.scmpNe d a b t) s = execScmpNe d a b t s := rfl
@[simp] theorem exec_scmpLt (d : BitVec 6) (a : BitVec 7) (b : BitVec 7) (t : BitVec 2) (s : State) :
    exec (.scmpLt d a b t) s = execScmpLt d a b t s := rfl
@[simp] theorem exec_scmpLe (d : BitVec 6) (a : BitVec 7) (b : BitVec 7) (t : BitVec 2) (s : State) :
    exec (.scmpLe d a b t) s = execScmpLe d a b t s := rfl
@[simp] theorem exec_scmpUlt (d : BitVec 6) (a : BitVec 7) (b : BitVec 7) (t : BitVec 2) (s : State) :
    exec (.scmpUlt d a b t) s = execScmpUlt d a b t s := rfl
@[simp] theorem exec_scmpUle (d : BitVec 6) (a : BitVec 7) (b : BitVec 7) (t : BitVec 2) (s : State) :
    exec (.scmpUle d a b t) s = execScmpUle d a b t s := rfl
@[simp] theorem exec_smov (d : BitVec 6) (a : BitVec 7) (t : BitVec 2) (s : State) :
    exec (.smov d a t) s = execSmov d a t s := rfl
@[simp] theorem exec_smovI64 (d : BitVec 6) (a : BitVec 7) (t : BitVec 2) (s : State) :
    exec (.smovI64 d a t) s = execSmovI64 d a t s := rfl
@[simp] theorem exec_spopc (d : BitVec 6) (a : BitVec 7) (t : BitVec 2) (s : State) :
    exec (.spopc d a t) s = execSpopc d a t s := rfl
@[simp] theorem exec_sclz (d : BitVec 6) (a : BitVec 7) (t : BitVec 2) (s : State) :
    exec (.sclz d a t) s = execSclz d a t s := rfl
@[simp] theorem exec_smovi (d : BitVec 6) (im : BitVec 8) (t : BitVec 2) (s : State) :
    exec (.smovi d im t) s = execSmovi d im t s := rfl
@[simp] theorem exec_smoviZ (d : BitVec 6) (im : BitVec 8) (t : BitVec 2) (s : State) :
    exec (.smoviZ d im t) s = execSmoviZ d im t s := rfl
@[simp] theorem exec_smoviSh8 (d : BitVec 6) (im : BitVec 8) (t : BitVec 2) (s : State) :
    exec (.smoviSh8 d im t) s = execSmoviSh8 d im t s := rfl
@[simp] theorem exec_saddi (d : BitVec 6) (a : BitVec 7) (im : BitVec 8) (t : BitVec 2) (s : State) :
    exec (.saddi d a im t) s = execSaddi d a im t s := rfl
@[simp] theorem exec_saddiI64 (d : BitVec 6) (a : BitVec 7) (im : BitVec 8) (t : BitVec 2) (s : State) :
    exec (.saddiI64 d a im t) s = execSaddiI64 d a im t s := rfl
@[simp] theorem exec_sshli (d : BitVec 6) (a : BitVec 7) (im : BitVec 8) (t : BitVec 2) (s : State) :
    exec (.sshli d a im t) s = execSshli d a im t s := rfl
@[simp] theorem exec_sshliLsr (d : BitVec 6) (a : BitVec 7) (im : BitVec 8) (t : BitVec 2) (s : State) :
    exec (.sshliLsr d a im t) s = execSshliLsr d a im t s := rfl
@[simp] theorem exec_sshliAsr (d : BitVec 6) (a : BitVec 7) (im : BitVec 8) (t : BitVec 2) (s : State) :
    exec (.sshliAsr d a im t) s = execSshliAsr d a im t s := rfl
@[simp] theorem exec_brZ (a : BitVec 7) (x : BitVec 14) (t : BitVec 2) (s : State) :
    exec (.brZ a x t) s = execBrZ a x t s := rfl
@[simp] theorem exec_brNz (a : BitVec 7) (x : BitVec 14) (t : BitVec 2) (s : State) :
    exec (.brNz a x t) s = execBrNz a x t s := rfl
@[simp] theorem exec_brLt (a : BitVec 7) (x : BitVec 14) (t : BitVec 2) (s : State) :
    exec (.brLt a x t) s = execBrLt a x t s := rfl
@[simp] theorem exec_brGe (a : BitVec 7) (x : BitVec 14) (t : BitVec 2) (s : State) :
    exec (.brGe a x t) s = execBrGe a x t s := rfl
@[simp] theorem exec_brGt (a : BitVec 7) (x : BitVec 14) (t : BitVec 2) (s : State) :
    exec (.brGt a x t) s = execBrGt a x t s := rfl
@[simp] theorem exec_brLe (a : BitVec 7) (x : BitVec 14) (t : BitVec 2) (s : State) :
    exec (.brLe a x t) s = execBrLe a x t s := rfl
@[simp] theorem exec_brMz (x : BitVec 14) (t : BitVec 2) (s : State) :
    exec (.brMz x t) s = execBrMz x t s := rfl
@[simp] theorem exec_brMnz (x : BitVec 14) (t : BitVec 2) (s : State) :
    exec (.brMnz x t) s = execBrMnz x t s := rfl
@[simp] theorem exec_jmp (x : BitVec 14) (t : BitVec 2) (s : State) :
    exec (.jmp x t) s = execJmp x t s := rfl
@[simp] theorem exec_jmpInd (a : BitVec 7) (t : BitVec 2) (s : State) :
    exec (.jmpInd a t) s = execJmpInd a t s := rfl
@[simp] theorem exec_call (x : BitVec 14) (t : BitVec 2) (s : State) :
    exec (.call x t) s = execCall x t s := rfl
@[simp] theorem exec_callInd (a : BitVec 7) (t : BitVec 2) (s : State) :
    exec (.callInd a t) s = execCallInd a t s := rfl
@[simp] theorem exec_loop (a : BitVec 7) (x : BitVec 14) (t : BitVec 2) (s : State) :
    exec (.loop a x t) s = execLoop a x t s := rfl
@[simp] theorem exec_split (a : BitVec 7) (x : BitVec 14) (t : BitVec 2) (s : State) :
    exec (.split a x t) s = execSplit a x t s := rfl
@[simp] theorem exec_splitNot (a : BitVec 7) (x : BitVec 14) (t : BitVec 2) (s : State) :
    exec (.splitNot a x t) s = execSplitNot a x t s := rfl
@[simp] theorem exec_join (a : BitVec 7) (t : BitVec 2) (s : State) :
    exec (.join a t) s = execJoin a t s := rfl
@[simp] theorem exec_joinAll (t : BitVec 2) (s : State) :
    exec (.joinAll t) s = execJoinAll t s := rfl
@[simp] theorem exec_joinMerge (gid : Nat) (s : State) :
    exec (.joinMerge gid) s = execJoinMerge gid s := rfl
@[simp] theorem exec_vrun (c : BitVec 4) (l : BitVec 20) (t : BitVec 2) (s : State) :
    exec (.vrun c l t) s = execVrun c l t s := rfl
@[simp] theorem exec_maskpMov (d : BitVec 6) (b : BitVec 7) (t : BitVec 2) (s : State) :
    exec (.maskpMov d b t) s = execMaskpMov d b t s := rfl
@[simp] theorem exec_maskpAnd (d : BitVec 6) (a : BitVec 7) (b : BitVec 7) (t : BitVec 2) (s : State) :
    exec (.maskpAnd d a b t) s = execMaskpAnd d a b t s := rfl
@[simp] theorem exec_maskpAndn (d : BitVec 6) (a : BitVec 7) (b : BitVec 7) (t : BitVec 2) (s : State) :
    exec (.maskpAndn d a b t) s = execMaskpAndn d a b t s := rfl
@[simp] theorem exec_maskpOr (d : BitVec 6) (a : BitVec 7) (b : BitVec 7) (t : BitVec 2) (s : State) :
    exec (.maskpOr d a b t) s = execMaskpOr d a b t s := rfl
@[simp] theorem exec_waitc (d : BitVec 6) (im : BitVec 8) (t : BitVec 2) (s : State) :
    exec (.waitc d im t) s = execWaitc d im t s := rfl
@[simp] theorem exec_sld (d : BitVec 6) (a : BitVec 7) (b : BitVec 7) (f : BitVec 4) (t : BitVec 2) (s : State) :
    exec (.sld d a b f t) s = execSld d a b f t s := rfl
@[simp] theorem exec_sst (d : BitVec 6) (a : BitVec 7) (b : BitVec 7) (f : BitVec 4) (t : BitVec 2) (s : State) :
    exec (.sst d a b f t) s = execSst d a b f t s := rfl
@[simp] theorem exec_satom (d : BitVec 6) (a : BitVec 7) (b : BitVec 7) (f : BitVec 4) (t : BitVec 2) (s : State) :
    exec (.satom d a b f t) s = execSatom d a b f t s := rfl
@[simp] theorem exec_fence (im : BitVec 8) (t : BitVec 2) (s : State) :
    exec (.fence im t) s = execFence im t s := rfl
@[simp] theorem exec_fenceLd (im : BitVec 8) (t : BitVec 2) (s : State) :
    exec (.fenceLd im t) s = execFenceLd im t s := rfl
@[simp] theorem exec_fenceSt (im : BitVec 8) (t : BitVec 2) (s : State) :
    exec (.fenceSt im t) s = execFenceSt im t s := rfl
@[simp] theorem exec_fenceComplete (gid : Nat) (sp : Nat) (s : State) :
    exec (.fenceComplete gid sp) s = execFenceComplete gid sp s := rfl
@[simp] theorem exec_bar (im : BitVec 8) (t : BitVec 2) (s : State) :
    exec (.bar im t) s = execBar im t s := rfl
@[simp] theorem exec_barRelease (team : Nat) (b : Nat) (s : State) :
    exec (.barRelease team b) s = execBarRelease team b s := rfl
@[simp] theorem exec_bcopy (d : BitVec 6) (a : BitVec 7) (b : BitVec 7) (t : BitVec 2) (s : State) :
    exec (.bcopy d a b t) s = execBcopy d a b t s := rfl
@[simp] theorem exec_bcopyIl4 (d : BitVec 6) (a : BitVec 7) (b : BitVec 7) (t : BitVec 2) (s : State) :
    exec (.bcopyIl4 d a b t) s = execBcopyIl4 d a b t s := rfl
@[simp] theorem exec_copyAdmit (id : Nat) (s : State) :
    exec (.copyAdmit id) s = execCopyAdmit id s := rfl
@[simp] theorem exec_copyPortionTake (id : Nat) (s : State) :
    exec (.copyPortionTake id) s = execCopyPortionTake id s := rfl
@[simp] theorem exec_porterDelivery (id : Nat) (off : Nat) (len : Nat) (out : LineOut) (s : State) :
    exec (.porterDelivery id off len out) s = execPorterDelivery id off len out s := rfl
@[simp] theorem exec_panarm (d : BitVec 6) (a : BitVec 7) (t : BitVec 2) (s : State) :
    exec (.panarm d a t) s = execPanarm d a t s := rfl
@[simp] theorem exec_panrel (im : BitVec 8) (t : BitVec 2) (s : State) :
    exec (.panrel im t) s = execPanrel im t s := rfl
@[simp] theorem exec_panrelWait (im : BitVec 8) (t : BitVec 2) (s : State) :
    exec (.panrelWait im t) s = execPanrelWait im t s := rfl
@[simp] theorem exec_pannierReadEnd (id : Nat) (s : State) :
    exec (.pannierReadEnd id) s = execPannierReadEnd id s := rfl
@[simp] theorem exec_mloadb (n : BitVec 2) (a : BitVec 7) (b : BitVec 7) (f : BitVec 2) (t : BitVec 2) (s : State) :
    exec (.mloadb n a b f t) s = execMloadb n a b f t s := rfl
@[simp] theorem exec_slotLoad (id : Nat) (target : Nat) (out : LineOut) (s : State) :
    exec (.slotLoad id target out) s = execSlotLoad id target out s := rfl
@[simp] theorem exec_mmas (n : BitVec 2) (a : BitVec 7) (f : BitVec 2) (t : BitVec 2) (s : State) :
    exec (.mmas n a f t) s = execMmas n a f t s := rfl
@[simp] theorem exec_accz (a : BitVec 7) (b : BitVec 7) (t : BitVec 2) (s : State) :
    exec (.accz a b t) s = execAccz a b t s := rfl
@[simp] theorem exec_accst (d : BitVec 6) (a : BitVec 7) (b : BitVec 7) (t : BitVec 2) (s : State) :
    exec (.accst d a b t) s = execAccst d a b t s := rfl
@[simp] theorem exec_engineAdmit (id : Nat) (s : State) :
    exec (.engineAdmit id) s = execEngineAdmit id s := rfl
@[simp] theorem exec_tokenGrant (core : Nat) (s : State) :
    exec (.tokenGrant core) s = execTokenGrant core s := rfl
@[simp] theorem exec_passStreamStart (core : Nat) (s : State) :
    exec (.passStreamStart core) s = execPassStreamStart core s := rfl
@[simp] theorem exec_accRowUpdate (core : Nat) (s : State) :
    exec (.accRowUpdate core) s = execAccRowUpdate core s := rfl
@[simp] theorem exec_engineComplete (id : Nat) (s : State) :
    exec (.engineComplete id) s = execEngineComplete id s := rfl
@[simp] theorem exec_solicit (d : BitVec 6) (a : BitVec 7) (b : BitVec 7) (f : BitVec 4) (t : BitVec 2) (s : State) :
    exec (.solicit d a b f t) s = execSolicit d a b f t s := rfl
@[simp] theorem exec_census (d : BitVec 6) (a : BitVec 7) (t : BitVec 2) (s : State) :
    exec (.census d a t) s = execCensus d a t s := rfl
@[simp] theorem exec_respond (a : BitVec 7) (t : BitVec 2) (s : State) :
    exec (.respond a t) s = execRespond a t s := rfl
@[simp] theorem exec_markput (a : BitVec 7) (b : BitVec 7) (t : BitVec 2) (s : State) :
    exec (.markput a b t) s = execMarkput a b t s := rfl
@[simp] theorem exec_markdrop (a : BitVec 7) (b : BitVec 7) (t : BitVec 2) (s : State) :
    exec (.markdrop a b t) s = execMarkdrop a b t s := rfl
@[simp] theorem exec_markmove (d : BitVec 6) (a : BitVec 7) (b : BitVec 7) (t : BitVec 2) (s : State) :
    exec (.markmove d a b t) s = execMarkmove d a b t s := rfl
@[simp] theorem exec_moveInstall (id : Nat) (s : State) :
    exec (.moveInstall id) s = execMoveInstall id s := rfl
@[simp] theorem exec_moveAck (id : Nat) (s : State) :
    exec (.moveAck id) s = execMoveAck id s := rfl
@[simp] theorem exec_moveForward (id : Nat) (s : State) :
    exec (.moveForward id) s = execMoveForward id s := rfl
@[simp] theorem exec_moveRelease (id : Nat) (s : State) :
    exec (.moveRelease id) s = execMoveRelease id s := rfl
@[simp] theorem exec_solicitResolve (id : Nat) (s : State) :
    exec (.solicitResolve id) s = execSolicitResolve id s := rfl
@[simp] theorem exec_censusReport (id : Nat) (s : State) :
    exec (.censusReport id) s = execCensusReport id s := rfl
@[simp] theorem exec_responderStart (core : Nat) (vd : Nat) (s : State) :
    exec (.responderStart core vd) s = execResponderStart core vd s := rfl
@[simp] theorem exec_responderComplete (gid : Nat) (s : State) :
    exec (.responderComplete gid) s = execResponderComplete gid s := rfl
@[simp] theorem exec_qpush (d : BitVec 6) (a : BitVec 7) (b : BitVec 7) (f : BitVec 4) (t : BitVec 2) (s : State) :
    exec (.qpush d a b f t) s = execQpush d a b f t s := rfl
@[simp] theorem exec_qpushPublish (id : Nat) (s : State) :
    exec (.qpushPublish id) s = execQpushPublish id s := rfl
@[simp] theorem exec_cancelUnit (a : BitVec 7) (t : BitVec 2) (s : State) :
    exec (.cancelUnit a t) s = execCancelUnit a t s := rfl
@[simp] theorem exec_cancelLaunch (a : BitVec 7) (t : BitVec 2) (s : State) :
    exec (.cancelLaunch a t) s = execCancelLaunch a t s := rfl
@[simp] theorem exec_cancelGraph (a : BitVec 7) (t : BitVec 2) (s : State) :
    exec (.cancelGraph a t) s = execCancelGraph a t s := rfl
@[simp] theorem exec_cancelPhase (a : BitVec 7) (t : BitVec 2) (s : State) :
    exec (.cancelPhase a t) s = execCancelPhase a t s := rfl
@[simp] theorem exec_cancelJob (a : BitVec 7) (t : BitVec 2) (s : State) :
    exec (.cancelJob a t) s = execCancelJob a t s := rfl
@[simp] theorem exec_ctrrd (d : BitVec 6) (a : BitVec 7) (t : BitVec 2) (s : State) :
    exec (.ctrrd d a t) s = execCtrrd d a t s := rfl
@[simp] theorem exec_regroup (a : BitVec 7) (b : BitVec 7) (t : BitVec 2) (s : State) :
    exec (.regroup a b t) s = execRegroup a b t s := rfl
@[simp] theorem exec_setfmt (a : BitVec 7) (t : BitVec 2) (s : State) :
    exec (.setfmt a t) s = execSetfmt a t s := rfl
@[simp] theorem exec_setfmtRnd (im : BitVec 8) (t : BitVec 2) (s : State) :
    exec (.setfmtRnd im t) s = execSetfmtRnd im t s := rfl
@[simp] theorem exec_setfmtFtz (im : BitVec 8) (t : BitVec 2) (s : State) :
    exec (.setfmtFtz im t) s = execSetfmtFtz im t s := rfl
@[simp] theorem exec_setfmtAtype (im : BitVec 8) (t : BitVec 2) (s : State) :
    exec (.setfmtAtype im t) s = execSetfmtAtype im t s := rfl
@[simp] theorem exec_setfmtBtype (im : BitVec 8) (t : BitVec 2) (s : State) :
    exec (.setfmtBtype im t) s = execSetfmtBtype im t s := rfl
@[simp] theorem exec_setfmtSmode (im : BitVec 8) (t : BitVec 2) (s : State) :
    exec (.setfmtSmode im t) s = execSetfmtSmode im t s := rfl
@[simp] theorem exec_getfmt (d : BitVec 6) (t : BitVec 2) (s : State) :
    exec (.getfmt d t) s = execGetfmt d t s := rfl
@[simp] theorem exec_rdsr (d : BitVec 6) (im : BitVec 8) (t : BitVec 2) (s : State) :
    exec (.rdsr d im t) s = execRdsr d im t s := rfl
@[simp] theorem exec_wrsr (a : BitVec 7) (im : BitVec 8) (t : BitVec 2) (s : State) :
    exec (.wrsr a im t) s = execWrsr a im t s := rfl
@[simp] theorem exec_trap (im : BitVec 8) (t : BitVec 2) (s : State) :
    exec (.trap im t) s = execTrap im t s := rfl
@[simp] theorem exec_trapVal (a : BitVec 7) (im : BitVec 8) (t : BitVec 2) (s : State) :
    exec (.trapVal a im t) s = execTrapVal a im t s := rfl
@[simp] theorem exec_waitn (d : BitVec 6) (a : BitVec 7) (t : BitVec 2) (s : State) :
    exec (.waitn d a t) s = execWaitn d a t s := rfl
@[simp] theorem exec_savegS (d : BitVec 6) (a : BitVec 7) (t : BitVec 2) (s : State) :
    exec (.savegS d a t) s = execSavegS d a t s := rfl
@[simp] theorem exec_savegV (d : BitVec 6) (a : BitVec 7) (v : BitVec 2) (t : BitVec 2) (s : State) :
    exec (.savegV d a v t) s = execSavegV d a v t s := rfl
@[simp] theorem exec_savegO (d : BitVec 6) (a : BitVec 7) (t : BitVec 2) (s : State) :
    exec (.savegO d a t) s = execSavegO d a t s := rfl
@[simp] theorem exec_savegP (a : BitVec 7) (t : BitVec 2) (s : State) :
    exec (.savegP a t) s = execSavegP a t s := rfl
@[simp] theorem exec_loadgS (d : BitVec 6) (a : BitVec 7) (t : BitVec 2) (s : State) :
    exec (.loadgS d a t) s = execLoadgS d a t s := rfl
@[simp] theorem exec_loadgV (d : BitVec 6) (a : BitVec 7) (v : BitVec 2) (t : BitVec 2) (s : State) :
    exec (.loadgV d a v t) s = execLoadgV d a v t s := rfl
@[simp] theorem exec_loadgO (d : BitVec 6) (a : BitVec 7) (t : BitVec 2) (s : State) :
    exec (.loadgO d a t) s = execLoadgO d a t s := rfl
@[simp] theorem exec_loadgP (a : BitVec 7) (t : BitVec 2) (s : State) :
    exec (.loadgP a t) s = execLoadgP a t s := rfl
@[simp] theorem exec_tlbinv (a : BitVec 7) (b : BitVec 7) (t : BitVec 2) (s : State) :
    exec (.tlbinv a b t) s = execTlbinv a b t s := rfl
@[simp] theorem exec_tlbinvAll (t : BitVec 2) (s : State) :
    exec (.tlbinvAll t) s = execTlbinvAll t s := rfl
@[simp] theorem exec_ret (t : BitVec 2) (s : State) :
    exec (.ret t) s = execRet t s := rfl
@[simp] theorem exec_exit (t : BitVec 2) (s : State) :
    exec (.exit t) s = execExit t s := rfl
@[simp] theorem exec_yield (t : BitVec 2) (s : State) :
    exec (.yield t) s = execYield t s := rfl
@[simp] theorem exec_ydone (t : BitVec 2) (s : State) :
    exec (.ydone t) s = execYdone t s := rfl
@[simp] theorem exec_vsync (t : BitVec 2) (s : State) :
    exec (.vsync t) s = execVsync t s := rfl
@[simp] theorem exec_nop (h : BitVec 24) (t : BitVec 2) (s : State) :
    exec (.nop h t) s = execNop h t s := rfl
@[simp] theorem exec_vadd (l : LaneF) (s : State) :
    exec (.vadd l) s = execVadd l s := rfl
@[simp] theorem exec_vsub (l : LaneF) (s : State) :
    exec (.vsub l) s = execVsub l s := rfl
@[simp] theorem exec_vaddc (l : LaneF) (s : State) :
    exec (.vaddc l) s = execVaddc l s := rfl
@[simp] theorem exec_vmul (l : LaneF) (s : State) :
    exec (.vmul l) s = execVmul l s := rfl
@[simp] theorem exec_vmulh (l : LaneF) (s : State) :
    exec (.vmulh l) s = execVmulh l s := rfl
@[simp] theorem exec_vmad (l : LaneF) (s : State) :
    exec (.vmad l) s = execVmad l s := rfl
@[simp] theorem exec_vmin (l : LaneF) (s : State) :
    exec (.vmin l) s = execVmin l s := rfl
@[simp] theorem exec_vmax (l : LaneF) (s : State) :
    exec (.vmax l) s = execVmax l s := rfl
@[simp] theorem exec_vabs (l : LaneF) (s : State) :
    exec (.vabs l) s = execVabs l s := rfl
@[simp] theorem exec_vneg (l : LaneF) (s : State) :
    exec (.vneg l) s = execVneg l s := rfl
@[simp] theorem exec_vand (l : LaneF) (s : State) :
    exec (.vand l) s = execVand l s := rfl
@[simp] theorem exec_vor (l : LaneF) (s : State) :
    exec (.vor l) s = execVor l s := rfl
@[simp] theorem exec_vxor (l : LaneF) (s : State) :
    exec (.vxor l) s = execVxor l s := rfl
@[simp] theorem exec_vnot (l : LaneF) (s : State) :
    exec (.vnot l) s = execVnot l s := rfl
@[simp] theorem exec_vshl (l : LaneF) (s : State) :
    exec (.vshl l) s = execVshl l s := rfl
@[simp] theorem exec_vshr (l : LaneF) (s : State) :
    exec (.vshr l) s = execVshr l s := rfl
@[simp] theorem exec_vsar (l : LaneF) (s : State) :
    exec (.vsar l) s = execVsar l s := rfl
@[simp] theorem exec_vclz (l : LaneF) (s : State) :
    exec (.vclz l) s = execVclz l s := rfl
@[simp] theorem exec_vpopc (l : LaneF) (s : State) :
    exec (.vpopc l) s = execVpopc l s := rfl
@[simp] theorem exec_vbrev (l : LaneF) (s : State) :
    exec (.vbrev l) s = execVbrev l s := rfl
@[simp] theorem exec_vbfe (l : LaneF) (s : State) :
    exec (.vbfe l) s = execVbfe l s := rfl
@[simp] theorem exec_vbfi (l : LaneF) (s : State) :
    exec (.vbfi l) s = execVbfi l s := rfl
@[simp] theorem exec_vperm (l : LaneF) (s : State) :
    exec (.vperm l) s = execVperm l s := rfl
@[simp] theorem exec_vsel (l : LaneF) (s : State) :
    exec (.vsel l) s = execVsel l s := rfl
@[simp] theorem exec_vmov (l : LaneF) (s : State) :
    exec (.vmov l) s = execVmov l s := rfl
@[simp] theorem exec_vcmp (l : LaneF) (s : State) :
    exec (.vcmp l) s = execVcmp l s := rfl
@[simp] theorem exec_pand (l : LaneF) (s : State) :
    exec (.pand l) s = execPand l s := rfl
@[simp] theorem exec_por (l : LaneF) (s : State) :
    exec (.por l) s = execPor l s := rfl
@[simp] theorem exec_pxor (l : LaneF) (s : State) :
    exec (.pxor l) s = execPxor l s := rfl
@[simp] theorem exec_pnot (l : LaneF) (s : State) :
    exec (.pnot l) s = execPnot l s := rfl
@[simp] theorem exec_pmov (l : LaneF) (s : State) :
    exec (.pmov l) s = execPmov l s := rfl
@[simp] theorem exec_pset (l : LaneF) (s : State) :
    exec (.pset l) s = execPset l s := rfl
@[simp] theorem exec_psetMask (l : LaneF) (s : State) :
    exec (.psetMask l) s = execPsetMask l s := rfl
@[simp] theorem exec_vshfl (l : LaneF) (s : State) :
    exec (.vshfl l) s = execVshfl l s := rfl
@[simp] theorem exec_vbcast (l : LaneF) (s : State) :
    exec (.vbcast l) s = execVbcast l s := rfl
@[simp] theorem exec_vred (l : LaneF) (s : State) :
    exec (.vred l) s = execVred l s := rfl
@[simp] theorem exec_vscan (l : LaneF) (s : State) :
    exec (.vscan l) s = execVscan l s := rfl
@[simp] theorem exec_vvote (l : LaneF) (s : State) :
    exec (.vvote l) s = execVvote l s := rfl
@[simp] theorem exec_vcmpx (l : LaneF) (s : State) :
    exec (.vcmpx l) s = execVcmpx l s := rfl
@[simp] theorem exec_vlaneid (l : LaneF) (s : State) :
    exec (.vlaneid l) s = execVlaneid l s := rfl
@[simp] theorem exec_vfadd (l : LaneF) (s : State) :
    exec (.vfadd l) s = execVfadd l s := rfl
@[simp] theorem exec_vfsub (l : LaneF) (s : State) :
    exec (.vfsub l) s = execVfsub l s := rfl
@[simp] theorem exec_vfmul (l : LaneF) (s : State) :
    exec (.vfmul l) s = execVfmul l s := rfl
@[simp] theorem exec_vfma (l : LaneF) (s : State) :
    exec (.vfma l) s = execVfma l s := rfl
@[simp] theorem exec_vfmin (l : LaneF) (s : State) :
    exec (.vfmin l) s = execVfmin l s := rfl
@[simp] theorem exec_vfmax (l : LaneF) (s : State) :
    exec (.vfmax l) s = execVfmax l s := rfl
@[simp] theorem exec_vfabs (l : LaneF) (s : State) :
    exec (.vfabs l) s = execVfabs l s := rfl
@[simp] theorem exec_vfneg (l : LaneF) (s : State) :
    exec (.vfneg l) s = execVfneg l s := rfl
@[simp] theorem exec_vfcmp (l : LaneF) (s : State) :
    exec (.vfcmp l) s = execVfcmp l s := rfl
@[simp] theorem exec_vfclass (l : LaneF) (s : State) :
    exec (.vfclass l) s = execVfclass l s := rfl
@[simp] theorem exec_vrcp (l : LaneF) (s : State) :
    exec (.vrcp l) s = execVrcp l s := rfl
@[simp] theorem exec_vrsq (l : LaneF) (s : State) :
    exec (.vrsq l) s = execVrsq l s := rfl
@[simp] theorem exec_vsqrt (l : LaneF) (s : State) :
    exec (.vsqrt l) s = execVsqrt l s := rfl
@[simp] theorem exec_vexp2 (l : LaneF) (s : State) :
    exec (.vexp2 l) s = execVexp2 l s := rfl
@[simp] theorem exec_vlog2 (l : LaneF) (s : State) :
    exec (.vlog2 l) s = execVlog2 l s := rfl
@[simp] theorem exec_vfrnd (l : LaneF) (s : State) :
    exec (.vfrnd l) s = execVfrnd l s := rfl
@[simp] theorem exec_vcvt (l : LaneF) (s : State) :
    exec (.vcvt l) s = execVcvt l s := rfl
@[simp] theorem exec_vpack (l : LaneF) (s : State) :
    exec (.vpack l) s = execVpack l s := rfl
@[simp] theorem exec_vunpk (l : LaneF) (s : State) :
    exec (.vunpk l) s = execVunpk l s := rfl
@[simp] theorem exec_vbxdec (l : LaneF) (s : State) :
    exec (.vbxdec l) s = execVbxdec l s := rfl
@[simp] theorem exec_vbxenc (l : LaneF) (s : State) :
    exec (.vbxenc l) s = execVbxenc l s := rfl
@[simp] theorem exec_vflagsRd (l : LaneF) (s : State) :
    exec (.vflagsRd l) s = execVflagsRd l s := rfl
@[simp] theorem exec_vflagsClr (l : LaneF) (s : State) :
    exec (.vflagsClr l) s = execVflagsClr l s := rfl
@[simp] theorem exec_vflagsRdclr (l : LaneF) (s : State) :
    exec (.vflagsRdclr l) s = execVflagsRdclr l s := rfl
@[simp] theorem exec_vflagsWr (l : LaneF) (s : State) :
    exec (.vflagsWr l) s = execVflagsWr l s := rfl
@[simp] theorem exec_vld (l : LaneF) (s : State) :
    exec (.vld l) s = execVld l s := rfl
@[simp] theorem exec_vst (l : LaneF) (s : State) :
    exec (.vst l) s = execVst l s := rfl
@[simp] theorem exec_vlds (l : LaneF) (s : State) :
    exec (.vlds l) s = execVlds l s := rfl
@[simp] theorem exec_vsts (l : LaneF) (s : State) :
    exec (.vsts l) s = execVsts l s := rfl
@[simp] theorem exec_vatom (l : LaneF) (s : State) :
    exec (.vatom l) s = execVatom l s := rfl
@[simp] theorem exec_lcopy (l : LaneF) (s : State) :
    exec (.lcopy l) s = execLcopy l s := rfl
@[simp] theorem exec_vspawn (l : LaneF) (s : State) :
    exec (.vspawn l) s = execVspawn l s := rfl
@[simp] theorem exec_mma (l : LaneF) (s : State) :
    exec (.mma l) s = execMma l s := rfl
@[simp] theorem exec_mmab (l : LaneF) (s : State) :
    exec (.mmab l) s = execMmab l s := rfl
@[simp] theorem exec_accrd (l : LaneF) (s : State) :
    exec (.accrd l) s = execAccrd l s := rfl
@[simp] theorem exec_accwr (l : LaneF) (s : State) :
    exec (.accwr l) s = execAccwr l s := rfl
@[simp] theorem exec_laneHint (op : BitVec 4) (l : LaneF) (s : State) :
    exec (.laneHint op l) s = execLaneHint op l s := rfl
@[simp] theorem exec_batchStart (core : Nat) (pipe : Nat) (s : State) :
    exec (.batchStart core pipe) s = execBatchStart core pipe s := rfl
@[simp] theorem exec_batchResume (gid : Nat) (bid : Nat) (s : State) :
    exec (.batchResume gid bid) s = execBatchResume gid bid s := rfl
@[simp] theorem exec_feAccessServe (id : Nat) (s : State) :
    exec (.feAccessServe id) s = execFeAccessServe id s := rfl
@[simp] theorem exec_loadComplete (id : Nat) (el : Nat) (s : State) :
    exec (.loadComplete id el) s = execLoadComplete id el s := rfl
@[simp] theorem exec_storeAccept (id : Nat) (s : State) :
    exec (.storeAccept id) s = execStoreAccept id s := rfl
@[simp] theorem exec_spadArrayWrite (core : Nat) (s : State) :
    exec (.spadArrayWrite core) s = execSpadArrayWrite core s := rfl
@[simp] theorem exec_atomicPerform (id : Nat) (s : State) :
    exec (.atomicPerform id) s = execAtomicPerform id s := rfl
@[simp] theorem exec_groupRetire (gid : Nat) (s : State) :
    exec (.groupRetire gid) s = execGroupRetire gid s := rfl
@[simp] theorem exec_spawnBinTimer (core : Nat) (bin : Nat) (s : State) :
    exec (.spawnBinTimer core bin) s = execSpawnBinTimer core bin s := rfl
@[simp] theorem exec_binGroupResident (core : Nat) (bin : Nat) (s : State) :
    exec (.binGroupResident core bin) s = execBinGroupResident core bin s := rfl
@[simp] theorem exec_queueParse (vd : Nat) (q : Nat) (s : State) :
    exec (.queueParse vd q) s = execQueueParse vd q s := rfl
@[simp] theorem exec_unitPlace (s : State) :
    exec .unitPlace s = execUnitPlace s := rfl
@[simp] theorem exec_fenceRecordRead (vd : Nat) (q : Nat) (s : State) :
    exec (.fenceRecordRead vd q) s = execFenceRecordRead vd q s := rfl
@[simp] theorem exec_courierBatch (vd : Nat) (q : Nat) (k : Nat) (s : State) :
    exec (.courierBatch vd q k) s = execCourierBatch vd q k s := rfl
@[simp] theorem exec_courierTimeout (vd : Nat) (q : Nat) (s : State) :
    exec (.courierTimeout vd q) s = execCourierTimeout vd q s := rfl
@[simp] theorem exec_depotPublish (id : Nat) (s : State) :
    exec (.depotPublish id) s = execDepotPublish id s := rfl
@[simp] theorem exec_slotWrite (dom : Nat) (off : Nat) (data : List Byte) (s : State) :
    exec (.slotWrite dom off data) s = execSlotWrite dom off data s := rfl
@[simp] theorem exec_readSlot (dom : Nat) (slot : Nat) (s : State) :
    exec (.readSlot dom slot) s = execReadSlot dom slot s := rfl
@[simp] theorem exec_stepPartition (vd : Nat) (s : State) :
    exec (.stepPartition vd) s = execStepPartition vd s := rfl
@[simp] theorem exec_stepContext (vd : Nat) (s : State) :
    exec (.stepContext vd) s = execStepContext vd s := rfl
@[simp] theorem exec_stepMapping (vd : Nat) (readOk : Bool) (s : State) :
    exec (.stepMapping vd readOk) s = execStepMapping vd readOk s := rfl
@[simp] theorem exec_stepQueue (vd : Nat) (s : State) :
    exec (.stepQueue vd) s = execStepQueue vd s := rfl
@[simp] theorem exec_stepProgramCreate (vd : Nat) (readOk : Bool) (s : State) :
    exec (.stepProgramCreate vd readOk) s = execStepProgramCreate vd readOk s := rfl
@[simp] theorem exec_stepProgramRestart (vd : Nat) (s : State) :
    exec (.stepProgramRestart vd) s = execStepProgramRestart vd s := rfl
@[simp] theorem exec_programTeamPlace (vd : Nat) (id : Nat) (s : State) :
    exec (.programTeamPlace vd id) s = execProgramTeamPlace vd id s := rfl
@[simp] theorem exec_stepEnvelope (s : State) :
    exec .stepEnvelope s = execStepEnvelope s := rfl
@[simp] theorem exec_stepWindow (vd : Nat) (readOk : Bool) (s : State) :
    exec (.stepWindow vd readOk) s = execStepWindow vd readOk s := rfl
@[simp] theorem exec_stepKeyRelease (vd : Nat) (s : State) :
    exec (.stepKeyRelease vd) s = execStepKeyRelease vd s := rfl
@[simp] theorem exec_stepDelete (vd : Nat) (s : State) :
    exec (.stepDelete vd) s = execStepDelete vd s := rfl
@[simp] theorem exec_parkReplay (gid : Nat) (who : Nat) (s : State) :
    exec (.parkReplay gid who) s = execParkReplay gid who s := rfl
@[simp] theorem exec_atsCompletion (core : Nat) (vd : Nat) (haddr : Nat) (size : Nat) (r : Bool) (w : Bool) (s : State) :
    exec (.atsCompletion core vd haddr size r w) s = execAtsCompletion core vd haddr size r w s := rfl
@[simp] theorem exec_priResponse (vd : Nat) (haddr : Nat) (resp : PriResp) (s : State) :
    exec (.priResponse vd haddr resp) s = execPriResponse vd haddr resp s := rfl
@[simp] theorem exec_atsInvalidate (haddr : Nat) (size : Nat) (s : State) :
    exec (.atsInvalidate haddr size) s = execAtsInvalidate haddr size s := rfl
@[simp] theorem exec_sliceExpiry (core : Nat) (region : Nat) (s : State) :
    exec (.sliceExpiry core region) s = execSliceExpiry core region s := rfl
@[simp] theorem exec_handlerStart (gid : Nat) (s : State) :
    exec (.handlerStart gid) s = execHandlerStart gid s := rfl
@[simp] theorem exec_handlerBudgetExpiry (gid : Nat) (s : State) :
    exec (.handlerBudgetExpiry gid) s = execHandlerBudgetExpiry gid s := rfl
@[simp] theorem exec_forcedSave (gid : Nat) (s : State) :
    exec (.forcedSave gid) s = execForcedSave gid s := rfl
@[simp] theorem exec_regionSwitch (core : Nat) (region : Nat) (s : State) :
    exec (.regionSwitch core region) s = execRegionSwitch core region s := rfl
@[simp] theorem exec_deviceResident (core : Nat) (vd : Nat) (s : State) :
    exec (.deviceResident core vd) s = execDeviceResident core vd s := rfl
@[simp] theorem exec_thermalPoolStep (temps : List Nat) (s : State) :
    exec (.thermalPoolStep temps) s = execThermalPoolStep temps s := rfl
@[simp] theorem exec_energyUpdate (vd : Nat) (matrix : Nat) (lane : Nat) (memory : Nat) (other : Nat) (s : State) :
    exec (.energyUpdate vd matrix lane memory other) s = execEnergyUpdate vd matrix lane memory other s := rfl
@[simp] theorem exec_oasisGo (vd : Nat) (n : Nat) (s : State) :
    exec (.oasisGo vd n) s = execOasisGo vd n s := rfl
@[simp] theorem exec_notifyStore (vd : Nat) (n : Nat) (data : Word) (src : NotifySrc) (s : State) :
    exec (.notifyStore vd n data src) s = execNotifyStore vd n data src s := rfl
@[simp] theorem exec_debugTokenSubmit (s : State) :
    exec .debugTokenSubmit s = execDebugTokenSubmit s := rfl
@[simp] theorem exec_getVersion (fn : Nat) (s : State) :
    exec (.getVersion fn) s = execGetVersion fn s := rfl
@[simp] theorem exec_getCapabilities (fn : Nat) (s : State) :
    exec (.getCapabilities fn) s = execGetCapabilities fn s := rfl
@[simp] theorem exec_negotiateAlgorithms (fn : Nat) (s : State) :
    exec (.negotiateAlgorithms fn) s = execNegotiateAlgorithms fn s := rfl
@[simp] theorem exec_getDigests (fn : Nat) (s : State) :
    exec (.getDigests fn) s = execGetDigests fn s := rfl
@[simp] theorem exec_getCertificate (fn : Nat) (s : State) :
    exec (.getCertificate fn) s = execGetCertificate fn s := rfl
@[simp] theorem exec_challenge (fn : Nat) (nonce : Nat) (s : State) :
    exec (.challenge fn nonce) s = execChallenge fn nonce s := rfl
@[simp] theorem exec_getMeasurements (fn : Nat) (index : Nat) (signed : Bool) (nonce : Nat) (s : State) :
    exec (.getMeasurements fn index signed nonce) s = execGetMeasurements fn index signed nonce s := rfl
@[simp] theorem exec_keyExchange (fn : Nat) (exchange : Nat) (s : State) :
    exec (.keyExchange fn exchange) s = execKeyExchange fn exchange s := rfl
@[simp] theorem exec_tdiLeaveRun (vd : Nat) (error : Bool) (s : State) :
    exec (.tdiLeaveRun vd error) s = execTdiLeaveRun vd error s := rfl
@[simp] theorem exec_functionLevelReset (vd : Nat) (s : State) :
    exec (.functionLevelReset vd) s = execFunctionLevelReset vd s := rfl
@[simp] theorem exec_vfEnableSet (s : State) :
    exec .vfEnableSet s = execVfEnableSet s := rfl
@[simp] theorem exec_vfEnableClear (s : State) :
    exec .vfEnableClear s = execVfEnableClear s := rfl
@[simp] theorem exec_deviceReset (vd : Nat) (s : State) :
    exec (.deviceReset vd) s = execDeviceReset vd s := rfl
@[simp] theorem exec_resetComplete (vd : Nat) (s : State) :
    exec (.resetComplete vd) s = execResetComplete vd s := rfl
@[simp] theorem exec_coldReset (s : State) :
    exec .coldReset s = execColdReset s := rfl
@[simp] theorem exec_bootstateAdvance (ok : Bool) (s : State) :
    exec (.bootstateAdvance ok) s = execBootstateAdvance ok s := rfl
@[simp] theorem exec_peerFlitRetry (port : Nat) (s : State) :
    exec (.peerFlitRetry port) s = execPeerFlitRetry port s := rfl
@[simp] theorem exec_peerPortDown (port : Nat) (s : State) :
    exec (.peerPortDown port) s = execPeerPortDown port s := rfl
@[simp] theorem exec_peerAccessArrive (port : Nat) (dev : Nat) (vd : Nat) (addr : Nat) (kind : PeerKind) (data : List Byte) (s : State) :
    exec (.peerAccessArrive port dev vd addr kind data) s = execPeerAccessArrive port dev vd addr kind data s := rfl
@[simp] theorem exec_lineReadReturn (id : Nat) (el : Nat) (out : LineOut) (s : State) :
    exec (.lineReadReturn id el out) s = execLineReadReturn id el out s := rfl
@[simp] theorem exec_sramScrub (core : Nat) (what : SramAt) (out : ScrubOut) (s : State) :
    exec (.sramScrub core what out) s = execSramScrub core what out s := rfl
@[simp] theorem exec_hbmPatrolScrub (vd : Nat) (line : Nat) (out : ScrubOut) (s : State) :
    exec (.hbmPatrolScrub vd line out) s = execHbmPatrolScrub vd line out s := rfl
@[simp] theorem exec_groupHalt (gid : Nat) (s : State) :
    exec (.groupHalt gid) s = execGroupHalt gid s := rfl
@[simp] theorem exec_inspectDiscard (fn : Nat) (s : State) :
    exec (.inspectDiscard fn) s = execInspectDiscard fn s := rfl
@[simp] theorem exec_registerWrite (fn : Nat) (off : Nat) (data : List Byte) (s : State) :
    exec (.registerWrite fn off data) s = execRegisterWrite fn off data s := rfl
@[simp] theorem exec_tdiEntersRun (vd : Nat) (s : State) :
    exec (.tdiEntersRun vd) s = execTdiEntersRun vd s := rfl
@[simp] theorem exec_oasisHartAccess (hart : Nat) (addr : Nat) (kind : OasisKind) (data : List Byte) (s : State) :
    exec (.oasisHartAccess hart addr kind data) s = execOasisHartAccess hart addr kind data s := rfl
@[simp] theorem exec_oasisHartFence (hart : Nat) (predWrites : Bool) (s : State) :
    exec (.oasisHartFence hart predWrites) s = execOasisHartFence hart predWrites s := rfl
@[simp] theorem exec_debugAccess (vd : Nat) (loc : DebugLoc) (write : Bool) (data : List Byte) (s : State) :
    exec (.debugAccess vd loc write data) s = execDebugAccess vd loc write data s := rfl

end Sys2Proof.Machine
end

