-- ==== Sys2Proof/Laws/State.lean ====
section
/-! SUPPORT. The small laws of State: what each update of a part leaves of every other part, and what reading a part back
gives. -/

namespace Sys2Proof.Machine

/-! ### Lists -/

@[simp] theorem getElem?_padSet {α : Type} (d x : α) (l : List α) (n m : Nat) :
    (padSet d l n x)[m]?.getD d = if m = n then x else l[m]?.getD d := by
  induction n generalizing l m with
  | zero => cases l <;> cases m <;> simp [padSet]
  | succ n ih => cases l <;> cases m <;> simp [padSet, ih]

@[simp] theorem length_listSet {α : Type} (x : α) (l : List α) (n : Nat) : (listSet l n x).length = l.length := by
  induction l generalizing n with
  | nil => rfl
  | cons y l ih => cases n <;> simp [listSet, ih]

theorem getElem?_listSet {α : Type} (x : α) (l : List α) (n m : Nat) :
    (listSet l n x)[m]? = if m = n ∧ n < l.length then some x else l[m]? := by
  induction l generalizing n m with
  | nil => simp [listSet]
  | cons y l ih => cases n <;> cases m <;> simp [listSet, ih]

@[simp] theorem keyGet_keySet {α : Type} (d x : α) (l : List (Nat × α)) (a b : Nat) :
    keyGet d (keySet l a x) b = if a = b then x else keyGet d l b := by
  induction l with
  | nil => simp [keySet, keyGet]
  | cons p l ih =>
    obtain ⟨k, v⟩ := p
    by_cases h : a < k
    · simp [keySet, keyGet, h]
    · by_cases h' : a = k
      · subst h'; by_cases hb : a = b <;> simp [keySet, keyGet, hb]
      · by_cases hb : k = b
        · subst hb; simp [keySet, keyGet, h, h']
        · simp [keySet, keyGet, h, h', hb, ih]

@[simp] theorem length_fit {α : Type} (d : α) (n : Nat) (l : List α) : (fit d n l).length = n := by
  induction n generalizing l with
  | zero => rfl
  | succ n ih => cases l <;> simp [fit, ih]

theorem getElem?_fit {α : Type} (d : α) (n : Nat) (l : List α) (m : Nat) :
    (fit d n l)[m]? = if m < n then some (l[m]?.getD d) else none := by
  induction n generalizing l m with
  | zero => simp [fit]
  | succ n ih => cases l <;> cases m <;> simp [fit, ih]

/-! ### setGroup -/

@[simp] theorem State.setGroup_mem (s : State) (g : Group) : (s.setGroup g).mem = s.mem := rfl
@[simp] theorem State.setGroup_cores (s : State) (g : Group) : (s.setGroup g).cores = s.cores := rfl
@[simp] theorem State.setGroup_teams (s : State) (g : Group) : (s.setGroup g).teams = s.teams := rfl
@[simp] theorem State.setGroup_stores (s : State) (g : Group) : (s.setGroup g).stores = s.stores := rfl
@[simp] theorem State.setGroup_loads (s : State) (g : Group) : (s.setGroup g).loads = s.loads := rfl
@[simp] theorem State.setGroup_ops (s : State) (g : Group) : (s.setGroup g).ops = s.ops := rfl
@[simp] theorem State.setGroup_feqs (s : State) (g : Group) : (s.setGroup g).feqs = s.feqs := rfl
@[simp] theorem State.setGroup_parks (s : State) (g : Group) : (s.setGroup g).parks = s.parks := rfl
@[simp] theorem State.setGroup_copies (s : State) (g : Group) : (s.setGroup g).copies = s.copies := rfl
@[simp] theorem State.setGroup_engops (s : State) (g : Group) : (s.setGroup g).engops = s.engops := rfl
@[simp] theorem State.setGroup_moves (s : State) (g : Group) : (s.setGroup g).moves = s.moves := rfl
@[simp] theorem State.setGroup_solicits (s : State) (g : Group) : (s.setGroup g).solicits = s.solicits := rfl
@[simp] theorem State.setGroup_reports (s : State) (g : Group) : (s.setGroup g).reports = s.reports := rfl
@[simp] theorem State.setGroup_pushes (s : State) (g : Group) : (s.setGroup g).pushes = s.pushes := rfl
@[simp] theorem State.setGroup_trackers (s : State) (g : Group) : (s.setGroup g).trackers = s.trackers := rfl
@[simp] theorem State.setGroup_hostReqs (s : State) (g : Group) : (s.setGroup g).hostReqs = s.hostReqs := rfl
@[simp] theorem State.setGroup_vds (s : State) (g : Group) : (s.setGroup g).vds = s.vds := rfl
@[simp] theorem State.setGroup_hub (s : State) (g : Group) : (s.setGroup g).hub = s.hub := rfl
@[simp] theorem State.setGroup_reply (s : State) (g : Group) : (s.setGroup g).reply = s.reply := rfl
@[simp] theorem State.setGroup_agenda (s : State) (g : Group) : (s.setGroup g).agenda = s.agenda := rfl
@[simp] theorem State.setGroup_cur (s : State) (g : Group) : (s.setGroup g).cur = s.cur := rfl
@[simp] theorem State.setGroup_held (s : State) (g : Group) : (s.setGroup g).held = s.held := rfl
@[simp] theorem State.setGroup_free (s : State) (g : Group) : (s.setGroup g).free = s.free := rfl
@[simp] theorem State.setGroup_fresh (s : State) (g : Group) : (s.setGroup g).fresh = s.fresh := rfl

/-! ### modGroup -/

@[simp] theorem State.modGroup_mem (s : State) (gid : Nat) (f : Group → Group) : (s.modGroup gid f).mem = s.mem := rfl
@[simp] theorem State.modGroup_cores (s : State) (gid : Nat) (f : Group → Group) : (s.modGroup gid f).cores = s.cores := rfl
@[simp] theorem State.modGroup_teams (s : State) (gid : Nat) (f : Group → Group) : (s.modGroup gid f).teams = s.teams := rfl
@[simp] theorem State.modGroup_stores (s : State) (gid : Nat) (f : Group → Group) : (s.modGroup gid f).stores = s.stores := rfl
@[simp] theorem State.modGroup_loads (s : State) (gid : Nat) (f : Group → Group) : (s.modGroup gid f).loads = s.loads := rfl
@[simp] theorem State.modGroup_ops (s : State) (gid : Nat) (f : Group → Group) : (s.modGroup gid f).ops = s.ops := rfl
@[simp] theorem State.modGroup_feqs (s : State) (gid : Nat) (f : Group → Group) : (s.modGroup gid f).feqs = s.feqs := rfl
@[simp] theorem State.modGroup_parks (s : State) (gid : Nat) (f : Group → Group) : (s.modGroup gid f).parks = s.parks := rfl
@[simp] theorem State.modGroup_copies (s : State) (gid : Nat) (f : Group → Group) : (s.modGroup gid f).copies = s.copies := rfl
@[simp] theorem State.modGroup_engops (s : State) (gid : Nat) (f : Group → Group) : (s.modGroup gid f).engops = s.engops := rfl
@[simp] theorem State.modGroup_moves (s : State) (gid : Nat) (f : Group → Group) : (s.modGroup gid f).moves = s.moves := rfl
@[simp] theorem State.modGroup_solicits (s : State) (gid : Nat) (f : Group → Group) : (s.modGroup gid f).solicits = s.solicits := rfl
@[simp] theorem State.modGroup_reports (s : State) (gid : Nat) (f : Group → Group) : (s.modGroup gid f).reports = s.reports := rfl
@[simp] theorem State.modGroup_pushes (s : State) (gid : Nat) (f : Group → Group) : (s.modGroup gid f).pushes = s.pushes := rfl
@[simp] theorem State.modGroup_trackers (s : State) (gid : Nat) (f : Group → Group) : (s.modGroup gid f).trackers = s.trackers := rfl
@[simp] theorem State.modGroup_hostReqs (s : State) (gid : Nat) (f : Group → Group) : (s.modGroup gid f).hostReqs = s.hostReqs := rfl
@[simp] theorem State.modGroup_vds (s : State) (gid : Nat) (f : Group → Group) : (s.modGroup gid f).vds = s.vds := rfl
@[simp] theorem State.modGroup_hub (s : State) (gid : Nat) (f : Group → Group) : (s.modGroup gid f).hub = s.hub := rfl
@[simp] theorem State.modGroup_reply (s : State) (gid : Nat) (f : Group → Group) : (s.modGroup gid f).reply = s.reply := rfl
@[simp] theorem State.modGroup_agenda (s : State) (gid : Nat) (f : Group → Group) : (s.modGroup gid f).agenda = s.agenda := rfl
@[simp] theorem State.modGroup_cur (s : State) (gid : Nat) (f : Group → Group) : (s.modGroup gid f).cur = s.cur := rfl
@[simp] theorem State.modGroup_held (s : State) (gid : Nat) (f : Group → Group) : (s.modGroup gid f).held = s.held := rfl
@[simp] theorem State.modGroup_free (s : State) (gid : Nat) (f : Group → Group) : (s.modGroup gid f).free = s.free := rfl
@[simp] theorem State.modGroup_fresh (s : State) (gid : Nat) (f : Group → Group) : (s.modGroup gid f).fresh = s.fresh := rfl

/-! ### setCore -/

@[simp] theorem State.setCore_mem (s : State) (c : Nat) (k : Core) : (s.setCore c k).mem = s.mem := rfl
@[simp] theorem State.setCore_groups (s : State) (c : Nat) (k : Core) : (s.setCore c k).groups = s.groups := rfl
@[simp] theorem State.setCore_teams (s : State) (c : Nat) (k : Core) : (s.setCore c k).teams = s.teams := rfl
@[simp] theorem State.setCore_stores (s : State) (c : Nat) (k : Core) : (s.setCore c k).stores = s.stores := rfl
@[simp] theorem State.setCore_loads (s : State) (c : Nat) (k : Core) : (s.setCore c k).loads = s.loads := rfl
@[simp] theorem State.setCore_ops (s : State) (c : Nat) (k : Core) : (s.setCore c k).ops = s.ops := rfl
@[simp] theorem State.setCore_feqs (s : State) (c : Nat) (k : Core) : (s.setCore c k).feqs = s.feqs := rfl
@[simp] theorem State.setCore_parks (s : State) (c : Nat) (k : Core) : (s.setCore c k).parks = s.parks := rfl
@[simp] theorem State.setCore_copies (s : State) (c : Nat) (k : Core) : (s.setCore c k).copies = s.copies := rfl
@[simp] theorem State.setCore_engops (s : State) (c : Nat) (k : Core) : (s.setCore c k).engops = s.engops := rfl
@[simp] theorem State.setCore_moves (s : State) (c : Nat) (k : Core) : (s.setCore c k).moves = s.moves := rfl
@[simp] theorem State.setCore_solicits (s : State) (c : Nat) (k : Core) : (s.setCore c k).solicits = s.solicits := rfl
@[simp] theorem State.setCore_reports (s : State) (c : Nat) (k : Core) : (s.setCore c k).reports = s.reports := rfl
@[simp] theorem State.setCore_pushes (s : State) (c : Nat) (k : Core) : (s.setCore c k).pushes = s.pushes := rfl
@[simp] theorem State.setCore_trackers (s : State) (c : Nat) (k : Core) : (s.setCore c k).trackers = s.trackers := rfl
@[simp] theorem State.setCore_hostReqs (s : State) (c : Nat) (k : Core) : (s.setCore c k).hostReqs = s.hostReqs := rfl
@[simp] theorem State.setCore_vds (s : State) (c : Nat) (k : Core) : (s.setCore c k).vds = s.vds := rfl
@[simp] theorem State.setCore_hub (s : State) (c : Nat) (k : Core) : (s.setCore c k).hub = s.hub := rfl
@[simp] theorem State.setCore_reply (s : State) (c : Nat) (k : Core) : (s.setCore c k).reply = s.reply := rfl
@[simp] theorem State.setCore_agenda (s : State) (c : Nat) (k : Core) : (s.setCore c k).agenda = s.agenda := rfl
@[simp] theorem State.setCore_cur (s : State) (c : Nat) (k : Core) : (s.setCore c k).cur = s.cur := rfl
@[simp] theorem State.setCore_held (s : State) (c : Nat) (k : Core) : (s.setCore c k).held = s.held := rfl
@[simp] theorem State.setCore_free (s : State) (c : Nat) (k : Core) : (s.setCore c k).free = s.free := rfl
@[simp] theorem State.setCore_fresh (s : State) (c : Nat) (k : Core) : (s.setCore c k).fresh = s.fresh := rfl

/-! ### modCore -/

@[simp] theorem State.modCore_mem (s : State) (c : Nat) (f : Core → Core) : (s.modCore c f).mem = s.mem := rfl
@[simp] theorem State.modCore_groups (s : State) (c : Nat) (f : Core → Core) : (s.modCore c f).groups = s.groups := rfl
@[simp] theorem State.modCore_teams (s : State) (c : Nat) (f : Core → Core) : (s.modCore c f).teams = s.teams := rfl
@[simp] theorem State.modCore_stores (s : State) (c : Nat) (f : Core → Core) : (s.modCore c f).stores = s.stores := rfl
@[simp] theorem State.modCore_loads (s : State) (c : Nat) (f : Core → Core) : (s.modCore c f).loads = s.loads := rfl
@[simp] theorem State.modCore_ops (s : State) (c : Nat) (f : Core → Core) : (s.modCore c f).ops = s.ops := rfl
@[simp] theorem State.modCore_feqs (s : State) (c : Nat) (f : Core → Core) : (s.modCore c f).feqs = s.feqs := rfl
@[simp] theorem State.modCore_parks (s : State) (c : Nat) (f : Core → Core) : (s.modCore c f).parks = s.parks := rfl
@[simp] theorem State.modCore_copies (s : State) (c : Nat) (f : Core → Core) : (s.modCore c f).copies = s.copies := rfl
@[simp] theorem State.modCore_engops (s : State) (c : Nat) (f : Core → Core) : (s.modCore c f).engops = s.engops := rfl
@[simp] theorem State.modCore_moves (s : State) (c : Nat) (f : Core → Core) : (s.modCore c f).moves = s.moves := rfl
@[simp] theorem State.modCore_solicits (s : State) (c : Nat) (f : Core → Core) : (s.modCore c f).solicits = s.solicits := rfl
@[simp] theorem State.modCore_reports (s : State) (c : Nat) (f : Core → Core) : (s.modCore c f).reports = s.reports := rfl
@[simp] theorem State.modCore_pushes (s : State) (c : Nat) (f : Core → Core) : (s.modCore c f).pushes = s.pushes := rfl
@[simp] theorem State.modCore_trackers (s : State) (c : Nat) (f : Core → Core) : (s.modCore c f).trackers = s.trackers := rfl
@[simp] theorem State.modCore_hostReqs (s : State) (c : Nat) (f : Core → Core) : (s.modCore c f).hostReqs = s.hostReqs := rfl
@[simp] theorem State.modCore_vds (s : State) (c : Nat) (f : Core → Core) : (s.modCore c f).vds = s.vds := rfl
@[simp] theorem State.modCore_hub (s : State) (c : Nat) (f : Core → Core) : (s.modCore c f).hub = s.hub := rfl
@[simp] theorem State.modCore_reply (s : State) (c : Nat) (f : Core → Core) : (s.modCore c f).reply = s.reply := rfl
@[simp] theorem State.modCore_agenda (s : State) (c : Nat) (f : Core → Core) : (s.modCore c f).agenda = s.agenda := rfl
@[simp] theorem State.modCore_cur (s : State) (c : Nat) (f : Core → Core) : (s.modCore c f).cur = s.cur := rfl
@[simp] theorem State.modCore_held (s : State) (c : Nat) (f : Core → Core) : (s.modCore c f).held = s.held := rfl
@[simp] theorem State.modCore_free (s : State) (c : Nat) (f : Core → Core) : (s.modCore c f).free = s.free := rfl
@[simp] theorem State.modCore_fresh (s : State) (c : Nat) (f : Core → Core) : (s.modCore c f).fresh = s.fresh := rfl

/-! ### setVd -/

@[simp] theorem State.setVd_mem (s : State) (v : Nat) (d : VDev) : (s.setVd v d).mem = s.mem := rfl
@[simp] theorem State.setVd_cores (s : State) (v : Nat) (d : VDev) : (s.setVd v d).cores = s.cores := rfl
@[simp] theorem State.setVd_groups (s : State) (v : Nat) (d : VDev) : (s.setVd v d).groups = s.groups := rfl
@[simp] theorem State.setVd_teams (s : State) (v : Nat) (d : VDev) : (s.setVd v d).teams = s.teams := rfl
@[simp] theorem State.setVd_stores (s : State) (v : Nat) (d : VDev) : (s.setVd v d).stores = s.stores := rfl
@[simp] theorem State.setVd_loads (s : State) (v : Nat) (d : VDev) : (s.setVd v d).loads = s.loads := rfl
@[simp] theorem State.setVd_ops (s : State) (v : Nat) (d : VDev) : (s.setVd v d).ops = s.ops := rfl
@[simp] theorem State.setVd_feqs (s : State) (v : Nat) (d : VDev) : (s.setVd v d).feqs = s.feqs := rfl
@[simp] theorem State.setVd_parks (s : State) (v : Nat) (d : VDev) : (s.setVd v d).parks = s.parks := rfl
@[simp] theorem State.setVd_copies (s : State) (v : Nat) (d : VDev) : (s.setVd v d).copies = s.copies := rfl
@[simp] theorem State.setVd_engops (s : State) (v : Nat) (d : VDev) : (s.setVd v d).engops = s.engops := rfl
@[simp] theorem State.setVd_moves (s : State) (v : Nat) (d : VDev) : (s.setVd v d).moves = s.moves := rfl
@[simp] theorem State.setVd_solicits (s : State) (v : Nat) (d : VDev) : (s.setVd v d).solicits = s.solicits := rfl
@[simp] theorem State.setVd_reports (s : State) (v : Nat) (d : VDev) : (s.setVd v d).reports = s.reports := rfl
@[simp] theorem State.setVd_pushes (s : State) (v : Nat) (d : VDev) : (s.setVd v d).pushes = s.pushes := rfl
@[simp] theorem State.setVd_trackers (s : State) (v : Nat) (d : VDev) : (s.setVd v d).trackers = s.trackers := rfl
@[simp] theorem State.setVd_hostReqs (s : State) (v : Nat) (d : VDev) : (s.setVd v d).hostReqs = s.hostReqs := rfl
@[simp] theorem State.setVd_hub (s : State) (v : Nat) (d : VDev) : (s.setVd v d).hub = s.hub := rfl
@[simp] theorem State.setVd_reply (s : State) (v : Nat) (d : VDev) : (s.setVd v d).reply = s.reply := rfl
@[simp] theorem State.setVd_agenda (s : State) (v : Nat) (d : VDev) : (s.setVd v d).agenda = s.agenda := rfl
@[simp] theorem State.setVd_cur (s : State) (v : Nat) (d : VDev) : (s.setVd v d).cur = s.cur := rfl
@[simp] theorem State.setVd_held (s : State) (v : Nat) (d : VDev) : (s.setVd v d).held = s.held := rfl
@[simp] theorem State.setVd_free (s : State) (v : Nat) (d : VDev) : (s.setVd v d).free = s.free := rfl
@[simp] theorem State.setVd_fresh (s : State) (v : Nat) (d : VDev) : (s.setVd v d).fresh = s.fresh := rfl

/-! ### modVd -/

@[simp] theorem State.modVd_mem (s : State) (v : Nat) (f : VDev → VDev) : (s.modVd v f).mem = s.mem := rfl
@[simp] theorem State.modVd_cores (s : State) (v : Nat) (f : VDev → VDev) : (s.modVd v f).cores = s.cores := rfl
@[simp] theorem State.modVd_groups (s : State) (v : Nat) (f : VDev → VDev) : (s.modVd v f).groups = s.groups := rfl
@[simp] theorem State.modVd_teams (s : State) (v : Nat) (f : VDev → VDev) : (s.modVd v f).teams = s.teams := rfl
@[simp] theorem State.modVd_stores (s : State) (v : Nat) (f : VDev → VDev) : (s.modVd v f).stores = s.stores := rfl
@[simp] theorem State.modVd_loads (s : State) (v : Nat) (f : VDev → VDev) : (s.modVd v f).loads = s.loads := rfl
@[simp] theorem State.modVd_ops (s : State) (v : Nat) (f : VDev → VDev) : (s.modVd v f).ops = s.ops := rfl
@[simp] theorem State.modVd_feqs (s : State) (v : Nat) (f : VDev → VDev) : (s.modVd v f).feqs = s.feqs := rfl
@[simp] theorem State.modVd_parks (s : State) (v : Nat) (f : VDev → VDev) : (s.modVd v f).parks = s.parks := rfl
@[simp] theorem State.modVd_copies (s : State) (v : Nat) (f : VDev → VDev) : (s.modVd v f).copies = s.copies := rfl
@[simp] theorem State.modVd_engops (s : State) (v : Nat) (f : VDev → VDev) : (s.modVd v f).engops = s.engops := rfl
@[simp] theorem State.modVd_moves (s : State) (v : Nat) (f : VDev → VDev) : (s.modVd v f).moves = s.moves := rfl
@[simp] theorem State.modVd_solicits (s : State) (v : Nat) (f : VDev → VDev) : (s.modVd v f).solicits = s.solicits := rfl
@[simp] theorem State.modVd_reports (s : State) (v : Nat) (f : VDev → VDev) : (s.modVd v f).reports = s.reports := rfl
@[simp] theorem State.modVd_pushes (s : State) (v : Nat) (f : VDev → VDev) : (s.modVd v f).pushes = s.pushes := rfl
@[simp] theorem State.modVd_trackers (s : State) (v : Nat) (f : VDev → VDev) : (s.modVd v f).trackers = s.trackers := rfl
@[simp] theorem State.modVd_hostReqs (s : State) (v : Nat) (f : VDev → VDev) : (s.modVd v f).hostReqs = s.hostReqs := rfl
@[simp] theorem State.modVd_hub (s : State) (v : Nat) (f : VDev → VDev) : (s.modVd v f).hub = s.hub := rfl
@[simp] theorem State.modVd_reply (s : State) (v : Nat) (f : VDev → VDev) : (s.modVd v f).reply = s.reply := rfl
@[simp] theorem State.modVd_agenda (s : State) (v : Nat) (f : VDev → VDev) : (s.modVd v f).agenda = s.agenda := rfl
@[simp] theorem State.modVd_cur (s : State) (v : Nat) (f : VDev → VDev) : (s.modVd v f).cur = s.cur := rfl
@[simp] theorem State.modVd_held (s : State) (v : Nat) (f : VDev → VDev) : (s.modVd v f).held = s.held := rfl
@[simp] theorem State.modVd_free (s : State) (v : Nat) (f : VDev → VDev) : (s.modVd v f).free = s.free := rfl
@[simp] theorem State.modVd_fresh (s : State) (v : Nat) (f : VDev → VDev) : (s.modVd v f).fresh = s.fresh := rfl

/-! ### modHub -/

@[simp] theorem State.modHub_mem (s : State) (f : Hub → Hub) : (s.modHub f).mem = s.mem := rfl
@[simp] theorem State.modHub_cores (s : State) (f : Hub → Hub) : (s.modHub f).cores = s.cores := rfl
@[simp] theorem State.modHub_groups (s : State) (f : Hub → Hub) : (s.modHub f).groups = s.groups := rfl
@[simp] theorem State.modHub_teams (s : State) (f : Hub → Hub) : (s.modHub f).teams = s.teams := rfl
@[simp] theorem State.modHub_stores (s : State) (f : Hub → Hub) : (s.modHub f).stores = s.stores := rfl
@[simp] theorem State.modHub_loads (s : State) (f : Hub → Hub) : (s.modHub f).loads = s.loads := rfl
@[simp] theorem State.modHub_ops (s : State) (f : Hub → Hub) : (s.modHub f).ops = s.ops := rfl
@[simp] theorem State.modHub_feqs (s : State) (f : Hub → Hub) : (s.modHub f).feqs = s.feqs := rfl
@[simp] theorem State.modHub_parks (s : State) (f : Hub → Hub) : (s.modHub f).parks = s.parks := rfl
@[simp] theorem State.modHub_copies (s : State) (f : Hub → Hub) : (s.modHub f).copies = s.copies := rfl
@[simp] theorem State.modHub_engops (s : State) (f : Hub → Hub) : (s.modHub f).engops = s.engops := rfl
@[simp] theorem State.modHub_moves (s : State) (f : Hub → Hub) : (s.modHub f).moves = s.moves := rfl
@[simp] theorem State.modHub_solicits (s : State) (f : Hub → Hub) : (s.modHub f).solicits = s.solicits := rfl
@[simp] theorem State.modHub_reports (s : State) (f : Hub → Hub) : (s.modHub f).reports = s.reports := rfl
@[simp] theorem State.modHub_pushes (s : State) (f : Hub → Hub) : (s.modHub f).pushes = s.pushes := rfl
@[simp] theorem State.modHub_trackers (s : State) (f : Hub → Hub) : (s.modHub f).trackers = s.trackers := rfl
@[simp] theorem State.modHub_hostReqs (s : State) (f : Hub → Hub) : (s.modHub f).hostReqs = s.hostReqs := rfl
@[simp] theorem State.modHub_vds (s : State) (f : Hub → Hub) : (s.modHub f).vds = s.vds := rfl
@[simp] theorem State.modHub_reply (s : State) (f : Hub → Hub) : (s.modHub f).reply = s.reply := rfl
@[simp] theorem State.modHub_agenda (s : State) (f : Hub → Hub) : (s.modHub f).agenda = s.agenda := rfl
@[simp] theorem State.modHub_cur (s : State) (f : Hub → Hub) : (s.modHub f).cur = s.cur := rfl
@[simp] theorem State.modHub_held (s : State) (f : Hub → Hub) : (s.modHub f).held = s.held := rfl
@[simp] theorem State.modHub_free (s : State) (f : Hub → Hub) : (s.modHub f).free = s.free := rfl
@[simp] theorem State.modHub_fresh (s : State) (f : Hub → Hub) : (s.modHub f).fresh = s.fresh := rfl

/-! ### putBytes -/

@[simp] theorem State.putBytes_cores (s : State) (l : Loc) (bs : List Byte) : (s.putBytes l bs).cores = s.cores := rfl
@[simp] theorem State.putBytes_groups (s : State) (l : Loc) (bs : List Byte) : (s.putBytes l bs).groups = s.groups := rfl
@[simp] theorem State.putBytes_teams (s : State) (l : Loc) (bs : List Byte) : (s.putBytes l bs).teams = s.teams := rfl
@[simp] theorem State.putBytes_stores (s : State) (l : Loc) (bs : List Byte) : (s.putBytes l bs).stores = s.stores := rfl
@[simp] theorem State.putBytes_loads (s : State) (l : Loc) (bs : List Byte) : (s.putBytes l bs).loads = s.loads := rfl
@[simp] theorem State.putBytes_ops (s : State) (l : Loc) (bs : List Byte) : (s.putBytes l bs).ops = s.ops := rfl
@[simp] theorem State.putBytes_feqs (s : State) (l : Loc) (bs : List Byte) : (s.putBytes l bs).feqs = s.feqs := rfl
@[simp] theorem State.putBytes_parks (s : State) (l : Loc) (bs : List Byte) : (s.putBytes l bs).parks = s.parks := rfl
@[simp] theorem State.putBytes_copies (s : State) (l : Loc) (bs : List Byte) : (s.putBytes l bs).copies = s.copies := rfl
@[simp] theorem State.putBytes_engops (s : State) (l : Loc) (bs : List Byte) : (s.putBytes l bs).engops = s.engops := rfl
@[simp] theorem State.putBytes_moves (s : State) (l : Loc) (bs : List Byte) : (s.putBytes l bs).moves = s.moves := rfl
@[simp] theorem State.putBytes_solicits (s : State) (l : Loc) (bs : List Byte) : (s.putBytes l bs).solicits = s.solicits := rfl
@[simp] theorem State.putBytes_reports (s : State) (l : Loc) (bs : List Byte) : (s.putBytes l bs).reports = s.reports := rfl
@[simp] theorem State.putBytes_pushes (s : State) (l : Loc) (bs : List Byte) : (s.putBytes l bs).pushes = s.pushes := rfl
@[simp] theorem State.putBytes_trackers (s : State) (l : Loc) (bs : List Byte) : (s.putBytes l bs).trackers = s.trackers := rfl
@[simp] theorem State.putBytes_hostReqs (s : State) (l : Loc) (bs : List Byte) : (s.putBytes l bs).hostReqs = s.hostReqs := rfl
@[simp] theorem State.putBytes_vds (s : State) (l : Loc) (bs : List Byte) : (s.putBytes l bs).vds = s.vds := rfl
@[simp] theorem State.putBytes_hub (s : State) (l : Loc) (bs : List Byte) : (s.putBytes l bs).hub = s.hub := rfl
@[simp] theorem State.putBytes_reply (s : State) (l : Loc) (bs : List Byte) : (s.putBytes l bs).reply = s.reply := rfl
@[simp] theorem State.putBytes_agenda (s : State) (l : Loc) (bs : List Byte) : (s.putBytes l bs).agenda = s.agenda := rfl
@[simp] theorem State.putBytes_cur (s : State) (l : Loc) (bs : List Byte) : (s.putBytes l bs).cur = s.cur := rfl
@[simp] theorem State.putBytes_held (s : State) (l : Loc) (bs : List Byte) : (s.putBytes l bs).held = s.held := rfl
@[simp] theorem State.putBytes_free (s : State) (l : Loc) (bs : List Byte) : (s.putBytes l bs).free = s.free := rfl
@[simp] theorem State.putBytes_fresh (s : State) (l : Loc) (bs : List Byte) : (s.putBytes l bs).fresh = s.fresh := rfl

/-! ### clearBytes -/

@[simp] theorem State.clearBytes_cores (s : State) (l : Loc) (n : Nat) : (s.clearBytes l n).cores = s.cores := rfl
@[simp] theorem State.clearBytes_groups (s : State) (l : Loc) (n : Nat) : (s.clearBytes l n).groups = s.groups := rfl
@[simp] theorem State.clearBytes_teams (s : State) (l : Loc) (n : Nat) : (s.clearBytes l n).teams = s.teams := rfl
@[simp] theorem State.clearBytes_stores (s : State) (l : Loc) (n : Nat) : (s.clearBytes l n).stores = s.stores := rfl
@[simp] theorem State.clearBytes_loads (s : State) (l : Loc) (n : Nat) : (s.clearBytes l n).loads = s.loads := rfl
@[simp] theorem State.clearBytes_ops (s : State) (l : Loc) (n : Nat) : (s.clearBytes l n).ops = s.ops := rfl
@[simp] theorem State.clearBytes_feqs (s : State) (l : Loc) (n : Nat) : (s.clearBytes l n).feqs = s.feqs := rfl
@[simp] theorem State.clearBytes_parks (s : State) (l : Loc) (n : Nat) : (s.clearBytes l n).parks = s.parks := rfl
@[simp] theorem State.clearBytes_copies (s : State) (l : Loc) (n : Nat) : (s.clearBytes l n).copies = s.copies := rfl
@[simp] theorem State.clearBytes_engops (s : State) (l : Loc) (n : Nat) : (s.clearBytes l n).engops = s.engops := rfl
@[simp] theorem State.clearBytes_moves (s : State) (l : Loc) (n : Nat) : (s.clearBytes l n).moves = s.moves := rfl
@[simp] theorem State.clearBytes_solicits (s : State) (l : Loc) (n : Nat) : (s.clearBytes l n).solicits = s.solicits := rfl
@[simp] theorem State.clearBytes_reports (s : State) (l : Loc) (n : Nat) : (s.clearBytes l n).reports = s.reports := rfl
@[simp] theorem State.clearBytes_pushes (s : State) (l : Loc) (n : Nat) : (s.clearBytes l n).pushes = s.pushes := rfl
@[simp] theorem State.clearBytes_trackers (s : State) (l : Loc) (n : Nat) : (s.clearBytes l n).trackers = s.trackers := rfl
@[simp] theorem State.clearBytes_hostReqs (s : State) (l : Loc) (n : Nat) : (s.clearBytes l n).hostReqs = s.hostReqs := rfl
@[simp] theorem State.clearBytes_vds (s : State) (l : Loc) (n : Nat) : (s.clearBytes l n).vds = s.vds := rfl
@[simp] theorem State.clearBytes_hub (s : State) (l : Loc) (n : Nat) : (s.clearBytes l n).hub = s.hub := rfl
@[simp] theorem State.clearBytes_reply (s : State) (l : Loc) (n : Nat) : (s.clearBytes l n).reply = s.reply := rfl
@[simp] theorem State.clearBytes_agenda (s : State) (l : Loc) (n : Nat) : (s.clearBytes l n).agenda = s.agenda := rfl
@[simp] theorem State.clearBytes_cur (s : State) (l : Loc) (n : Nat) : (s.clearBytes l n).cur = s.cur := rfl
@[simp] theorem State.clearBytes_held (s : State) (l : Loc) (n : Nat) : (s.clearBytes l n).held = s.held := rfl
@[simp] theorem State.clearBytes_free (s : State) (l : Loc) (n : Nat) : (s.clearBytes l n).free = s.free := rfl
@[simp] theorem State.clearBytes_fresh (s : State) (l : Loc) (n : Nat) : (s.clearBytes l n).fresh = s.fresh := rfl

/-! ### Reading a part back -/

@[simp] theorem State.core_setCore (s : State) (c d : Nat) (k : Core) :
    (s.setCore c k).core d = if c = d then k else s.core d := by simp [State.core, State.setCore]

@[simp] theorem State.core_modCore (s : State) (c d : Nat) (f : Core → Core) :
    (s.modCore c f).core d = if c = d then f (s.core d) else s.core d := by
  by_cases h : c = d <;> simp [State.modCore, h]

@[simp] theorem State.vd_setVd (s : State) (v w : Nat) (d : VDev) :
    (s.setVd v d).vd w = if v = w then d else s.vd w := by simp [State.vd, State.setVd]

@[simp] theorem State.vd_modVd (s : State) (v w : Nat) (f : VDev → VDev) :
    (s.modVd v f).vd w = if v = w then f (s.vd w) else s.vd w := by
  by_cases h : v = w <;> simp [State.modVd, h]

@[simp] theorem State.hub_modHub (s : State) (f : Hub → Hub) : (s.modHub f).hub = f s.hub := rfl
@[simp] theorem State.mem_putBytes (s : State) (l : Loc) (bs : List Byte) :
    (s.putBytes l bs).mem = s.mem.writeBytes l.key bs := rfl

/-- The number of a group that `group?` finds. -/
theorem State.group?_gid {s : State} {gid : Nat} {g : Group} (h : s.group? gid = some g) : g.gid = gid := by
  simpa using List.find?_some h

theorem find?_map_gid (l : List Group) (f : Group → Group) (hf : ∀ g, (f g).gid = g.gid) (gid : Nat) :
    (l.map f).find? (fun g => g.gid == gid) = (l.find? fun g => g.gid == gid).map f := by
  induction l with
  | nil => rfl
  | cons g l ih => by_cases h : g.gid = gid <;> simp [hf, h, ih]

theorem State.group?_modGroup (s : State) (gid h : Nat) (f : Group → Group) (hf : ∀ g, (f g).gid = g.gid) :
    (s.modGroup gid f).group? h = if gid = h then (s.group? h).map f else s.group? h := by
  simp only [State.group?, State.modGroup]
  rw [find?_map_gid _ (fun g => if g.gid == gid then f g else g) (by intro g; split <;> simp [hf])]
  cases hg : s.groups.find? (fun g => g.gid == h) with
  | none => simp
  | some g =>
    have : g.gid = h := by simpa using List.find?_some hg
    subst this
    by_cases e : gid = g.gid
    · simp [e]
    · simp [e, Ne.symm e]

theorem State.group?_setGroup (s : State) (g : Group) (h : Nat) :
    (s.setGroup g).group? h = if g.gid = h then (s.group? h).map (fun _ => g) else s.group? h := by
  simp only [State.group?, State.setGroup, replaceBy]
  rw [find?_map_gid _ (fun k => if k.gid == g.gid then g else k) (by intro k; split <;> simp_all)]
  cases hg : s.groups.find? (fun k => k.gid == h) with
  | none => simp
  | some k =>
    have : k.gid = h := by simpa using List.find?_some hg
    subst this
    by_cases e : g.gid = k.gid
    · simp [e]
    · simp [e, Ne.symm e]

/-! ### Fences asked for -/

theorem askFence_eq (s : State) (vd code core detail : Nat) :
    askFence s vd code core detail = { s with hub := { s.hub with
      fences := s.hub.fences ++ [{ vd := vd, code := code, core := core, detail := detail }] } } := rfl

/-- A failing line asks for a fence, and changes nothing else. -/
theorem fenceBad_eq (s : State) (vd core : Nat) (l : Loc) :
    ∃ fs, fenceBad s vd core l = { s with hub := { s.hub with fences := fs } } := by
  unfold fenceBad
  split
  · exact ⟨_, rfl⟩
  · exact ⟨s.hub.fences, rfl⟩

theorem fenceZero_eq (s : State) (l : Loc) : ∃ fs, fenceZero s l = { s with hub := { s.hub with fences := fs } } := by
  unfold fenceZero
  split
  · exact fenceBad_eq s 0 0xFF l
  · exact ⟨s.hub.fences, rfl⟩

theorem fenceWalks_eq (s : State) (vd core va n : Nat) :
    ∃ fs, fenceWalks s vd core va n = { s with hub := { s.hub with fences := fs } } := by
  unfold fenceWalks
  split
  · exact ⟨s.hub.fences, rfl⟩
  · split
    · exact ⟨_, rfl⟩
    · exact ⟨s.hub.fences, rfl⟩

/-- Where no line fails, nothing is asked for. -/
theorem fenceBad_of_none {s : State} {l : Loc} (vd core : Nat) (h : hubLineBad s l = none) : fenceBad s vd core l = s := by
  simp [fenceBad, h]

/-! ### Splits and registers of a group -/

theorem Group.split?_setSplit (g : Group) (ix j : Nat) (sp : Split) (h : (g.split? ix).isSome) :
    (g.setSplit ix sp).split? j = if j = ix then some sp else g.split? j := by
  by_cases i8 : ix = 8
  · subst i8
    by_cases j8 : j = 8
    · subst j8; cases hh : g.handler <;> simp_all [Group.split?, Group.setSplit]
    · simp [Group.split?, Group.setSplit, j8]
  · have hl : ix < g.splits.length := by simpa [Group.split?, i8] using h
    by_cases j8 : j = 8
    · subst j8; simp [Group.split?, Group.setSplit, i8, Ne.symm i8]
    · by_cases e : j = ix
      · subst e; rw [if_pos rfl]; simp only [Group.split?, Group.setSplit, i8, if_false, getElem?_listSet, hl, and_self, if_true]
      · simp [Group.split?, Group.setSplit, i8, j8, getElem?_listSet, e]

theorem Group.split?_modSplit (g : Group) (ix j : Nat) (f : Split → Split) :
    (g.modSplit ix f).split? j = if j = ix then (g.split? j).map f else g.split? j := by
  unfold Group.modSplit
  cases h : g.split? ix with
  | none => by_cases e : j = ix <;> simp_all
  | some sp =>
    rw [Group.split?_setSplit g ix j _ (by simp [h])]
    by_cases e : j = ix <;> simp_all

/-- What changing a split leaves of its group. -/
theorem Group.modSplit_eq (g : Group) (ix : Nat) (f : Split → Split) :
    g.modSplit ix f = { g with splits := (g.modSplit ix f).splits, handler := (g.modSplit ix f).handler } := by
  unfold Group.modSplit Group.setSplit
  cases g.split? ix with
  | none => rfl
  | some sp => dsimp only; split <;> rfl

end Sys2Proof.Machine
end

