-- ==== Sys2Proof/Laws/Scalar.lean ====
section
/-! SUPPORT. What the issue of a scalar instruction does, said once: under `ScalarReady` the checks pass and the operands are
the registers' values; results and the end of an issue leave what `Issued` says. -/

namespace Sys2Proof.Machine

theorem prunePend_eq (g : Group) (t : Nat) : prunePend g t = { g with pend := (prunePend g t).pend } := rfl

@[simp] theorem prunePend_gid (g : Group) (t : Nat) : (prunePend g t).gid = g.gid := rfl
@[simp] theorem prunePend_core (g : Group) (t : Nat) : (prunePend g t).core = g.core := rfl
@[simp] theorem prunePend_sval (g : Group) (t ix n : Nat) : (prunePend g t).sval ix n = g.sval ix n := rfl

theorem mem_forget {done : Pend → Bool} {p : Pend} : ∀ {l : List Pend} {kept : List PReg}, p ∈ forget done kept l → p ∈ l
  | [], _, h => h
  | q :: l, kept, h => by
    unfold forget at h
    split at h
    · exact List.mem_cons_of_mem _ (mem_forget h)
    · rcases List.mem_cons.mp h with rfl | h
      · exact List.mem_cons_self ..
      · exact List.mem_cons_of_mem _ (mem_forget h)

theorem mem_prunePend {g : Group} {t : Nat} {p : Pend} (h : p ∈ (prunePend g t).pend) : p ∈ g.pend := mem_forget h

/-- A register all of whose results are seen reads as it stands. -/
theorem readReg_eq (s : State) (g : Group) (ix : Nat) (seen : Pend → Seen) (r : PReg) (now : List Word)
    (h : ∀ p ∈ pendHits g ix r, seen p = .yes) : readReg s g ix seen r now = (now, s) := by
  unfold readReg
  rw [if_pos (List.all_eq_true.mpr fun p hp => by simp [h p hp])]

/-- No read of results that are all seen comes too early. -/
theorem shortOf_none (seen : Pend → Seen) (checked : Pend → Bool) (m : LaneMask) (l : List Pend)
    (h : ∀ p ∈ l, seen p = .yes) : shortOf seen checked m l = none := by
  induction l generalizing m with
  | nil => rfl
  | cons p l ih =>
    have hl := fun m => ih m fun q hq => h q (by simp [hq])
    unfold shortOf
    rw [h p (by simp)]
    split <;> exact hl _

theorem Latest.pruned {g : Group} {ix t n : Nat} (h : Latest g ix t) : Latest (prunePend g n) ix t :=
  fun p hp => h p (mem_prunePend hp)

/-- Nothing stays over the latest result. -/
theorem Latest.over {g : Group} {ix t : Nat} (h : Latest g ix t) {p : Pend} (hs : p.split = ix) (ht : p.issued = t) :
    (g.pend.any fun q => q.reg == p.reg && q.stays p) = false := by
  simp only [List.any_eq_false, Bool.and_eq_true, not_and, Pend.stays, hs, ht, bne_iff_ne, ne_eq, Bool.or_eq_true,
    decide_eq_true_eq, beq_iff_eq]
  intro q hq _ hne
  have := h q hq hne.1
  omega

/-- The latest result of a register takes effect over what stands there. -/
theorem putResult_latest {g : Group} {ix t : Nat} (h : Latest g ix t) {p : Pend} (hs : p.split = ix) (ht : p.issued = t)
    (now w : List Word) (set : List Word → Group → Group) :
    g.putResult p now w set = { set (blend p.mask 0 now w) g with pend := g.pend ++ [{ p with old := now }] } := by
  unfold Group.putResult
  rw [h.over hs ht]
  rfl

/-- A further result of the split itself leaves nothing over a later one. -/
theorem Latest.more {g k : Group} {ix t : Nat} (h : Latest g ix t) {p : Pend} (hs : p.split = ix) (hk : k.pend = g.pend ++ [p]) :
    Latest k ix t := by
  intro q hq hne
  rw [hk] at hq
  rcases List.mem_append.mp hq with hq | hq
  · exact h q hq hne
  · rw [List.mem_singleton.mp hq] at hne
    exact absurd hs hne

theorem blend_one (o w : Word) : blend fullMask 0 [o] [w] = [w] := by
  simp [blend, fullMask, laneBit]

theorem pendHits_prunePend {g : Group} {t ix : Nat} {r : PReg} {p : Pend} (h : p ∈ pendHits (prunePend g t) ix r) :
    p ∈ pendHits g ix r := by
  simp only [pendHits, List.mem_filter] at h ⊢
  exact ⟨mem_prunePend h.1, h.2⟩

/-- What `issuingSplit` finds. -/
theorem issuingSplit_some {s : State} {g : Group} {ix : Nat} {sp : Split} (h : issuingSplit s = some (g, ix, sp)) :
    s.group? g.gid = some g ∧ g.split? ix = some sp := by
  unfold issuingSplit at h
  split at h
  · rename_i gid jx _
    split at h
    · cases h
    · rename_i g' hg
      cases hs : g'.split? jx with
      | none => simp [hs] at h
      | some sp' =>
        simp only [hs, Option.map_some, Option.some.injEq, Prod.mk.injEq] at h
        obtain ⟨rfl, rfl, rfl⟩ := h
        exact ⟨by rw [State.group?_gid hg]; exact hg, hs⟩
  · cases h

/-- With no result of a register still to come, the stall check passes. -/
theorem scStall_none (x : ScIss) (l : List Nat)
    (h : ∀ f ∈ l, f < 64 → ∀ p ∈ pendHits x.g x.ix (.s f), p.seenBy x.ix x.t = .yes) : scStall x l = none := by
  induction l with
  | nil => rfl
  | cons f l ih =>
    have hf : (if f < 64 then scShort x (.s f) else none) = none := by
      split
      · rename_i hlt
        exact shortOf_none _ _ _ _ fun p hp => h f (by simp) hlt p (List.mem_reverse.mp hp)
      · rfl
    rw [scStall, hf]
    exact ih fun f' hf' => h f' (by simp [hf'])

/-- With no result of a register still to come, its field reads as it stands. -/
theorem readField_eq (s : State) (g : Group) (ix t f : Nat)
    (h : f < 64 → ∀ p ∈ pendHits g ix (.s f), p.seenBy ix t = .yes) : readField s g ix t f = (g.sval ix f, s) := by
  unfold readField
  split
  · rfl
  · rename_i hf
    rw [readReg_eq s g ix _ _ _ (h (by omega))]
    rfl

theorem readFields_eq (s : State) (g : Group) (ix t : Nat) (l : List Nat)
    (h : ∀ f ∈ l, f < 64 → ∀ p ∈ pendHits g ix (.s f), p.seenBy ix t = .yes) : readFields s g ix t l = (l.map (g.sval ix), s) := by
  induction l with
  | nil => rfl
  | cons f l ih =>
    simp [readFields, readField_eq s g ix t f (h f (by simp)), ih fun f' hf' => h f' (by simp [hf'])]

/-- A scalar instruction that issues normally: its effect starts in `issueState`, on the values of its registers. -/
theorem scalarIssue_ready {i : Instr} {u : ScUse} {s : State} {g : Group} {ix : Nat} {sp : Split}
    (r : ScalarReady i u s g ix sp) (body : State → ScIss → List Word → ScRes) :
    scalarIssue i u body s =
      .next (scFinish (issueState s g) (issueOf i s g ix sp)
        (body (issueState s g) (issueOf i s g ix sp) (u.reads.map (g.sval ix)))) := by
  have hr : ∀ f ∈ u.reads, f < 64 → ∀ p ∈ pendHits (prunePend g (s.now g.core)) ix (.s f),
      p.seenBy ix (s.now g.core) = .yes :=
    fun f hf hlt p hp => r.readable f hf hlt p (pendHits_prunePend hp)
  have hl : ((u.reads.any fun f => f < 64 && scLocked (prunePend g (s.now g.core)) ix f) ||
      (u.writes.any fun w => scLocked (prunePend g (s.now g.core)) ix w.2)) = false := by
    simp only [Bool.or_eq_false_iff, List.any_eq_false, Bool.and_eq_true, decide_eq_true_eq, not_and]
    exact ⟨fun f hf hlt => Bool.eq_false_iff.mp (r.unlocked f hf hlt),
      fun w hw => Bool.eq_false_iff.mp (r.unclaimed w hw)⟩
  have hs : scStall (issueOf i s g ix sp) u.reads = none := scStall_none _ _ hr
  have hv : readFields (issueState s g) (issueOf i s g ix sp).g (issueOf i s g ix sp).ix (issueOf i s g ix sp).t u.reads
      = (u.reads.map (g.sval ix), issueState s g) := readFields_eq _ _ _ _ _ hr
  have hl' : ((u.reads.any fun f => f < 64 && scLocked (issueOf i s g ix sp).g (issueOf i s g ix sp).ix f) ||
      (u.writes.any fun w => scLocked (issueOf i s g ix sp).g (issueOf i s g ix sp).ix w.2)) = false := hl
  unfold scalarIssue
  rw [r.issuer]
  show Host.Outcome.next (scRun i u body (issueState s g) (issueOf i s g ix sp)) = _
  unfold scRun
  rw [show worstViol (violations i) = none by rw [show violations i = [] from r.formed]; rfl]
  simp only [r.allowed, hs, ite_self, hv, hl']
  simp

/-! ### Results and the end of an issue -/

/-- What setting a register leaves of its group. -/
theorem Group.sset_eq (g : Group) (ix n : Nat) (x : Word) :
    g.sset ix n x = { g with sregs := (g.sset ix n x).sregs, splits := (g.sset ix n x).splits,
                             handler := (g.sset ix n x).handler } := by
  unfold Group.sset Group.modSplit Group.setSplit
  split
  · rfl
  · cases g.split? ix with
    | none => rfl
    | some sp => dsimp only; split <;> rfl

/-- A register of a split set: what reading it or another gives. -/
theorem Group.sval_sset (g : Group) (ix n m : Nat) (x : Word) (hn : n < 64) (hs : (g.split? ix).isSome) :
    (g.sset ix n x).sval ix m = if m = n then x else g.sval ix m := by
  by_cases hm : 64 ≤ m
  · rw [if_neg (by omega), Group.sset_eq]
    simp [Group.sval, hm]
  · unfold Group.sset
    split
    · rename_i h48
      by_cases hm48 : m < 48
      · simp [Group.sval, hm, hm48]
      · have : m ≠ n := by omega
        simp [Group.sval, hm, hm48, this, Group.split?]
    · rename_i h48
      obtain ⟨sp, hsp⟩ := Option.isSome_iff_exists.mp hs
      by_cases hm48 : m < 48
      · have : m ≠ n := by omega
        rw [Group.modSplit_eq]; simp [Group.sval, hm, hm48, this]
      · simp only [Group.sval, hm, hm48, if_false, Group.split?_modSplit, if_true, hsp, Option.map_some,
          List.getD_eq_getElem?_getD, getElem?_padSet]
        by_cases e : m = n
        · simp [e]
        · rw [if_neg e, if_neg (by omega)]

@[simp] theorem Group.sset_gid (g : Group) (ix n : Nat) (x : Word) : (g.sset ix n x).gid = g.gid := by
  rw [Group.sset_eq]

theorem Group.split?_sset (g : Group) (ix n j : Nat) (x : Word) :
    (g.sset ix n x).split? j = if j = ix ∧ 48 ≤ n then (g.split? j).map (fun sp => { sp with priv := padSet 0 sp.priv (n - 48) x })
      else g.split? j := by
  unfold Group.sset
  split
  · rename_i h
    rw [if_neg (by omega)]; rfl
  · rename_i h
    rw [Group.split?_modSplit]
    by_cases e : j = ix
    · simp [e, Nat.le_of_not_lt h]
    · simp [e]

theorem Group.withRegsOf_trans {g h k : Group} (e1 : h = g.withRegsOf h) (e2 : k = h.withRegsOf k) : k = g.withRegsOf k := by
  rw [e2, e1]; rfl

theorem Group.phase_modSplit (g : Group) (ix : Nat) (f : Split → Split) : (g.modSplit ix f).phase = g.phase := by
  unfold Group.modSplit Group.setSplit Group.phase
  cases g.split? ix with
  | none => rfl
  | some sp => dsimp only; split <;> cases g.handler <;> rfl

theorem Group.phase_sset (g : Group) (ix n : Nat) (x : Word) : (g.sset ix n x).phase = g.phase := by
  unfold Group.sset
  split
  · rfl
  · exact Group.phase_modSplit ..

/-- The group after one result of a scalar instruction. -/
def putOne (x : ScIss) (lat : Nat) (g : Group) (w : Nat × Word) : Group :=
  g.putResult (scPend x lat w.1) [g.sval x.ix w.1] [w.2] fun v k => k.sset x.ix w.1 (v.headD 0)

theorem putOne_eq {x : ScIss} {g : Group} (h : Latest g x.ix x.t) (lat : Nat) (w : Nat × Word) :
    putOne x lat g w = { g.sset x.ix w.1 w.2 with pend := g.pend ++ [{ scPend x lat w.1 with old := [g.sval x.ix w.1] }] } := by
  unfold putOne
  rw [putResult_latest h rfl rfl, show (scPend x lat w.1).mask = fullMask from rfl, blend_one]
  rfl

/-- The group after the results of a scalar instruction. -/
def putAll (x : ScIss) (lat : Nat) (ws : List (Nat × Word)) (g : Group) : Group := ws.foldl (putOne x lat) g

theorem scPut_eq (s : State) (x : ScIss) (lat : Nat) (ws : List (Nat × Word)) :
    scPut s x lat ws = s.modGroup x.g.gid (putAll x lat ws) := rfl

/-- What the results of a scalar instruction leave of the group. -/
structure PutAll (x : ScIss) (lat : Nat) (ws : List (Nat × Word)) (g h : Group) : Prop where
  frame : h = g.withRegsOf h
  values : ws.Pairwise (fun a b => a.1 ≠ b.1) → ∀ w ∈ ws, h.sval x.ix w.1 = w.2
  registers : ∀ n, (∀ w ∈ ws, w.1 ≠ n) → h.sval x.ix n = g.sval x.ix n
  splits : ∀ j, j ≠ x.ix → h.split? j = g.split? j
  split : ∀ sp, g.split? x.ix = some sp → ∃ q, h.split? x.ix = some { sp with priv := q }
  phase : h.phase = g.phase
  kept : ∀ p ∈ g.pend, p ∈ h.pend
  later : ∀ w ∈ ws, ∃ p ∈ h.pend, p.reg = .s w.1 ∧ p.split = x.ix ∧ p.ready = x.t + lat

theorem putAll_spec (x : ScIss) (lat : Nat) (ws : List (Nat × Word)) (g : Group) (hs : (g.split? x.ix).isSome)
    (ht : Latest g x.ix x.t) (hn : ∀ w ∈ ws, w.1 < 64) : PutAll x lat ws g (putAll x lat ws g) := by
  induction ws generalizing g with
  | nil =>
    exact ⟨rfl, by simp, fun _ _ => rfl, fun _ _ => rfl, fun sp h => ⟨sp.priv, h⟩, rfl, fun _ h => h, by simp⟩
  | cons w ws ih =>
    obtain ⟨sp0, hsp0⟩ := Option.isSome_iff_exists.mp hs
    have hw : w.1 < 64 := hn w (by simp)
    let g1 : Group := { g.sset x.ix w.1 w.2 with
      pend := g.pend ++ [{ scPend x lat w.1 with old := [g.sval x.ix w.1] }] }
    have e1 : ∀ n, g1.sval x.ix n = if n = w.1 then w.2 else g.sval x.ix n :=
      fun n => Group.sval_sset g x.ix w.1 n w.2 hw hs
    have e2 : ∀ j, g1.split? j = (g.sset x.ix w.1 w.2).split? j := fun _ => rfl
    have hs1 : (g1.split? x.ix).isSome := by
      rw [e2, Group.split?_sset]; split <;> simp [hsp0]
    have I := ih g1 hs1 (ht.more rfl rfl) (fun v hv => hn v (by simp [hv]))
    have hput : putAll x lat (w :: ws) g = putAll x lat ws g1 := by
      show putAll x lat ws (putOne x lat g w) = _
      rw [putOne_eq ht]
    rw [hput]
    refine ⟨?_, ?_, ?_, ?_, ?_, ?_, ?_, ?_⟩
    · refine Group.withRegsOf_trans ?_ I.frame
      show ({ g.sset x.ix w.1 w.2 with pend := _ } : Group) = _
      rw [Group.sset_eq]; rfl
    · intro hp v hv
      obtain ⟨hd, hp⟩ := List.pairwise_cons.mp hp
      rcases List.mem_cons.mp hv with rfl | hv
      · rw [I.registers _ (fun u hu => (hd u hu).symm), e1, if_pos rfl]
      · exact I.values hp v hv
    · intro n hn'
      rw [I.registers n (fun v hv => hn' v (by simp [hv])), e1, if_neg (fun e => hn' w (by simp) e.symm)]
    · intro j hj
      rw [I.splits j hj, e2, Group.split?_sset, if_neg (by simp [hj])]
    · intro sp hsp
      have : ∃ q, g1.split? x.ix = some { sp with priv := q } := by
        rw [e2, Group.split?_sset]
        split
        · exact ⟨_, by rw [hsp]; rfl⟩
        · exact ⟨sp.priv, hsp⟩
      obtain ⟨q, hq⟩ := this
      obtain ⟨q', hq'⟩ := I.split _ hq
      exact ⟨q', hq'⟩
    · rw [I.phase]; exact Group.phase_sset ..
    · exact fun p hp => I.kept p (by simp [g1, hp])
    · intro v hv
      rcases List.mem_cons.mp hv with rfl | hv
      · exact ⟨_, I.kept _ (List.mem_append_right _ (List.mem_singleton.mpr rfl)), rfl, rfl, rfl⟩
      · exact I.later v hv

theorem Group.modSplit_regs (g : Group) (ix : Nat) (f : Split → Split) : g.modSplit ix f = g.withRegsOf (g.modSplit ix f) := by
  unfold Group.modSplit Group.setSplit
  cases g.split? ix with
  | none => rfl
  | some sp => dsimp only; split <;> rfl

@[simp] theorem State.withIssueOf_trans (s t u : State) : (s.withIssueOf t).withIssueOf u = s.withIssueOf u := rfl

theorem putOne_gid (x : ScIss) (lat : Nat) (g : Group) (w : Nat × Word) : (putOne x lat g w).gid = g.gid := by
  unfold putOne Group.putResult
  split <;> exact Group.sset_gid ..

theorem putAll_gid (x : ScIss) (lat : Nat) (ws : List (Nat × Word)) (g : Group) : (putAll x lat ws g).gid = g.gid := by
  unfold putAll
  induction ws generalizing g with
  | nil => rfl
  | cons w ws ih => rw [List.foldl_cons, ih, putOne_gid]

theorem Group.modSplit_gid (g : Group) (ix : Nat) (f : Split → Split) : (g.modSplit ix f).gid = g.gid := by
  rw [Group.modSplit_eq]

@[simp] theorem Group.sval_modSplit (g : Group) (ix n : Nat) (f : Split → Split) (hf : ∀ sp, (f sp).priv = sp.priv) :
    (g.modSplit ix f).sval ix n = g.sval ix n := by
  have h := Group.split?_modSplit g ix ix f
  rw [if_pos rfl] at h
  unfold Group.sval
  rw [h]
  rw [Group.modSplit_eq]
  cases g.split? ix <;> simp [hf]

/-- The results `ws` of a scalar instruction of latency `lat`, and the end of its issue at `pc`: what they leave. -/
theorem issued_put {i : Instr} {s : State} {g : Group} {ix : Nat} {sp : Split} (h : issuingSplit s = some (g, ix, sp))
    (ht : Latest g ix (s.now g.core)) (lat pc extra : Nat) (ws : List (Nat × Word)) (hd : ws.Pairwise fun a b => a.1 ≠ b.1) (hn : ∀ w ∈ ws, w.1 < 64) :
    Issued i s (splitIssued (scPut (issueState s g) (issueOf i s g ix sp) lat ws) (issueOf i s g ix sp) pc extra)
      g ix sp pc extra lat ws := by
  obtain ⟨hg, hsp⟩ := issuingSplit_some h
  have P := putAll_spec (issueOf i s g ix sp) lat ws (prunePend g (s.now g.core)) (by
    show (g.split? ix).isSome; simp [hsp]) ht.pruned hn
  obtain ⟨q, hq⟩ := P.split sp hsp
  let f : Split → Split := fun p =>
    { p with pc := pc, earliest := s.now g.core + 1 + wordOf i % 4 + extra, lastIssue := s.now g.core, word := wordOf i }
  let k := (putAll (issueOf i s g ix sp) lat ws (prunePend g (s.now g.core))).modSplit ix f
  have hgrp : ∀ m, (splitIssued (scPut (issueState s g) (issueOf i s g ix sp) lat ws) (issueOf i s g ix sp) pc extra).group? m
      = if g.gid = m then some k else s.group? m := by
    intro m
    show (((issueState s g).modGroup g.gid (putAll (issueOf i s g ix sp) lat ws)).modGroup g.gid (·.modSplit ix f)).group? m = _
    rw [State.group?_modGroup _ _ _ _ (fun _ => Group.modSplit_gid ..), State.group?_modGroup _ _ _ _ (putAll_gid _ _ _)]
    by_cases e : g.gid = m
    · subst e
      simp only [if_true]
      show (((s.setGroup (prunePend g (s.now g.core))).group? g.gid).map _).map _ = _
      rw [State.group?_setGroup, prunePend_gid, if_pos rfl, hg]
      rfl
    · simp only [e, if_false]
      show (s.setGroup (prunePend g (s.now g.core))).group? m = _
      rw [State.group?_setGroup, prunePend_gid, if_neg e]
  have hval : ∀ n, k.sval ix n = (putAll (issueOf i s g ix sp) lat ws (prunePend g (s.now g.core))).sval ix n :=
    fun n => Group.sval_modSplit _ _ _ _ fun _ => rfl
  have hreg : ∀ n, s.reg g.gid ix n = g.sval ix n := fun n => by simp [State.reg, hg]
  refine ⟨?_, ?_, ⟨k, ?_, ?_, ?_, ?_, ?_, ?_⟩, ?_, ?_, ?_, ?_⟩
  · intro w hw
    simp only [State.reg, hgrp, if_true, hval]
    exact P.values hd w hw
  · intro n hn'
    rw [hreg]
    simp only [State.reg, hgrp, if_true, hval]
    exact P.registers n hn'
  · rw [hgrp, if_pos rfl]
  · refine Group.withRegsOf_trans (Group.withRegsOf_trans (h := prunePend g (s.now g.core)) rfl P.frame) ?_
    exact Group.modSplit_regs ..
  · intro j hj
    show (Group.modSplit _ _ _).split? j = _
    rw [Group.split?_modSplit, if_neg hj]
    exact P.splits j hj
  · exact (Group.phase_modSplit _ _ _).trans P.phase
  · refine ⟨f { sp with priv := q }, ?_, rfl⟩
    show (Group.modSplit _ _ _).split? ix = _
    rw [Group.split?_modSplit, if_pos rfl]
    exact congrArg (Option.map f) hq
  · intro w hw
    obtain ⟨p, hp, h1⟩ := P.later w hw
    refine ⟨p, ?_, h1⟩
    show p ∈ (Group.modSplit _ _ _).pend
    rw [Group.modSplit_eq]
    exact hp
  · intro m hm
    rw [hgrp, if_neg (Ne.symm hm)]
  · intro c hc
    exact (State.core_modCore _ _ _ _).trans (if_neg (Ne.symm hc))
  · have : ∀ t : State, t = splitIssued (scPut (issueState s g) (issueOf i s g ix sp) lat ws) (issueOf i s g ix sp) pc extra →
        t.core g.core = { s.core g.core with units := (t.core g.core).units } := by
      intro t ht
      have hc : t.core g.core = { s.core g.core with units := padSet 0 (s.core g.core).units (unitOf g.slot) (s.now g.core + 1) } := by
        rw [ht]; exact (State.core_modCore _ _ _ _).trans (if_pos rfl)
      rw [hc]
    exact this _ rfl
  · rfl

/-! ### Faults and effects on the group -/

/-- A scalar instruction that faults: what it leaves. -/
theorem faults_issue {i : Instr} {s : State} {g : Group} {ix : Nat} {sp : Split} (h : issuingSplit s = some (g, ix, sp))
    (hr : g.status = .running) (code addr detail : Nat) :
    Faults i s (scFinish (issueState s g) (issueOf i s g ix sp) (.fault code addr detail)) g ix sp code addr detail := by
  obtain ⟨hg, hsp⟩ := issuingSplit_some h
  let x := issueOf i s g ix sp
  let f := scFaultRec x code addr detail
  let k : Group := { prunePend g (s.now g.core) with status := .faulting, trapAt := s.now g.core, faults := [f] }
  have hgrp : ∀ m, (scFinish (issueState s g) x (.fault code addr detail)).group? m = if g.gid = m then some k else s.group? m := by
    intro m
    show ((issueState s g).modGroup g.gid _).group? m = _
    rw [State.group?_modGroup _ _ _ _ (by intro h; cases h.status <;> (try rfl) <;> (dsimp only; split <;> rfl))]
    show (if g.gid = m then ((s.setGroup (prunePend g (s.now g.core))).group? m).map _
      else (s.setGroup (prunePend g (s.now g.core))).group? m) = _
    rw [State.group?_setGroup, prunePend_gid]
    by_cases e : g.gid = m
    · subst e
      have : (prunePend g (s.now g.core)).status = .running := hr
      simp only [if_true, hg, Option.map_some, this]
      rfl
    · simp only [e, if_false]
  refine ⟨⟨k, f, ?_, rfl, rfl, rfl, rfl, rfl, rfl, rfl, rfl, rfl, rfl⟩, ?_, ?_, ?_, rfl⟩
  · rw [hgrp, if_pos rfl]
  · intro m hm
    rw [hgrp, if_neg (Ne.symm hm)]
  · intro c hc
    exact (State.core_modCore _ _ _ _).trans (if_neg (Ne.symm hc))
  · have : ∀ t : State, t = scFinish (issueState s g) x (.fault code addr detail) →
        t.core g.core = { s.core g.core with units := (t.core g.core).units } := by
      intro t ht
      have hc : t.core g.core = { s.core g.core with units := padSet 0 (s.core g.core).units (unitOf g.slot) (s.now g.core + 1) } := by
        rw [ht]; exact (State.core_modCore _ _ _ _).trans (if_pos rfl)
      rw [hc]
    exact this _ rfl

/-- The end of an issue at `pc` after an effect that made `s'` of the state, `g'` of the group and `sp'` of the split: what it
leaves, beside that effect. -/
theorem issued_end {i : Instr} {s s' S : State} {g g' k : Group} {ix : Nat} {sp sp' : Split} (pc extra lat : Nat)
    (hgid : g'.gid = g.gid) (hcore : g'.core = g.core) (hnow : s'.now g.core = s.now g.core)
    (hS : S.group? g.gid = some k) (hk : k = g'.withRegsOf k) (hsplits : ∀ j, j ≠ ix → k.split? j = g'.split? j)
    (hphase : k.phase = g'.phase) (hsplit : k.split? ix = some sp') (hval : ∀ n, k.sval ix n = s'.reg g.gid ix n)
    (ho : ∀ m, m ≠ g.gid → S.group? m = s'.group? m) (hc : S.cores = s'.cores) (hrest : S = s'.withIssueOf S) :
    Issued i s' (splitIssued S (issueOf i s g ix sp) pc extra) g' ix sp' pc extra lat [] := by
  let f : Split → Split := fun p =>
    { p with pc := pc, earliest := s.now g.core + 1 + wordOf i % 4 + extra, lastIssue := s.now g.core, word := wordOf i }
  have hgrp : ∀ m, (splitIssued S (issueOf i s g ix sp) pc extra).group? m
      = if g.gid = m then some (k.modSplit ix f) else s'.group? m := by
    intro m
    show (S.modGroup g.gid (·.modSplit ix f)).group? m = _
    rw [State.group?_modGroup _ _ _ _ (fun _ => Group.modSplit_gid ..)]
    by_cases e : g.gid = m
    · subst e; simp [hS]
    · simp only [e, if_false]; exact ho m (Ne.symm e)
  have hkv : ∀ n, (k.modSplit ix f).sval ix n = k.sval ix n := fun n => Group.sval_modSplit _ _ _ _ fun _ => rfl
  have hcs : ∀ c, S.core c = s'.core c := fun c => by simp [State.core, hc]
  refine ⟨by simp, ?_, ⟨k.modSplit ix f, ?_, ?_, ?_, ?_, ?_, by simp⟩, ?_, ?_, ?_, ?_⟩
  · intro n _
    rw [hgid]
    simp only [State.reg, hgrp, if_true, hkv, hval]
  · rw [hgid, hgrp, if_pos rfl]
  · exact Group.withRegsOf_trans hk (Group.modSplit_regs ..)
  · intro j hj
    rw [Group.split?_modSplit, if_neg hj]
    exact hsplits j hj
  · exact (Group.phase_modSplit _ _ _).trans hphase
  · refine ⟨f sp', ?_, ?_⟩
    · rw [Group.split?_modSplit, if_pos rfl, hsplit]; rfl
    · rw [hcore, hnow]
  · intro m hm
    rw [hgid] at hm
    rw [hgrp, if_neg (Ne.symm hm)]
  · intro c hc'
    rw [hcore] at hc'
    exact (State.core_modCore _ _ _ _).trans ((if_neg (Ne.symm hc')).trans (hcs c))
  · have : ∀ t : State, t = splitIssued S (issueOf i s g ix sp) pc extra →
        t.core g.core = { s'.core g.core with units := (t.core g.core).units } := by
      intro t ht
      have h1 : t.core g.core = { s'.core g.core with units := padSet 0 (s'.core g.core).units (unitOf g.slot) (s.now g.core + 1) } := by
        rw [ht, ← hcs]; exact (State.core_modCore _ _ _ _).trans (if_pos rfl)
      rw [h1]
    rw [hcore]
    exact this _ rfl
  · rw [hrest]; rfl

/-- The end of an issue after an effect `e` on the group and `f` on the split. -/
theorem issued_become {i : Instr} {s : State} {g : Group} {ix : Nat} {sp : Split} (h : issuingSplit s = some (g, ix, sp))
    (pc extra lat : Nat) (e : Group → Group) (f : Split → Split) (he : ∀ k, (e k).gid = k.gid)
    (hw : ∀ p, e { g with pend := p } = (e g).withRegsOf (e { g with pend := p }))
    (hs : ∀ p j, (e { g with pend := p }).split? j = g.split? j) (hp : ∀ p, (e { g with pend := p }).phase = g.phase)
    (hv : ∀ p n, (e { g with pend := p }).sval ix n = g.sval ix n) (hc : (e g).core = g.core)
    (hf : ∀ p, (f p).priv = p.priv) :
    Issued i (s.modGroup g.gid fun k => (e k).modSplit ix f)
      (splitIssued ((issueState s g).modGroup g.gid fun k => (e k).modSplit ix f) (issueOf i s g ix sp) pc extra)
      ((e g).modSplit ix f) ix (f sp) pc extra lat [] := by
  obtain ⟨hg, hsp⟩ := issuingSplit_some h
  have hm : ∀ k, ((e k).modSplit ix f).gid = k.gid := fun k => by rw [Group.modSplit_gid, he]
  have g0 : g = { g with pend := g.pend } := rfl
  let k := (e (prunePend g (s.now g.core))).modSplit ix f
  have hk : ((issueState s g).modGroup g.gid fun k => (e k).modSplit ix f).group? g.gid = some k := by
    rw [State.group?_modGroup _ _ _ _ hm, if_pos rfl]
    show ((s.setGroup (prunePend g (s.now g.core))).group? g.gid).map _ = _
    rw [State.group?_setGroup, prunePend_gid, if_pos rfl, hg]
    rfl
  have hs' : (s.modGroup g.gid fun k => (e k).modSplit ix f).group? g.gid = some ((e g).modSplit ix f) := by
    rw [State.group?_modGroup _ _ _ _ hm, if_pos rfl, hg]; rfl
  refine issued_end (k := k) pc extra lat (hm g) ?_ rfl hk ?_ ?_ ?_ ?_ ?_ ?_ rfl rfl
  · rw [Group.modSplit_eq]; exact hc
  · have h1 : ((e g).modSplit ix f) = (e g).withRegsOf ((e g).modSplit ix f) := Group.modSplit_regs ..
    have h2 : k = (e (prunePend g (s.now g.core))).withRegsOf k := Group.modSplit_regs ..
    have h3 := hw (prunePend g (s.now g.core)).pend
    have h4 : k = (e g).withRegsOf k := Group.withRegsOf_trans h3 h2
    rw [h4, h1]; rfl
  · intro j hj
    rw [Group.split?_modSplit, if_neg hj, Group.split?_modSplit, if_neg hj]
    exact (hs _ j).trans (hs g.pend j).symm
  · rw [Group.phase_modSplit, Group.phase_modSplit]
    exact (hp _).trans (hp g.pend).symm
  · rw [Group.split?_modSplit, if_pos rfl]
    rw [show (e (prunePend g (s.now g.core))).split? ix = g.split? ix from hs _ ix, hsp]; rfl
  · intro n
    simp only [State.reg, hs']
    rw [Group.sval_modSplit _ _ _ _ hf, Group.sval_modSplit _ _ _ _ hf]
    exact (hv _ n).trans (hv g.pend n).symm
  · intro m hm'
    rw [State.group?_modGroup _ _ _ _ hm, if_neg (Ne.symm hm'), State.group?_modGroup _ _ _ _ hm, if_neg (Ne.symm hm')]
    show (s.setGroup (prunePend g (s.now g.core))).group? m = _
    rw [State.group?_setGroup, prunePend_gid, if_neg (Ne.symm hm')]

end Sys2Proof.Machine
end

