-- ==== Sys2Proof/Laws/Lanes.lean ====
section
/-! SUPPORT. What the issue of a lane instruction does, said once: under `LaneReady` the checks pass and the operands are
what `operand` says; an effect of fixed latency leaves what `LaneDone` says. -/

namespace Sys2Proof.Machine

/-! ### Lists of lanes -/

/-- A value for each lane. -/
def lanesOf (f : Nat → Word) : List Word := (upto 96).map f

@[simp] theorem length_lanesOf (f : Nat → Word) : (lanesOf f).length = 96 := by simp [lanesOf, upto]

theorem getElem?_lanesOf (f : Nat → Word) {n : Nat} (h : n < 96) : (lanesOf f)[n]? = some (f n) := by
  simp [lanesOf, upto, h]

theorem lanesOf_congr {f k : Nat → Word} (h : ∀ n < 96, f n = k n) : lanesOf f = lanesOf k := by
  simp only [lanesOf, upto]
  exact List.map_congr_left fun n hn => h n (by simpa using hn)

/-- A list of 96 values. -/
theorem eq_lanesOf (l : List Word) (h : l.length = 96) : l = lanesOf fun n => l.getD n 0 := by
  apply List.ext_getElem (by simp [h])
  intro n h1 h2
  simp [lanesOf, upto, List.getElem?_eq_getElem h1]

theorem vval_eq (g : Group) (spec : Nat) : g.vval spec = lanesOf (g.lane spec) :=
  eq_lanesOf _ (by simp [Group.vval])

theorem allLanes_eq (w : Word) : allLanes w = lanesOf fun _ => w := by
  simp [allLanes, lanesOf, upto, List.map_const']

/-! ### Reading operands -/

set_option maxRecDepth 20000 in
theorem immFloat_lt : ((List.range 256).all fun b => [0x42, 0x43, 0x52].all fun t =>
    decide ((enc (fmtOf t) (dec fmtE4m3 b false) .rne false false).1 < 2 ^ 64)) = true := by decide

/-- An immediate has at most 64 bits. -/
theorem immNumber_lt (t : Nat) (imm : BitVec 8) : immNumber t imm.toNat < 2 ^ 64 := by
  have hb : imm.toNat < 256 := imm.isLt
  have hw : ∀ z, wrapN z 64 < 2 ^ 64 := by intro z; unfold wrapN; omega
  have hf : ∀ t ∈ [0x42, 0x43, 0x52], (enc (fmtOf t) (dec fmtE4m3 imm.toNat false) .rne false false).1 < 2 ^ 64 := by
    have := immFloat_lt
    simp only [List.all_eq_true, decide_eq_true_eq] at this
    exact this _ (by simpa using hb)
  unfold immNumber
  split <;> first | exact hf _ (by simp) | exact hw _ | omega

/-- The registers of a source specifier. -/
def sourceRegs (spec n : Nat) : List PReg :=
  if isV spec || isO spec then laneRegs spec n else if isS spec then (upto n).map fun i => .s (spec - 0x340 + i) else []

/-- A source operand as lists: one for each word. -/
def plainSource (x : LnIss) (spec n t : Nat) : List (List Word) :=
  (upto (if isH spec then 1 else n)).map fun k =>
    lanesOf (operand x.g x.b (BitVec.ofNat 64 (immNumber t x.l.imm.toNat)) spec k)

/-- A lane register, or a scalar register in every lane. -/
def plainReg (x : LnIss) : PReg → List Word
  | .v n => x.g.vval n
  | .o n => x.g.vval (0x100 + n)
  | .s n => allLanes (x.g.sval x.b.split n)
  | _ => []

theorem readLaneReg_eq (s : State) (x : LnIss) (r : PReg)
    (h : ∀ p ∈ pendHits x.g x.b.split r, lnSeen x p = .yes) : readLaneReg s x r = (plainReg x r, s) := by
  cases r with
  | v n => exact readReg_eq s x.g x.b.split _ _ _ h
  | o n => exact readReg_eq s x.g x.b.split _ _ _ h
  | s n =>
    unfold readLaneReg
    simp only [readReg_eq s x.g x.b.split _ _ _ h]
    rfl
  | _ => rfl

theorem readLaneRegs_eq (s : State) (x : LnIss) (l : List PReg) (f : PReg → List Word)
    (h : ∀ r ∈ l, readLaneReg s x r = (f r, s)) : readLaneRegs s x l = (l.map f, s) := by
  induction l with
  | nil => rfl
  | cons r l ih => simp [readLaneRegs, h r (by simp), ih fun r' hr => h r' (by simp [hr])]

/-- The registers from a v or o specifier, read. -/
theorem readRegs_eq (s : State) (x : LnIss) (spec n : Nat)
    (h : ∀ r ∈ laneRegs spec n, ∀ p ∈ pendHits x.g x.b.split r, lnSeen x p = .yes) :
    readLaneRegs s x (laneRegs spec n) = ((upto n).map fun k => lanesOf (x.g.lane (spec + k)), s) := by
  rw [readLaneRegs_eq s x (laneRegs spec n) (plainReg x) fun r hr => readLaneReg_eq s x r (h r hr)]
  simp only [laneRegs, List.map_map, Prod.mk.injEq, and_true]
  apply List.map_congr_left
  intro k _
  simp only [Function.comp]
  by_cases hv : spec < 0x100
  · simp [hv, plainReg, vval_eq]
  · have : 0x100 + (spec - 0x100 + k) = spec + k := by omega
    simp [hv, plainReg, vval_eq, this]

theorem readSource_eq (s : State) (x : LnIss) (spec n t : Nat)
    (hs : isV spec || isO spec || isK spec || isS spec || isH spec || spec == 0x3FE || spec == 0x3FF)
    (h : ∀ r ∈ sourceRegs spec n, ∀ p ∈ pendHits x.g x.b.split r, lnSeen x p = .yes)
    (hh : isH spec → ∀ new old ready prod, x.b.hist[spec - 0x200]? = some (.vals new old ready prod) → ready ≤ x.slot) :
    readSource s x spec n t = (plainSource x spec n t, s) := by
  unfold readSource plainSource
  by_cases h1 : isH spec
  · simp only [h1, if_true]
    simp only [isH, Bool.decide_and, Bool.and_eq_true, decide_eq_true_eq] at h1
    have e : operand x.g x.b (BitVec.ofNat 64 (immNumber t x.l.imm.toNat)) spec 0 = lastResult x.g x.b (spec - 0x200) := by
      funext m; unfold operand; rw [if_neg (by omega), if_pos (by omega)]
    simp only [upto, List.range_one, List.map_cons, List.map_nil, e, readH]
    cases hx : x.b.hist[spec - 0x200]? with
    | none => simp only [allLanes_eq]; congr 2; apply lanesOf_congr; simp [lastResult, hx]
    | some y =>
      cases y with
      | noResult => simp only [allLanes_eq]; congr 2; apply lanesOf_congr; simp [lastResult, hx]
      | dest sp => simp only [vval_eq]; congr 2; apply lanesOf_congr; simp [lastResult, hx]
      | vals new old ready prod =>
        have := hh (by simp [isH, h1]) new old ready prod hx
        simp only [Nat.not_lt.mpr this, if_false]
        rw [eq_lanesOf (fit 0 96 new) (by simp)]
        simp only [Prod.mk.injEq, and_true, List.cons.injEq]
        apply lanesOf_congr
        intro m hm
        have := getElem?_fit (0 : Word) 96 new m
        rw [if_pos hm] at this
        simp only [List.getD_eq_getElem?_getD, lastResult, hx]
        rw [this]; rfl
  · simp only [h1, Bool.false_eq_true, if_false]
    by_cases h2 : isK spec
    · simp only [h2, if_true, Prod.mk.injEq, and_true]
      apply List.map_congr_left
      intro k _
      rw [allLanes_eq]
      apply lanesOf_congr
      intro m _
      simp only [isK, Bool.decide_and, Bool.and_eq_true, decide_eq_true_eq] at h2
      unfold operand
      rw [if_neg (by omega), if_neg (by omega), if_neg (by omega), if_neg (by omega), if_pos (by omega)]
      simp [Group.sval, show 64 ≤ 64 + (spec - 0x300) + k by omega]
    · simp only [h2, Bool.false_eq_true, if_false]
      by_cases h3 : spec = 0x3FF
      · simp only [h3, if_true, Prod.mk.injEq, and_true]
        apply List.map_congr_left
        intro k _
        rw [allLanes_eq]
        apply lanesOf_congr
        intro m _
        unfold operand
        rw [if_neg (by omega), if_neg (by omega), if_pos rfl]
        apply BitVec.eq_of_toNat_eq
        simp only [BitVec.extractLsb'_toNat, BitVec.toNat_ofNat, Nat.shiftRight_eq_div_pow]
        have hv := immNumber_lt t x.l.imm
        rw [Nat.mod_eq_of_lt hv]
      · simp only [h3, if_false]
        by_cases h4 : spec = 0x3FE
        · simp only [h4, if_true, Prod.mk.injEq, and_true]
          apply List.map_congr_left
          intro k _
          rw [allLanes_eq]
          apply lanesOf_congr
          intro m _
          unfold operand
          rw [if_neg (by omega), if_neg (by omega), if_neg (by omega), if_pos rfl]
        · simp only [h4, if_false]
          have hh' : isH spec = false := by simpa using h1
          have hk' : isK spec = false := by simpa using h2
          by_cases h5 : isS spec
          · have hv : (isV spec || isO spec) = false := by
              simp only [isS, isV, isO, Bool.or_eq_false_iff, Bool.decide_and, Bool.and_eq_true, decide_eq_true_eq, decide_eq_false_iff_not, Bool.and_eq_false_iff] at h5 ⊢
              omega
            simp only [h5, if_true]
            rw [readLaneRegs_eq s x _ (plainReg x) fun r hr => readLaneReg_eq s x r (h r (by simp only [sourceRegs, hv, h5, if_true]; exact hr))]
            simp only [List.map_map, Prod.mk.injEq, and_true]
            apply List.map_congr_left
            intro k _
            simp only [Function.comp, plainReg, allLanes_eq]
            apply lanesOf_congr
            intro m _
            simp only [isS, Bool.decide_and, Bool.and_eq_true, decide_eq_true_eq] at h5
            unfold operand
            rw [if_neg (by omega), if_neg (by omega), if_neg (by omega), if_neg (by omega), if_neg (by omega)]
          · have h5' : isS spec = false := by simpa using h5
            have hv : (isV spec || isO spec) = true := by simpa [hh', hk', h5', h3, h4] using hs
            simp only [h5', Bool.false_eq_true, if_false]
            rw [readRegs_eq s x spec n fun r hr => h r (by simp only [sourceRegs, hv, if_true]; exact hr)]
            simp only [Prod.mk.injEq, and_true]
            apply List.map_congr_left
            intro k _
            have : spec < 0x200 := by
              simp only [isV, isO, Bool.or_eq_true, decide_eq_true_eq, Bool.decide_and, Bool.and_eq_true] at hv
              omega
            apply lanesOf_congr
            intro m _
            simp [operand, this]

/-- One operand field as lists. -/
def plainField (x : LnIss) (k : FieldKind) (spec t : Nat) : List (List Word) :=
  let regs n := (upto n).map fun j => lanesOf (x.g.lane (spec + j))
  match k with
  | .src n .. => plainSource x spec n t
  | .base => plainSource x spec 2 t
  | .laneNo => plainSource x spec 1 t
  | .mask3 => plainSource x spec 3 t
  | .dst n true => if isV spec || isO spec then regs n else []
  | .reg n _ => regs n
  | _ => []

/-- The specifiers that an operand field accepts (R64 to R66). -/
def specOk (k : FieldKind) (spec : Nat) : Bool :=
  let any := isV spec || isO spec || isK spec || isS spec || isH spec || spec == 0x3FE || spec == 0x3FF
  match k with
  | .src .. => any
  | .base => (any && !isH spec) && spec != 0x3FF
  | .laneNo => any && !isH spec
  | .mask3 => isS spec || isK spec
  | _ => true

theorem readField1_eq (s : State) (x : LnIss) (k : FieldKind) (spec t : Nat) (hs : specOk k spec)
    (h : ∀ r ∈ fieldReads k spec, ∀ p ∈ pendHits x.g x.b.split r, lnSeen x p = .yes)
    (hh : ∀ n a b c d, k = .src n a b c d → isH spec → ∀ new old ready prod,
      x.b.hist[spec - 0x200]? = some (.vals new old ready prod) → ready ≤ x.slot) :
    readField1 s x k spec t = (plainField x k spec t, s) := by
  cases k with
  | src n a b c d =>
    exact readSource_eq s x spec n t hs h (hh n a b c d rfl)
  | base =>
    simp only [specOk, Bool.and_eq_true] at hs
    exact readSource_eq s x spec 2 t hs.1.1 h (fun e => by simp [e] at hs)
  | laneNo =>
    simp only [specOk, Bool.and_eq_true] at hs
    exact readSource_eq s x spec 1 t hs.1 h (fun e => by simp [e] at hs)
  | mask3 =>
    simp only [readField1, plainField]
    by_cases hk : isK spec
    · rw [if_pos hk]
      have e : ¬ isS spec := by
        simp only [isK, isS, Bool.decide_and, Bool.and_eq_true, decide_eq_true_eq] at hk ⊢; omega
      have e2 : ¬ isH spec := by
        simp only [isK, isH, Bool.decide_and, Bool.and_eq_true, decide_eq_true_eq] at hk ⊢; omega
      refine readSource_eq s x spec 3 t (by simp [hk]) ?_ fun e => absurd e e2
      · have e3 : (isV spec || isO spec) = false := by
          simp only [isK, isV, isO, Bool.or_eq_false_iff, Bool.decide_and, Bool.and_eq_true, decide_eq_true_eq, decide_eq_false_iff_not, Bool.and_eq_false_iff] at hk ⊢
          omega
        simp [sourceRegs, e, e3]
    · rw [if_neg hk]
      have hS : isS spec := by simpa [specOk, hk] using hs
      have e3 : (isV spec || isO spec) = false := by
        simp only [isS, isV, isO, Bool.or_eq_false_iff, Bool.decide_and, Bool.and_eq_true, decide_eq_true_eq, decide_eq_false_iff_not, Bool.and_eq_false_iff] at hS ⊢
        omega
      have e2 : ¬ isH spec := by
        simp only [isS, isH, Bool.decide_and, Bool.and_eq_true, decide_eq_true_eq] at hS ⊢; omega
      have := readSource_eq s x spec 3 t (by simp [hS]) (by simpa [sourceRegs, e3, hS, fieldReads] using h) (fun e => absurd e e2)
      rw [← this]
      have e4 : spec ≠ 0x3FF ∧ spec ≠ 0x3FE := by
        simp only [isS, Bool.decide_and, Bool.and_eq_true, decide_eq_true_eq] at hS; omega
      simp [readSource, e2, hk, e4, hS, fieldReads]
  | dst n old =>
    cases old with
    | false => rfl
    | true =>
      simp only [readField1, plainField, fieldReads]
      split
      · rename_i e
        exact readRegs_eq s x spec n (by simpa [fieldReads, e] using h)
      · rfl
  | reg n w => exact readRegs_eq s x spec n (by simpa [fieldReads] using h)
  | unused => rfl
  | dstOrScalar => rfl
  | scalarDst n al => rfl
  | pred a b => rfl

/-- A predicate field as a mask. -/
def plainPred (x : LnIss) (k : FieldKind) (spec : Nat) : LaneMask :=
  match k with
  | .pred true _ => x.g.preds.getD spec 0
  | _ => 0

theorem pendHits_pred (g : Group) (ix n : Nat) : pendHits g ix (.p n) = pendHits g 0 (.p n) := rfl

theorem readPred_eq (s : State) (x : LnIss) (n : Nat) (h : ∀ p ∈ pendHits x.g x.b.split (.p n), lnSeen x p = .yes) :
    readPred s x.g n (lnSeen x) = (x.g.preds.getD n 0, s) := by
  unfold readPred
  rw [← pendHits_pred x.g x.b.split, if_pos (List.all_eq_true.mpr fun p hp => by simp [h p hp])]

theorem readPredField_eq (s : State) (x : LnIss) (k : FieldKind) (spec : Nat)
    (h : ∀ r ∈ fieldReads k spec, ∀ p ∈ pendHits x.g x.b.split r, lnSeen x p = .yes) :
    readPredField s x k spec = (plainPred x k spec, s) := by
  cases k with
  | pred a b =>
    cases a with
    | true => exact readPred_eq s x spec (h _ (by simp [fieldReads]))
    | false => rfl
  | _ => rfl

/-- The operands of a lane instruction when every register that it reads holds its latest result. -/
def plainVals (x : LnIss) : LaneVals :=
  let l := x.l
  let t := immType x.op l
  { a := plainField x x.sh.a l.a.toNat t, b := plainField x x.sh.b l.b.toNat t, c := plainField x x.sh.c l.c.toNat (immTypeC x.op l),
    d := plainField x x.sh.dst l.dst.toNat t, pa := plainPred x x.sh.a l.a.toNat, pb := plainPred x x.sh.b l.b.toNat,
    pc := plainPred x x.sh.c l.c.toNat, pd := plainPred x x.sh.dst l.dst.toNat,
    act := x.b.mask &&& guardLanes l (x.g.preds.getD l.guard.toNat 0) }

theorem readOperands_eq (s : State) (x : LnIss)
    (hs : specOk x.sh.a x.l.a.toNat ∧ specOk x.sh.b x.l.b.toNat ∧ specOk x.sh.c x.l.c.toNat ∧ specOk x.sh.dst x.l.dst.toNat)
    (h : ∀ r ∈ x.regsRead, ∀ p ∈ pendHits x.g x.b.split r, lnSeen x p = .yes)
    (hh : ∀ k ∈ x.entriesRead, ∀ new old ready prod, x.b.hist[k]? = some (.vals new old ready prod) → ready ≤ x.slot) :
    readOperands s x = (plainVals x, s) := by
  have hr : ∀ f ∈ laneFieldList x.sh x.l, ∀ r ∈ fieldReads f.2.1 f.2.2, ∀ p ∈ pendHits x.g x.b.split r, lnSeen x p = .yes :=
    fun f hf r hr => h r (by
      simp only [LnIss.regsRead, List.mem_append, List.mem_flatMap]
      exact .inl (.inl ⟨f, hf, hr⟩))
  have he : ∀ f ∈ laneFieldList x.sh x.l, ∀ n a b c d, f.2.1 = .src n a b c d → isH f.2.2 → ∀ new old ready prod,
      x.b.hist[f.2.2 - 0x200]? = some (.vals new old ready prod) → ready ≤ x.slot := by
    intro f hf n a b c d hk hH
    apply hh
    simp only [LnIss.entriesRead, List.mem_filterMap]
    exact ⟨f, hf, by simp [hk, hH]⟩
  have fa : (0x14, x.sh.a, x.l.a.toNat) ∈ laneFieldList x.sh x.l := by simp [laneFieldList]
  have fb : (0x15, x.sh.b, x.l.b.toNat) ∈ laneFieldList x.sh x.l := by simp [laneFieldList]
  have fc : (0x16, x.sh.c, x.l.c.toNat) ∈ laneFieldList x.sh x.l := by simp [laneFieldList]
  have fd : (0x13, x.sh.dst, x.l.dst.toNat) ∈ laneFieldList x.sh x.l := by simp [laneFieldList]
  unfold readOperands plainVals
  simp only [readField1_eq s x _ _ _ hs.1 (hr _ fa) (he _ fa), readField1_eq s x _ _ _ hs.2.1 (hr _ fb) (he _ fb),
    readField1_eq s x _ _ _ hs.2.2.1 (hr _ fc) (he _ fc), readField1_eq s x _ _ _ hs.2.2.2 (hr _ fd) (he _ fd),
    readPredField_eq s x _ _ (hr _ fa), readPredField_eq s x _ _ (hr _ fb), readPredField_eq s x _ _ (hr _ fc),
    readPredField_eq s x _ _ (hr _ fd)]
  by_cases hg : x.l.guard.toNat < 24
  · simp only [hg, if_true]
    rw [readPred_eq s x _ (h _ (by simp [LnIss.regsRead, hg]))]
  · simp only [hg, if_false]

/-! ### The checks -/

theorem laneShape_hint (l : LaneF) (k : Nat) (h : k < 16) : laneShape (0x3F0 + k) l = none := by
  obtain rfl | rfl | rfl | rfl | rfl | rfl | rfl | rfl | rfl | rfl | rfl | rfl | rfl | rfl | rfl | rfl :
    k = 0 ∨ k = 1 ∨ k = 2 ∨ k = 3 ∨ k = 4 ∨ k = 5 ∨ k = 6 ∨ k = 7 ∨ k = 8 ∨ k = 9 ∨ k = 10 ∨ k = 11 ∨ k = 12 ∨ k = 13 ∨
    k = 14 ∨ k = 15 := by omega
  all_goals rfl

theorem laneParts_lane {i : Instr} {op : Nat} {l : LaneF} (h : laneParts i = some (op, l)) :
    scalarNumber i = none ∧ (0x3F0 ≤ op → ∃ k < 16, op = 0x3F0 + k) := by
  cases i <;> first
    | cases h <;> done
    | (cases h; exact ⟨rfl, fun _ => by omega⟩)
    | (cases h; exact ⟨rfl, fun _ => ⟨_, BitVec.isLt _, rfl⟩⟩)

theorem viol_nil {p : Bool} {f r : Nat} (h : viol p f r = []) : p = false := by
  cases p with
  | false => rfl
  | true => simp [viol] at h

/-- A field that breaks no rule names what its kind accepts. -/
theorem specOk_of_fieldViol {fid spec : Nat} {k : FieldKind} (h : fieldViol fid k spec = []) : specOk k spec := by
  cases k with
  | src n imm hh z sc =>
    simp only [fieldViol] at h
    simp only [specOk]
    by_cases h1 : (isV spec || isO spec || isK spec || (sc && isS spec)) = true
    · simp only [Bool.or_eq_true, Bool.and_eq_true] at h1 ⊢
      rcases h1 with (((h | h) | h) | ⟨-, h⟩) <;> simp [h]
    · simp only [h1, Bool.false_eq_true, if_false] at h
      by_cases h2 : isH spec = true
      · simp [h2]
      · simp only [h2, Bool.false_eq_true, if_false] at h
        by_cases h3 : spec = 0x3FE
        · simp [h3]
        · by_cases h4 : spec = 0x3FF
          · simp [h4]
          · simp [h3, h4] at h
  | base =>
    simp only [fieldViol] at h
    simp only [specOk]
    by_cases h1 : (isV spec || isO spec || isK spec || isS spec) = true
    · have h2 : isH spec = false ∧ spec ≠ 0x3FF := by
        simp only [isV, isO, isK, isS, isH, Bool.or_eq_true, Bool.decide_and, Bool.and_eq_true, decide_eq_true_eq, Bool.and_eq_false_iff, decide_eq_false_iff_not] at h1 ⊢
        omega
      simp [h1, h2]
    · simp only [h1, Bool.false_eq_true, if_false] at h
      have := viol_nil h
      have e : spec = 0x3FE := by simpa using this
      subst e; decide
  | laneNo =>
    simp only [fieldViol] at h
    have := viol_nil h
    simp only [specOk]
    simp only [Bool.not_eq_false', Bool.or_eq_true, decide_eq_true_eq] at this
    have h2 : isH spec = false := by
      simp only [isK, isS, isH, Bool.decide_and, Bool.and_eq_true, decide_eq_true_eq, Bool.and_eq_false_iff, decide_eq_false_iff_not] at this ⊢
      omega
    rcases this with ((h | h) | h) | h
    · simp [h, h2]
    · simp [h, h2]
    · subst h; rfl
    · subst h; rfl
  | mask3 =>
    simp only [fieldViol] at h
    simp only [specOk]
    by_cases h1 : (isS spec || isK spec) = true
    · exact h1
    · simp [h1] at h
  | _ => rfl

/-- A lane word that breaks no rule: its operand fields name what their kinds accept. -/
theorem specOk_of_formed {i : Instr} {op : Nat} {l : LaneF} (hp : laneParts i = some (op, l)) (hf : WellFormed i) :
    laneViolations op l = [] ∧
    (let sh := (laneShape op l).getD noShape
     specOk sh.a l.a.toNat ∧ specOk sh.b l.b.toNat ∧ specOk sh.c l.c.toNat ∧ specOk sh.dst l.dst.toNat) := by
  obtain ⟨hn, hint⟩ := laneParts_lane hp
  have hv : laneViolations op l = [] := by
    have h := hf
    unfold WellFormed violations at h
    rw [hn, hp] at h
    exact (List.append_eq_nil_iff.mp h).1
  refine ⟨hv, ?_⟩
  unfold laneViolations at hv
  by_cases h : 0x3F0 ≤ op
  · obtain ⟨k, hk, rfl⟩ := hint h
    rw [laneShape_hint l k hk]
    exact ⟨rfl, rfl, rfl, rfl⟩
  · rw [if_neg h] at hv
    cases hs : laneShape op l with
    | none => simp [hs] at hv
    | some sh =>
      simp only [hs, List.append_eq_nil_iff] at hv
      obtain ⟨⟨⟨⟨⟨⟨⟨⟨-, hd⟩, ha⟩, hb⟩, hc⟩, -⟩, -⟩, -⟩, -⟩ := hv
      exact ⟨specOk_of_fieldViol ha, specOk_of_fieldViol hb, specOk_of_fieldViol hc, specOk_of_fieldViol hd⟩

theorem mem_pend_laneIssOf {op : Nat} {l : LaneF} {s : State} {g : Group} {b : Batch} {ix : Nat} {r : PReg} {p : Pend}
    (h : p ∈ pendHits (laneIssOf op l s g b).g ix r) : p ∈ pendHits g ix r := by
  simp only [laneIssOf, Group.settleFlags, pendHits, List.mem_filter] at h ⊢
  exact ⟨mem_prunePend h.1, h.2⟩

/-- With no result of a register still to come, the stall check of the register passes. -/
theorem lnShort_none (x : LnIss) (r : PReg) (h : ∀ p ∈ pendHits x.g x.b.split r, lnSeen x p = .yes) :
    lnShort x r = none := by
  unfold lnShort
  simp only [shortOf_none _ _ _ _ fun p hp => h p (List.mem_reverse.mp hp), Option.map_none]

theorem fieldShort_none (x : LnIss) (k : FieldKind) (spec : Nat)
    (h : ∀ r ∈ fieldReads k spec, ∀ p ∈ pendHits x.g x.b.split r, lnSeen x p = .yes)
    (hh : ∀ n a b c d, k = .src n a b c d → isH spec → ∀ new old ready prod,
      x.b.hist[spec - 0x200]? = some (.vals new old ready prod) → ready ≤ x.slot) : fieldShort x k spec = none := by
  have hr : (fieldReads k spec).findSome? (lnShort x) = none :=
    List.findSome?_eq_none_iff.mpr fun r hr => lnShort_none x r (h r hr)
  unfold fieldShort
  split
  · rename_i n a b c d
    split
    · rename_i e
      unfold hShort
      split
      · rename_i new old ready prod hx
        rw [if_neg (Nat.not_lt.mpr (hh n a b c d rfl e _ _ _ _ hx))]
      · rfl
    · exact hr
  · exact hr

/-- The stall check of a lane instruction that reads only results that are there. -/
theorem laneStall_none (x : LnIss) (h : ∀ r ∈ x.regsRead, ∀ p ∈ pendHits x.g x.b.split r, lnSeen x p = .yes)
    (hh : ∀ k ∈ x.entriesRead, ∀ new old ready prod, x.b.hist[k]? = some (.vals new old ready prod) → ready ≤ x.slot) :
    laneStall x = none := by
  have hf : ∀ f ∈ laneFieldList x.sh x.l, fieldShort x f.2.1 f.2.2 = none := by
    intro f hf
    apply fieldShort_none
    · exact fun r hr => h r (by
        simp only [LnIss.regsRead, List.mem_append, List.mem_flatMap]
        exact .inl (.inl ⟨f, hf, hr⟩))
    · intro n a b c d hk hH
      apply hh
      simp only [LnIss.entriesRead, List.mem_filterMap]
      exact ⟨f, hf, by simp [hk, hH]⟩
  have ha := hf (0x14, x.sh.a, x.l.a.toNat) (by simp [laneFieldList])
  have hb := hf (0x15, x.sh.b, x.l.b.toNat) (by simp [laneFieldList])
  have hc := hf (0x16, x.sh.c, x.l.c.toNat) (by simp [laneFieldList])
  have hd := hf (0x13, x.sh.dst, x.l.dst.toNat) (by simp [laneFieldList])
  have hg : (if x.l.guard.toNat < 24 then lnShort x (.p x.l.guard.toNat) else none) = none := by
    split
    · rename_i e
      exact lnShort_none x _ (h _ (by simp [LnIss.regsRead, e]))
    · rfl
  have hflag : (if x.op = 0x095 then lnShort x .flags else none) = none := by
    split
    · rename_i e
      exact lnShort_none x _ (h _ (by simp [LnIss.regsRead, e]))
    · rfl
  simp only at ha hb hc hd
  unfold laneStall
  simp [ha, hb, hc, hd, hg, hflag]

/-- A lane instruction that issues normally: its effect starts in `laneStart`, on the operands as they stand. -/
theorem laneIssue_ready {i : Instr} {op : Nat} {l : LaneF} {s : State} {g : Group} {b : Batch}
    (r : LaneReady i op l s g b) (body : State → LnIss → LaneVals → LnRes) :
    laneIssue op l body s =
      .next (lnFinish (laneStart s (laneIssOf op l s g b)) (laneIssOf op l s g b) (plainVals (laneIssOf op l s g b))
        (body (laneStart s (laneIssOf op l s g b)) (laneIssOf op l s g b) (plainVals (laneIssOf op l s g b)))) := by
  obtain ⟨hv, hs⟩ := specOk_of_formed r.parts r.formed
  let x := laneIssOf op l s g b
  have hr : ∀ q ∈ x.regsRead, ∀ p ∈ pendHits x.g x.b.split q, lnSeen x p = .yes :=
    fun q hq p hp => r.readable q hq p (mem_pend_laneIssOf hp)
  have hro := readOperands_eq (laneStart s x) x hs hr r.recent
  have hst := laneStall_none x hr r.recent
  have hso : ∀ m, poisonRead (laneStart s x) x.g
      ((laneFieldList x.sh l).flatMap fun f => fieldReads f.2.1 f.2.2) m = none := r.sound
  unfold laneIssue
  rw [r.issuer]
  simp only [hv, r.formatted, List.append_nil, worstViol]
  congr 1
  show lnRun body (laneStart s x) x = _
  have hb1 : begun x.b.block = false := r.fresh
  have hl : laneLocked x = false := r.unlocked
  have h1 : rangeBreach x.g.launch.vregs ((laneFieldList x.sh x.l).drop 3 ++ (laneFieldList x.sh x.l).take 3) = none := r.allotted
  have h2 : hBreach x.b (laneFieldList x.sh x.l) = none := r.results
  have h3 : ∀ m, poisonRead (laneStart s x) x.g ((laneFieldList x.sh x.l).flatMap fun f => fieldReads f.2.1 f.2.2) m = none := hso
  unfold lnRun
  simp only [hro, hb1, h1, h2, hst, hl, h3, ite_self, Bool.false_eq_true, if_false]
  rfl

end Sys2Proof.Machine
end

