-- ==== Sys2Proof/Laws/LaneCommit.lean ====
section
/-! SUPPORT. What the results of a lane instruction of fixed latency leave in its group, stage by stage, and the end of its
issue: `laneDone` says once what `LaneDone` asks. -/

namespace Sys2Proof.Machine

/-! ### Lane registers -/

@[simp] theorem length_vval (g : Group) (spec : Nat) : (g.vval spec).length = 96 := by simp [Group.vval]

theorem getD_fit (l : List Word) (n : Nat) : (fit (0 : Word) 96 l).getD n 0 = if n < 96 then l.getD n 0 else 0 := by
  rw [List.getD_eq_getElem?_getD, getElem?_fit]
  split <;> simp

theorem getD_padSet {α : Type} (d x : α) (l : List α) (n m : Nat) :
    (padSet d l n x).getD m d = if m = n then x else l.getD m d := by
  simp only [List.getD_eq_getElem?_getD, getElem?_padSet]

theorem Group.lane_vset (g : Group) (spec sp n : Nat) (w : List Word) :
    (g.vset spec w).lane sp n = if sp = spec then (if n < 96 then w.getD n 0 else 0) else g.lane sp n := by
  unfold Group.lane Group.vset Group.vval
  by_cases h : spec < 0x100
  · rw [if_pos h]
    by_cases h2 : sp < 0x100
    · rw [if_pos h2, if_pos h2, getD_padSet]
      by_cases e : sp = spec
      · rw [if_pos e, if_pos e, getD_fit]
      · rw [if_neg e, if_neg e]
    · rw [if_neg h2, if_neg h2, if_neg (by omega)]
  · rw [if_neg h]
    by_cases h2 : sp < 0x100
    · rw [if_pos h2, if_pos h2, if_neg (by omega)]
    · rw [if_neg h2, if_neg h2, getD_padSet]
      by_cases e : sp = spec
      · rw [if_pos (by omega), if_pos e, getD_fit]
      · rw [if_neg (by omega), if_neg e]

theorem length_blend (m : LaneMask) (k : Nat) (l w : List Word) : (blend m k l w).length = l.length := by
  induction l generalizing k w with
  | nil => cases w <;> rfl
  | cons a l ih => cases w <;> simp [blend, ih]

theorem getD_blend (m : LaneMask) (k n : Nat) (l w : List Word) (h : l.length = w.length) :
    (blend m k l w).getD n 0 = if laneBit m (k + n) then w.getD n 0 else l.getD n 0 := by
  induction l generalizing k n w with
  | nil => cases w <;> simp_all [blend]
  | cons a l ih =>
    cases w with
    | nil => simp at h
    | cons b w =>
      cases n with
      | zero => simp [blend]
      | succ n =>
        have := ih (k + 1) n w (by simpa using h)
        simp only [blend, List.getD_cons_succ]
        rw [this, show k + 1 + n = k + (n + 1) by omega]

theorem laneBit_ge (m : LaneMask) {n : Nat} (h : 96 ≤ n) : laneBit m n = false := BitVec.getLsbD_of_ge m n h

theorem Group.lane_ge (g : Group) (spec : Nat) {n : Nat} (h : 96 ≤ n) : g.lane spec n = 0 := by
  unfold Group.lane
  rw [List.getD_eq_getElem?_getD, List.getElem?_eq_none (by simpa using h)]; rfl

/-- No result has its entry that stays over those of this issue. -/
abbrev LnIss.Last (x : LnIss) (g : Group) : Prop := Latest g x.b.split (3 * x.slot)

/-- Is the pending result one of this instruction. -/
def ownPend (x : LnIss) (lat : Nat) (p : Pend) : Prop :=
  p.split = x.b.split ∧ p.scalar = false ∧ p.ready = 3 * (x.slot + lat)

/-- Results of the instruction itself leave nothing over a later one. -/
theorem LnIss.Last.extend {x : LnIss} {lat : Nat} {g k : Group} (h : x.Last g)
    (hk : ∀ p ∈ k.pend, p ∈ g.pend ∨ ownPend x lat p) : x.Last k := by
  intro p hp hne
  rcases hk p hp with hp | hp
  · exact h p hp hne
  · exact absurd hp.1 hne

theorem lnWrite_last {x : LnIss} {g : Group} (h : x.Last g) (lat : Nat) (act : LaneMask) (r : PReg) (w : List Word) :
    lnWrite x lat act g r w = { g.vset r.spec (blend act 0 (g.vval r.spec) w) with
      pend := g.pend ++ [{ lnPend x lat r act with old := g.vval r.spec }] } :=
  putResult_latest h rfl rfl ..

/-- One lane register written: its lanes, and every other's. -/
theorem lane_lnWrite (x : LnIss) (lat : Nat) (act : LaneMask) (g : Group) (r : PReg) (w : List Word) (sp n : Nat)
    (ht : x.Last g) (hw : w.length = 96) : (lnWrite x lat act g r w).lane sp n =
      if sp = r.spec ∧ laneBit act n then w.getD n 0 else g.lane sp n := by
  rw [lnWrite_last ht]
  show ((g.vset r.spec (blend act 0 (g.vval r.spec) w)).lane sp n) = _
  rw [Group.lane_vset]
  by_cases e : sp = r.spec
  · subst e
    by_cases hn : n < 96
    · have := getD_blend act 0 n (g.vval r.spec) w (by simp [hw])
      rw [Nat.zero_add] at this
      simp only [if_true, hn, true_and]
      rw [this]
      rfl
    · simp [hn, laneBit_ge act (Nat.le_of_not_lt hn), Group.lane_ge g _ (Nat.le_of_not_lt hn)]
  · simp [e]

/-- A group with other lane registers and pending results. -/
def Group.withVecsOf (g h : Group) : Group := { g with vregs := h.vregs, oregs := h.oregs, pend := h.pend }

theorem Group.withVecsOf_trans {a b c : Group} (h1 : b = a.withVecsOf b) (h2 : c = b.withVecsOf c) : c = a.withVecsOf c := by
  calc c = b.withVecsOf c := h2
    _ = (a.withVecsOf b).withVecsOf c := by rw [← h1]
    _ = a.withVecsOf c := rfl

theorem lnWrite_eq (x : LnIss) (lat : Nat) (act : LaneMask) (g : Group) (r : PReg) (w : List Word) :
    lnWrite x lat act g r w = g.withVecsOf (lnWrite x lat act g r w) := by
  unfold lnWrite Group.putResult Group.vset Group.withVecsOf
  by_cases h : r.spec < 0x100 <;> simp only [h, if_true, if_false] <;> split <;> rfl

/-- What writing lane registers one after another leaves. -/
structure Wrote (x : LnIss) (lat : Nat) (act : LaneMask) (g h : Group) (ws : List (PReg × List Word)) : Prop where
  values : ∀ p ∈ ws, ∀ n, h.lane p.1.spec n = if laneBit act n then p.2.getD n 0 else g.lane p.1.spec n
  others : ∀ sp, (∀ p ∈ ws, p.1.spec ≠ sp) → ∀ n, h.lane sp n = g.lane sp n
  frame : h = g.withVecsOf h
  pend : ∀ p ∈ h.pend, p ∈ g.pend ∨ ownPend x lat p

theorem lnWrites_wrote (x : LnIss) (lat : Nat) (act : LaneMask) (g : Group) (rs : List PReg) (vs : List (List Word))
    (ht : x.Last g)
    (hl : ∀ p ∈ rs.zip vs, p.2.length = 96) (hd : (rs.zip vs).Pairwise fun a b => a.1.spec ≠ b.1.spec) :
    Wrote x lat act g (lnWrites x lat act g rs vs) (rs.zip vs) := by
  induction rs generalizing g vs with
  | nil => exact ⟨by simp, fun _ _ _ => rfl, rfl, fun p hp => .inl hp⟩
  | cons r rs ih =>
    cases vs with
    | nil => exact ⟨by simp, fun _ _ _ => rfl, rfl, fun p hp => .inl hp⟩
    | cons v vs =>
      simp only [List.zip_cons_cons, List.pairwise_cons] at hd
      have hv : v.length = 96 := hl (r, v) (by simp)
      have hp1 : ∀ p ∈ (lnWrite x lat act g r v).pend, p ∈ g.pend ∨ ownPend x lat p := by
        rw [lnWrite_last ht]
        intro p hp
        rcases List.mem_append.mp hp with hp | hp
        · exact .inl hp
        · rw [List.mem_singleton.mp hp]; exact .inr ⟨rfl, rfl, rfl⟩
      have W := ih (lnWrite x lat act g r v) vs (ht.extend hp1) (fun p hp => hl p (by simp [hp])) hd.2
      have e := fun sp n => lane_lnWrite x lat act g r v sp n ht
      refine ⟨?_, ?_, ?_, ?_⟩
      · intro p hp n
        rcases List.mem_cons.mp hp with rfl | hp
        · show (lnWrites x lat act (lnWrite x lat act g r v) rs vs).lane r.spec n = _
          rw [W.others r.spec (fun q hq => Ne.symm (hd.1 q hq)), e _ _ hv]
          by_cases hb : laneBit act n <;> simp [hb]
        · show (lnWrites x lat act (lnWrite x lat act g r v) rs vs).lane p.1.spec n = _
          rw [W.values p hp, e _ _ hv]
          have : p.1.spec ≠ r.spec := Ne.symm (hd.1 p hp)
          simp [this]
      · intro sp hsp n
        show (lnWrites x lat act (lnWrite x lat act g r v) rs vs).lane sp n = _
        rw [W.others sp (fun p hp => hsp p (by simp [hp])), e _ _ hv]
        have : sp ≠ r.spec := Ne.symm (hsp (r, v) (by simp))
        simp [this]
      · show lnWrites x lat act (lnWrite x lat act g r v) rs vs = g.withVecsOf (lnWrites x lat act (lnWrite x lat act g r v) rs vs)
        exact Group.withVecsOf_trans (lnWrite_eq ..) W.frame
      · intro p hp
        rcases W.pend p hp with hp | hp
        · exact hp1 p hp
        · exact .inr hp

/-- The lane registers that an instruction writes, with their values. -/
def laneWrites (x : LnIss) (o : LaneOut) : List (PReg × List Word) :=
  (dstRegs x).zip o.dst ++ (match o.pay with
    | some w => (laneRegs x.l.a.toNat 1).zip [w]
    | none => [])

theorem lnLanes_wrote (x : LnIss) (v : LaneVals) (lat : Nat) (o : LaneOut) (g : Group) (ht : x.Last g)
    (hl : ∀ p ∈ laneWrites x o, p.2.length = 96) (hd : (laneWrites x o).Pairwise fun a b => a.1.spec ≠ b.1.spec) :
    Wrote x lat (v.act &&& o.lanes) g (lnLanes x v lat o g) (laneWrites x o) := by
  unfold lnLanes laneWrites at *
  cases hp : o.pay with
  | none =>
    simp only [hp, List.append_nil] at *
    exact lnWrites_wrote x lat (v.act &&& o.lanes) g _ _ ht hl hd
  | some w =>
    simp only [hp] at *
    obtain ⟨hd1, hd2, hd3⟩ := List.pairwise_append.mp hd
    have W1 := lnWrites_wrote x lat (v.act &&& o.lanes) g (dstRegs x) o.dst ht (fun p hp => hl p (List.mem_append_left _ hp)) hd1
    have W2 := lnWrites_wrote x lat (v.act &&& o.lanes) (lnWrites x lat (v.act &&& o.lanes) g (dstRegs x) o.dst)
      (laneRegs x.l.a.toNat 1) [w] (ht.extend W1.pend) (fun p hp => hl p (List.mem_append_right _ hp)) hd2
    refine ⟨?_, ?_, ?_, ?_⟩
    · intro p hp n
      rcases List.mem_append.mp hp with hp | hp
      · rw [W2.others p.1.spec (fun q hq => Ne.symm (hd3 p hp q hq)), W1.values p hp]
      · rw [W2.values p hp, W1.others p.1.spec (fun q hq => hd3 q hq p hp)]
    · intro sp hsp n
      rw [W2.others sp (fun q hq => hsp q (List.mem_append_right _ hq)),
        W1.others sp (fun q hq => hsp q (List.mem_append_left _ hq))]
    · exact Group.withVecsOf_trans W1.frame W2.frame
    · intro p hp
      rcases W2.pend p hp with hp | hp
      · exact W1.pend p hp
      · exact .inr hp

/-! ### Predicates and flags -/

theorem testBit_foldr (p : Nat → Bool) (l : List Nat) (n : Nat) :
    (l.foldr (fun k m => 2 * m + (if p k then 1 else 0)) 0).testBit n = ((l[n]?).map p).getD false := by
  induction l generalizing n with
  | nil => simp
  | cons k l ih =>
    cases n with
    | zero =>
      simp only [List.foldr_cons, Nat.testBit_zero, List.getElem?_cons_zero, Option.map_some, Option.getD_some]
      cases p k <;> simp <;> omega
    | succ n =>
      simp only [List.foldr_cons, Nat.testBit_succ, List.getElem?_cons_succ]
      rw [← ih n]
      congr 1
      cases p k <;> simp <;> omega

/-- The mask of the lanes that a test accepts. -/
theorem laneBit_maskOf (p : Nat → Bool) {n : Nat} (h : n < 96) : laneBit (maskOf p) n = p n := by
  unfold laneBit maskOf
  rw [BitVec.getLsbD_ofNat, testBit_foldr]
  simp [upto, h]

/-- A mask is what the words of its lanes say. -/
theorem laneBit_listMask (l : List Word) {n : Nat} (h : n < 96) : laneBit (listMask l) n = (l.getD n 0 != 0) :=
  laneBit_maskOf _ h

theorem getD_maskList (m : LaneMask) {n : Nat} (h : n < 96) : (maskList m).getD n 0 = if laneBit m n then 1 else 0 := by
  simp [maskList, upto, h]

/-- The predicate that a result leaves. -/
theorem listMask_blend (a b m : LaneMask) {n : Nat} (h : n < 96) :
    laneBit (listMask (blend m 0 (maskList a) (maskList b))) n = if laneBit m n then laneBit b n else laneBit a n := by
  rw [laneBit_listMask _ h]
  have := getD_blend m 0 n (maskList a) (maskList b) (by simp [maskList, upto])
  rw [Nat.zero_add] at this
  rw [this, getD_maskList _ h, getD_maskList _ h]
  cases laneBit m n <;> cases laneBit a n <;> cases laneBit b n <;> decide

theorem getD_lnSetFlags (v : LaneVals) (fs : List Flags) (wr : Bool) (g : Group) {n : Nat} (h : n < 96) :
    (lnSetFlags v (some fs) wr g).flag n = if laneBit v.act n then fs.getD n 0 else g.flag n := by
  have e1 := getElem?_fit (0 : Flags) 96 g.flags n
  have e2 := getElem?_fit (0 : Flags) 96 fs n
  rw [if_pos h] at e1 e2
  have e3 : ((fit 0 96 g.flags).zip (fit 0 96 fs))[n]? = some (g.flags[n]?.getD 0, fs[n]?.getD 0) := by
    rw [List.getElem?_zip_eq_some]
    exact ⟨e1, e2⟩
  unfold Group.flag lnSetFlags
  simp only [List.getD_eq_getElem?_getD, List.getElem?_map, List.getElem?_zipIdx, e3, Option.map_some, Option.getD_some, Nat.zero_add]

theorem getD_maskFlags (m : LaneMask) (k n : Nat) (fs : List Flags) :
    (maskFlags m k fs).getD n 0 = if laneBit m (k + n) then fs.getD n 0 else 0 := by
  induction fs generalizing k n with
  | nil => simp [maskFlags]
  | cons f fs ih =>
    cases n with
    | zero => simp [maskFlags]
    | succ n =>
      simp only [maskFlags, List.getD_cons_succ]
      rw [ih (k + 1) n, show k + 1 + n = k + (n + 1) by omega]

theorem anyFlag_false {fs : List Flags} (h : anyFlag fs = false) (n : Nat) : fs.getD n 0 = 0 := by
  rw [List.getD_eq_getElem?_getD]
  cases e : fs[n]? with
  | none => rfl
  | some f =>
    have := List.any_eq_false.mp h f (List.mem_of_getElem? e)
    simpa using this

/-- What raising flags leaves on its way. -/
theorem lnRaise_fpend (x : LnIss) (v : LaneVals) (lat : Nat) (f : Option (List Flags)) (g : Group) :
    ∃ fs, (lnRaise x v lat f g).fpend = g.fpend ++ fs ∧ (∀ p ∈ fs, p.1 = x.slot + lat) ∧
      ∀ n, comingFlags fs n = if laneBit v.act n then (match f with
        | some l => l.getD n 0
        | none => 0) else 0 := by
  cases f with
  | none => exact ⟨[], by simp [lnRaise], by simp, fun n => by simp [comingFlags]⟩
  | some l =>
    by_cases h : anyFlag (maskFlags v.act 0 l) = true
    · refine ⟨[(x.slot + lat, maskFlags v.act 0 l)], ?_, by simp, ?_⟩
      · simp [lnRaise, Group.raiseAt, h]
      · intro n
        have := getD_maskFlags v.act 0 n l
        rw [Nat.zero_add] at this
        simp only [comingFlags, List.foldl_cons, List.foldl_nil, this]
        exact BitVec.zero_or
    · refine ⟨[], ?_, by simp, ?_⟩
      · simp [lnRaise, Group.raiseAt, h]
      · intro n
        have h1 := anyFlag_false (by simpa using h) n
        have h2 := getD_maskFlags v.act 0 n l
        rw [h1, Nat.zero_add] at h2
        exact h2

/-! ### Scalar results -/

theorem lnScal_eq (x : LnIss) (lat : Nat) (g : Group) (w : Nat × Word) :
    lnScal x lat g w = { g with sregs := (lnScal x lat g w).sregs, splits := (lnScal x lat g w).splits,
                                handler := (lnScal x lat g w).handler, pend := (lnScal x lat g w).pend } := by
  unfold lnScal Group.putResult
  have e := fun y => Group.sset_eq g x.b.split w.1 y
  split
  · generalize blend _ 0 _ _ = y
    dsimp only
    conv => lhs; rw [e]
  · generalize blend _ 0 _ _ = y
    dsimp only
    conv => lhs; rw [e]

theorem lnScal_last {x : LnIss} {g : Group} (h : x.Last g) (lat : Nat) (w : Nat × Word) :
    lnScal x lat g w = { g.sset x.b.split w.1 w.2 with
      pend := g.pend ++ [{ lnPend x lat (.s w.1) fullMask with old := [g.sval x.b.split w.1] }] } := by
  unfold lnScal
  rw [putResult_latest h rfl rfl, show (lnPend x lat (.s w.1) fullMask).mask = fullMask from rfl, blend_one]
  rfl

/-- What writing scalar registers one after another leaves. -/
structure Set (x : LnIss) (lat : Nat) (g h : Group) (ws : List (Nat × Word)) : Prop where
  values : (ws.Pairwise fun a b => a.1 ≠ b.1) → ∀ w ∈ ws, h.sval x.b.split w.1 = w.2
  others : ∀ ix r, (∀ w ∈ ws, w.1 ≠ r ∨ (48 ≤ r ∧ ix ≠ x.b.split)) → h.sval ix r = g.sval ix r
  frame : h = { g with sregs := h.sregs, splits := h.splits, handler := h.handler, pend := h.pend }
  splits : ∀ j, j ≠ x.b.split → h.split? j = g.split? j
  split : ∀ sp, g.split? x.b.split = some sp → ∃ q, h.split? x.b.split = some { sp with priv := q }
  phase : h.phase = g.phase
  pend : ∀ p ∈ h.pend, p ∈ g.pend ∨ ownPend x lat p


theorem sval_lnScal (x : LnIss) (lat : Nat) (g : Group) (w : Nat × Word) (ix r : Nat) (ht : x.Last g)
    (hw : w.1 < 64) (hs : (g.split? x.b.split).isSome) : (lnScal x lat g w).sval ix r =
      if r = w.1 ∧ (r < 48 ∨ ix = x.b.split) then w.2 else g.sval ix r := by
  rw [lnScal_last ht]
  show (g.sset x.b.split w.1 w.2).sval ix r = _
  by_cases e : ix = x.b.split
  · subst e
    rw [Group.sval_sset g _ _ _ _ hw hs]
    simp
  · by_cases h64 : 64 ≤ r
    · have : ¬ (r = w.1 ∧ (r < 48 ∨ ix = x.b.split)) := by omega
      rw [if_neg this, Group.sset_eq]
      simp [Group.sval, h64]
    · by_cases h48 : r < 48
      · have h := Group.sval_sset g x.b.split w.1 r w.2 hw hs
        have e1 : ∀ k : Group, k.sval ix r = k.sval x.b.split r := fun k => by simp [Group.sval, h64, h48]
        rw [e1, h, e1]
        simp [h48]
      · have : ¬ (r = w.1 ∧ (r < 48 ∨ ix = x.b.split)) := by simp [h48, e]
        rw [if_neg this]
        have hc : (g.sset x.b.split w.1 w.2).split? ix = g.split? ix := by
          rw [Group.split?_sset, if_neg (fun h => e (And.left h))]
        unfold Group.sval
        rw [hc]
        simp only [h64, h48, if_false]

theorem lnScals_set (x : LnIss) (lat : Nat) (ws : List (Nat × Word)) (g : Group) (ht : x.Last g) (hs : (g.split? x.b.split).isSome)
    (hn : ∀ w ∈ ws, w.1 < 64) : Set x lat g (ws.foldl (lnScal x lat) g) ws := by
  induction ws generalizing g with
  | nil => exact ⟨by simp, fun _ _ _ => rfl, rfl, fun _ _ => rfl, fun sp h => ⟨sp.priv, h⟩, rfl, fun _ h => .inl h⟩
  | cons w ws ih =>
    have hw : w.1 < 64 := hn w (by simp)
    obtain ⟨sp0, hsp0⟩ := Option.isSome_iff_exists.mp hs
    let g1 := lnScal x lat g w
    have e2 : ∀ j, g1.split? j = (g.sset x.b.split w.1 w.2).split? j := fun j => by
      show (lnScal x lat g w).split? j = _
      rw [lnScal_last ht]; rfl
    have hp1 : ∀ p ∈ g1.pend, p ∈ g.pend ∨ ownPend x lat p := by
      show ∀ p ∈ (lnScal x lat g w).pend, _
      rw [lnScal_last ht]
      intro p hp
      rcases List.mem_append.mp hp with hp | hp
      · exact .inl hp
      · rw [List.mem_singleton.mp hp]; exact .inr ⟨rfl, rfl, rfl⟩
    have e3 := fun ix r => sval_lnScal x lat g w ix r ht hw hs
    have hsp : ∀ sp, g.split? x.b.split = some sp → ∃ q, g1.split? x.b.split = some { sp with priv := q } := by
      intro sp hsp
      rw [e2, Group.split?_sset]
      split
      · exact ⟨padSet 0 sp.priv (w.1 - 48) w.2, by rw [hsp]; rfl⟩
      · exact ⟨sp.priv, by rw [hsp]⟩
    have hs1 : (g1.split? x.b.split).isSome := by
      obtain ⟨q, hq⟩ := hsp sp0 hsp0
      simp [hq]
    have I := ih g1 (ht.extend hp1) hs1 fun v hv => hn v (by simp [hv])
    rw [List.foldl_cons]
    refine ⟨?_, ?_, ?_, ?_, ?_, ?_, ?_⟩
    · intro hd v hv
      rw [List.pairwise_cons] at hd
      rcases List.mem_cons.mp hv with rfl | hv
      · rw [I.others _ _ fun u hu => .inl (Ne.symm (hd.1 u hu)), e3]
        simp
      · exact I.values hd.2 v hv
    · intro ix r hr
      rw [I.others ix r fun u hu => hr u (by simp [hu]), e3, if_neg]
      rcases hr w (by simp) with h | h
      · exact fun e => h e.1.symm
      · exact fun e => e.2.elim (fun e' => absurd e' (Nat.not_lt.mpr (And.left h))) (And.right h)
    · have h1 := I.frame
      have h2 : g1 = _ := lnScal_eq x lat g w
      generalize ws.foldl (lnScal x lat) g1 = h at h1 ⊢
      rw [h1, h2]
    · intro j hj
      rw [I.splits j hj, e2, Group.split?_sset, if_neg fun e => hj e.1]
    · intro sp h
      obtain ⟨q, hq⟩ := hsp sp h
      obtain ⟨q', hq'⟩ := I.split _ hq
      exact ⟨q', hq'⟩
    · rw [I.phase]
      show (lnScal x lat g w).phase = _
      rw [lnScal_last ht]
      exact Group.phase_sset ..
    · intro p hp
      rcases I.pend p hp with hp | hp
      · exact hp1 p hp
      · exact .inr hp


/-! ### The whole effect -/

/-- The model's results `o` of a lane instruction are the effect `e`. -/
structure Makes (x : LnIss) (o : LaneOut) (e : LaneEffect) : Prop where
  lens : ∀ p ∈ laneWrites x o, p.2.length = 96
  apart : (laneWrites x o).Pairwise fun a b => a.1.spec ≠ b.1.spec
  dst : ∀ w ∈ e.dst, ∃ p ∈ laneWrites x o, p.1.spec = w.1 ∧ ∀ n < 96, p.2.getD n 0 = w.2 n
  only : ∀ p ∈ laneWrites x o, ∃ w ∈ e.dst, w.1 = p.1.spec
  kept : ∀ p ∈ laneWrites x o, ∀ n < 96, laneBit o.lanes n = false → laneActive x.g x.b x.l n = true →
    p.2.getD n 0 = x.g.lane p.1.spec n
  first : ∀ w, e.dst.head? = some w → o.counted = false ∧ x.op ≠ 0x102 ∧ ∃ r rs, dstRegs x = r :: rs ∧ r.spec = w.1
  pred : o.pred.map (·.1) = e.pred.map (·.1)
  bits : ∀ a ∈ o.pred, ∀ b ∈ e.pred, ∀ n < 96, laneBit a.2 n = b.2 n
  scal : o.scal = e.scal
  scalApart : o.scal.Pairwise fun a b => a.1 ≠ b.1
  scalFile : ∀ w ∈ o.scal, w.1 < 64
  flags : ∀ n < 96, (match o.flags with
    | some l => l.getD n 0
    | none => 0) = e.raised n
  written : o.setFlags.isSome = e.written.isSome
  writtenFlags : ∀ a ∈ o.setFlags, ∀ f ∈ e.written, ∀ n < 96, a.getD n 0 = f n
  empty : o.empty = e.empty

theorem act_laneActive (x : LnIss) (n : Nat) (h : n < 96) :
    laneBit (plainVals x).act n = laneActive x.g x.b x.l n := by
  unfold plainVals laneActive guardLanes
  simp only [laneBit, BitVec.getLsbD_and]
  by_cases h1 : x.l.guard = 31
  · have : (x.l.guard == 31#5) = true := by simpa using h1
    simp only [h1, if_true, BitVec.getLsbD_not, h, decide_true, Bool.true_and]
    simp
  · have : (x.l.guard == 31#5) = false := by simpa using h1
    by_cases h2 : x.l.inv = 1
    · have e : (x.l.inv == 1#1) = true := by simpa using h2
      simp only [h1, if_false, h2, if_true, BitVec.getLsbD_not, h, decide_true, Bool.true_and, this, Bool.false_or]
      simp
    · have e : (x.l.inv == 1#1) = false := by simpa using h2
      simp only [h1, if_false, h2, this, e, Bool.false_or]
      simp

theorem Group.withLanesOf_trans {a b c : Group} (h1 : b = a.withLanesOf b) (h2 : c = b.withLanesOf c) : c = a.withLanesOf c := by
  calc c = b.withLanesOf c := h2
    _ = (a.withLanesOf b).withLanesOf c := by rw [← h1]
    _ = a.withLanesOf c := rfl

theorem lane_congr {g h : Group} (hv : h.vregs = g.vregs) (ho : h.oregs = g.oregs) (sp n : Nat) : h.lane sp n = g.lane sp n := by
  simp only [Group.lane, Group.vval, hv, ho]

theorem sval_congr {g h : Group} (hl : h.launch = g.launch) (hs : h.sregs = g.sregs) (hp : ∀ j, h.split? j = g.split? j)
    (ix r : Nat) : h.sval ix r = g.sval ix r := by
  simp only [Group.sval, hl, hs, hp]

/-- What the results of a lane instruction leave in its group. -/
theorem lnCommit_leaves {op : Nat} {l : LaneF} {s : State} {g : Group} {b : Batch} {o : LaneOut} {e : LaneEffect}
    (lat : Nat) (M : Makes (laneIssOf op l s g b) o e) (ht : Latest g b.split (3 * (s.now g.core / 3))) (hs : (g.split? b.split).isSome) (h : Group) (r : HEntry)
    (f : Split → Split) (hf : ∀ sp, f sp = { sp with laneReady := (f sp).laneReady })
    (hh : h = { (lnCommit (laneIssOf op l s g b) (plainVals (laneIssOf op l s g b)) lat o (laneIssOf op l s g b).g).modSplit
      b.split f with batches := h.batches })
    (hb : h.batches = batchesAfter g.batches b (s.now g.core / 3) l.stall.toNat lat r)
    (hr : ∀ w, e.dst.head? = some w → ∃ new old, r = .vals new old (s.now g.core / 3 + lat) (b.first + b.next) ∧
      ∀ n < 96, new.getD n 0 = (lnCommit (laneIssOf op l s g b) (plainVals (laneIssOf op l s g b)) lat o
        (laneIssOf op l s g b).g).lane w.1 n) :
    LaneLeaves (laneIssOf op l s g b) g h lat e := by
  let x := laneIssOf op l s g b
  let v := plainVals x
  have hact : ∀ n < 96, laneBit v.act n = laneActive g b l n := fun n hn => act_laneActive x n hn
  have hl0 : x.Last x.g := Latest.pruned ht
  have W := lnLanes_wrote x v lat o x.g hl0 M.lens M.apart
  let g1 := lnLanes x v lat o x.g
  let g2 := lnPred x v lat o.pred g1
  let g3 := lnSetFlags v o.setFlags o.wrFlags g2
  let g4 := lnRaise x v lat o.flags g3
  let g5 := o.scal.foldl (lnScal x lat) g4
  let g6 := lnEmpty x lat o.empty g5
  have hg6 : lnCommit x v lat o x.g = g6 := rfl
  have l1 : x.Last g1 := hl0.extend W.pend
  have e1 : g1 = x.g.withVecsOf g1 := W.frame
  have e2 : g2 = { g1 with preds := g2.preds, pend := g2.pend } := by
    show lnPred x v lat o.pred g1 = { g1 with preds := (lnPred x v lat o.pred g1).preds, pend := (lnPred x v lat o.pred g1).pend }
    unfold lnPred Group.putResult
    cases o.pred with
    | none => rfl
    | some a => dsimp only; split <;> rfl
  have q2 : ∀ p ∈ g2.pend, p ∈ g1.pend ∨ ownPend x lat p := by
    show ∀ p ∈ (lnPred x v lat o.pred g1).pend, _
    unfold lnPred
    cases o.pred with
    | none => exact fun p hp => .inl hp
    | some a =>
      dsimp only
      rw [putResult_latest l1 rfl rfl]
      intro p hp
      rcases List.mem_append.mp hp with hp | hp
      · exact .inl hp
      · rw [List.mem_singleton.mp hp]; exact .inr ⟨rfl, rfl, rfl⟩
  have l2 : x.Last g2 := l1.extend q2
  have e3 : g3 = { g2 with flags := g3.flags, fturn := g3.fturn } := by
    show lnSetFlags v o.setFlags o.wrFlags g2 = { g2 with flags := (lnSetFlags v o.setFlags o.wrFlags g2).flags, fturn := (lnSetFlags v o.setFlags o.wrFlags g2).fturn }
    unfold lnSetFlags; cases o.setFlags <;> rfl
  have l3 : x.Last g3 := by rw [e3]; exact l2
  have e4 : g4 = { g3 with fpend := g4.fpend, pend := g4.pend } := by
    show lnRaise x v lat o.flags g3 = { g3 with fpend := (lnRaise x v lat o.flags g3).fpend, pend := (lnRaise x v lat o.flags g3).pend }
    unfold lnRaise Group.raiseAt
    cases o.flags with
    | none => rfl
    | some fs => dsimp only; split <;> rfl
  have q4 : ∀ p ∈ g4.pend, p ∈ g3.pend ∨ ownPend x lat p := by
    show ∀ p ∈ (lnRaise x v lat o.flags g3).pend, _
    unfold lnRaise
    cases o.flags with
    | none => exact fun p hp => .inl hp
    | some a =>
      intro p hp
      rcases List.mem_append.mp hp with hp | hp
      · exact .inl hp
      · rw [List.mem_singleton.mp hp]; exact .inr ⟨rfl, rfl, rfl⟩
  have l4 : x.Last g4 := l3.extend q4
  have hs4 : (g4.split? x.b.split).isSome := by
    have : g4.split? x.b.split = g.split? b.split := by
      rw [e4, e3, e2, e1]; rfl
    rw [this]; exact hs
  have S := lnScals_set x lat o.scal g4 l4 hs4 M.scalFile
  have l5 : x.Last g5 := l4.extend S.pend
  have e5 : g5 = _ := S.frame
  have e6 : g6 = { g5 with empty := g6.empty, pend := g6.pend } := by
    show lnEmpty x lat o.empty g5 = { g5 with empty := (lnEmpty x lat o.empty g5).empty, pend := (lnEmpty x lat o.empty g5).pend }
    unfold lnEmpty Group.putResult
    cases o.empty with
    | false => rfl
    | true => generalize (g5.pend.any _) = c; cases c <;> rfl
  let g7 := g6.modSplit b.split f
  have e7 : g7 = { g6 with splits := g7.splits, handler := g7.handler } := Group.modSplit_eq ..
  have s7 : ∀ j, g7.split? j = if j = b.split then (g6.split? j).map f else g6.split? j := fun j => Group.split?_modSplit ..
  have p7 : g7.phase = g6.phase := Group.phase_modSplit ..
  have v7 : ∀ ix r, g7.sval ix r = g6.sval ix r := by
    intro ix r
    by_cases e : ix = b.split
    · subst e
      exact Group.sval_modSplit _ _ _ _ fun sp => by rw [hf]
    · have hc : g7.split? ix = g6.split? ix := by rw [s7, if_neg e]
      unfold Group.sval
      rw [hc, e7]
  have q6 : ∀ p ∈ g6.pend, p ∈ g5.pend ∨ ownPend x lat p := by
    show ∀ p ∈ (lnEmpty x lat o.empty g5).pend, _
    unfold lnEmpty
    cases o.empty with
    | false => exact fun p hp => .inl hp
    | true =>
      simp only [if_true]
      rw [putResult_latest l5 rfl rfl]
      intro p hp
      rcases List.mem_append.mp hp with hp | hp
      · exact .inl hp
      · rw [List.mem_singleton.mp hp]; exact .inr ⟨rfl, rfl, rfl⟩
  have m6 : g6.empty = (g5.empty || o.empty) := by
    show (lnEmpty x lat o.empty g5).empty = _
    unfold lnEmpty Group.putResult
    cases o.empty with
    | false => simp
    | true => generalize (g5.pend.any _) = c; cases c <;> simp
  have d2 : ∀ q, g2.preds.getD q 0 = match o.pred with
      | some (n, m) => if q = n then listMask (blend v.act 0 (maskList (g1.preds.getD n 0)) (maskList m)) else g1.preds.getD q 0
      | none => g1.preds.getD q 0 := by
    intro q
    show (lnPred x v lat o.pred g1).preds.getD q 0 = _
    unfold lnPred
    cases o.pred with
    | none => rfl
    | some a =>
      dsimp only
      rw [putResult_latest l1 rfl rfl]
      exact getD_padSet ..
  have f3 : ∀ n < 96, g3.flag n = match o.setFlags with
      | some fs => if laneBit v.act n then fs.getD n 0 else g2.flag n
      | none => g2.flag n := by
    intro n hn
    show (lnSetFlags v o.setFlags o.wrFlags g2).flag n = _
    cases o.setFlags with
    | none => rfl
    | some fs => exact getD_lnSetFlags v fs _ g2 hn
  obtain ⟨fs, r1, r2, r3⟩ := lnRaise_fpend x v lat o.flags g3
  have r1' : g4.fpend = g3.fpend ++ fs := r1
  have hh' : h = { g7 with batches := h.batches } := hh
  have hr' : ∀ w, e.dst.head? = some w → ∃ new old, r = .vals new old (s.now g.core / 3 + lat) (b.first + b.next) ∧
      ∀ n < 96, new.getD n 0 = g6.lane w.1 n := hr
  have hact' : ∀ n < 96, laneBit v.act n = laneActive g b l n := hact
  have S' : Set x lat g4 g5 o.scal := S
  have W' : Wrote x lat (v.act &&& o.lanes) x.g g1 (laneWrites x o) := W
  clear_value g7 g6 g5 g4 g3 g2 g1
  -- the fields of `h`
  have hv : h.vregs = g6.vregs := (show h.vregs = g7.vregs from (congrArg Group.vregs hh' :)).trans (show g7.vregs = g6.vregs from (congrArg Group.vregs e7 :))
  have ho : h.oregs = g6.oregs := (show h.oregs = g7.oregs from (congrArg Group.oregs hh' :)).trans (show g7.oregs = g6.oregs from (congrArg Group.oregs e7 :))
  have hv1 : g6.vregs = g1.vregs := (show g6.vregs = g5.vregs from (congrArg Group.vregs e6 :)).trans ((show g5.vregs = g4.vregs from (congrArg Group.vregs e5 :)).trans
    ((show g4.vregs = g3.vregs from (congrArg Group.vregs e4 :)).trans ((show g3.vregs = g2.vregs from (congrArg Group.vregs e3 :)).trans (show g2.vregs = g1.vregs from (congrArg Group.vregs e2 :)))))
  have ho1 : g6.oregs = g1.oregs := (show g6.oregs = g5.oregs from (congrArg Group.oregs e6 :)).trans ((show g5.oregs = g4.oregs from (congrArg Group.oregs e5 :)).trans
    ((show g4.oregs = g3.oregs from (congrArg Group.oregs e4 :)).trans ((show g3.oregs = g2.oregs from (congrArg Group.oregs e3 :)).trans (show g2.oregs = g1.oregs from (congrArg Group.oregs e2 :)))))
  have hlane : ∀ sp n, h.lane sp n = g1.lane sp n := lane_congr (hv.trans hv1) (ho.trans ho1)
  have hpreds : h.preds = g2.preds := (show h.preds = g7.preds from (congrArg Group.preds hh' :)).trans ((show g7.preds = g6.preds from (congrArg Group.preds e7 :)).trans
    ((show g6.preds = g5.preds from (congrArg Group.preds e6 :)).trans ((show g5.preds = g4.preds from (congrArg Group.preds e5 :)).trans ((show g4.preds = g3.preds from (congrArg Group.preds e4 :)).trans (show g3.preds = g2.preds from (congrArg Group.preds e3 :))))))
  have gpreds : g1.preds = g.preds := (congrArg Group.preds e1 :)
  have hflags : h.flags = g3.flags := (show h.flags = g7.flags from (congrArg Group.flags hh' :)).trans ((show g7.flags = g6.flags from (congrArg Group.flags e7 :)).trans
    ((show g6.flags = g5.flags from (congrArg Group.flags e6 :)).trans ((show g5.flags = g4.flags from (congrArg Group.flags e5 :)).trans (show g4.flags = g3.flags from (congrArg Group.flags e4 :)))))
  have gflags : g2.flags = x.g.flags := (show g2.flags = g1.flags from (congrArg Group.flags e2 :)).trans (congrArg Group.flags e1 :)
  have hfp : h.fpend = g4.fpend := (show h.fpend = g7.fpend from (congrArg Group.fpend hh' :)).trans ((show g7.fpend = g6.fpend from (congrArg Group.fpend e7 :)).trans
    ((show g6.fpend = g5.fpend from (congrArg Group.fpend e6 :)).trans (show g5.fpend = g4.fpend from (congrArg Group.fpend e5 :))))
  have gfp : g3.fpend = x.g.fpend := (show g3.fpend = g2.fpend from (congrArg Group.fpend e3 :)).trans ((show g2.fpend = g1.fpend from (congrArg Group.fpend e2 :)).trans (congrArg Group.fpend e1 :))
  have hempty : h.empty = g6.empty := (show h.empty = g7.empty from (congrArg Group.empty hh' :)).trans (show g7.empty = g6.empty from (congrArg Group.empty e7 :))
  have gempty : g5.empty = g.empty := (show g5.empty = g4.empty from (congrArg Group.empty e5 :)).trans ((show g4.empty = g3.empty from (congrArg Group.empty e4 :)).trans
    ((show g3.empty = g2.empty from (congrArg Group.empty e3 :)).trans ((show g2.empty = g1.empty from (congrArg Group.empty e2 :)).trans (congrArg Group.empty e1 :))))
  have hpend : h.pend = g6.pend := (show h.pend = g7.pend from (congrArg Group.pend hh' :)).trans (show g7.pend = g6.pend from (congrArg Group.pend e7 :))
  have hsp : ∀ j, h.split? j = g7.split? j := fun j => by rw [hh']; rfl
  have s6 : ∀ j, g6.split? j = g5.split? j := fun j => by rw [e6]; rfl
  have s4 : ∀ j, g4.split? j = g.split? j := fun j => by rw [e4, e3, e2, e1]; rfl
  have hsv : ∀ ix k, h.sval ix k = g5.sval ix k := fun ix k => by
    rw [show h.sval ix k = g7.sval ix k from by rw [hh']; rfl, v7, e6]; rfl
  have gsv : ∀ ix k, g4.sval ix k = g.sval ix k := fun ix k => by rw [e4, e3, e2, e1]; rfl
  have xlane : ∀ sp n, x.g.lane sp n = g.lane sp n := fun _ _ => rfl
  refine
    { values := ?_, registers := ?_, predicate := ?_, predicates := ?_, scalar := ?_, scalars := ?_, flags := ?_, raised := ?_,
      empty := ?_, pending := ?_, batch := ?_, splits := ?_, split := ?_, phase := ?_, others := ?_ }
  · intro w hw n hn
    obtain ⟨p, hp, ep, hpv⟩ := M.dst w hw
    rw [hlane, ← ep, W'.values p hp, ← hpv n hn]
    have hk := M.kept p hp n hn
    have hb2 : laneBit (v.act &&& o.lanes) n = (laneActive g b l n && laneBit o.lanes n) := by
      rw [← hact' n hn]; exact BitVec.getLsbD_and
    rw [hb2]
    change _ = if laneActive g b l n then _ else _
    cases h1 : laneActive g b l n with
    | false => rfl
    | true =>
      cases h2 : laneBit o.lanes n with
      | true => rfl
      | false => exact (hk h2 h1).symm
  · intro sp hsp' n
    rw [hlane]
    apply W'.others
    intro p hp e'
    obtain ⟨w, hw, ew⟩ := M.only p hp
    exact hsp' w hw (ew.trans e')
  · intro p hp n hn
    have hpe : e.pred = some p := hp
    have hm := M.pred
    rw [hpe] at hm
    obtain ⟨a, ha, ea⟩ := Option.map_eq_some_iff.mp hm
    obtain ⟨q, m⟩ := a
    simp only at ea
    subst ea
    rw [hpreds, d2, ha]
    simp only [if_true]
    rw [listMask_blend _ _ _ hn, hact' n hn, M.bits _ ha _ hp n hn, gpreds]
    rfl
  · intro q hq
    rw [hpreds, d2]
    cases ha : o.pred with
    | none => simp only [gpreds]
    | some a =>
      obtain ⟨k, m⟩ := a
      have hm := M.pred
      rw [ha] at hm
      obtain ⟨p, hp, ep⟩ := Option.map_eq_some_iff.mp hm.symm
      have : q ≠ k := fun e' => hq p hp (ep.trans e'.symm)
      simp only [this, if_false, gpreds]
  · intro w hw
    rw [hsv]
    exact S'.values M.scalApart w (M.scal ▸ hw)
  · intro ix k hk
    rw [hsv, S'.others ix k fun w hw => hk w (M.scal ▸ hw), gsv]
  · intro n hn
    rw [show h.flag n = g3.flag n from by simp only [Group.flag, hflags], f3 n hn,
      show g2.flag n = x.g.flag n from by simp only [Group.flag, gflags]]
    have hw := M.written
    cases ha : o.setFlags with
    | none =>
      rw [ha] at hw
      cases he : e.written with
      | none => rfl
      | some k => simp [he] at hw
    | some a =>
      rw [ha] at hw
      cases he : e.written with
      | none => simp [he] at hw
      | some k =>
        simp only
        rw [hact' n hn, M.writtenFlags a ha k he n hn]
        rfl
  · refine ⟨fs, by rw [hfp, r1', gfp], r2, fun n hn => ?_⟩
    rw [r3, hact' n hn]
    have := M.flags n hn
    split
    · rename_i hb
      rw [this]; exact (if_pos hb).symm
    · rename_i hb
      exact (if_neg hb).symm
  · rw [hempty, m6, gempty, M.empty]
  · intro p hp
    rw [hpend] at hp
    rcases q6 p hp with hp | hp
    · rcases S'.pend p hp with hp | hp
      · rcases q4 p hp with hp | hp
        · rw [e3] at hp
          rcases q2 p hp with hp | hp
          · rcases W'.pend p hp with hp | hp
            · exact .inl (mem_prunePend hp)
            · exact .inr hp
          · exact .inr hp
        · exact .inr hp
      · exact .inr hp
    · exact .inr hp
  · refine ⟨r, hb, fun w hw => ?_⟩
    obtain ⟨new, old, h1, h2⟩ := hr' w hw
    refine ⟨new, old, h1, fun n hn => ?_⟩
    rw [h2 n hn, hlane, lane_congr hv1 ho1]
  · intro j hj
    rw [hsp, s7, if_neg (show ¬ j = b.split from hj), s6, S'.splits j hj, s4]
  · obtain ⟨sp, hsp0⟩ := Option.isSome_iff_exists.mp hs
    obtain ⟨q, hq⟩ := S'.split sp (by rw [s4]; exact hsp0)
    refine ⟨sp, f { sp with priv := q }, hsp0, ?_, ?_⟩
    · show h.split? b.split = _
      rw [hsp, s7, if_pos rfl, s6]
      exact congrArg (Option.map f) hq
    · rw [hf]
  · rw [show h.phase = g7.phase from by rw [hh']; rfl, p7, show g6.phase = g5.phase from by rw [e6]; rfl, S'.phase,
      show g4.phase = g.phase from by rw [e4, e3, e2, e1]; rfl]
  · have w1 : g1 = g.withLanesOf g1 := by rw [e1]; rfl
    have w2 : g2 = g1.withLanesOf g2 := by rw [e2]; rfl
    have w3 : g3 = g2.withLanesOf g3 := by rw [e3]; rfl
    have w4 : g4 = g3.withLanesOf g4 := by rw [e4]; rfl
    have w5 : g5 = g4.withLanesOf g5 := by rw [e5]; rfl
    have w6 : g6 = g5.withLanesOf g6 := by rw [e6]; rfl
    have w7 : g7 = g6.withLanesOf g7 := by rw [e7]; rfl
    have w8 : h = g7.withLanesOf h := by rw [hh']; rfl
    exact Group.withLanesOf_trans w1 (Group.withLanesOf_trans w2 (Group.withLanesOf_trans w3 (Group.withLanesOf_trans w4
      (Group.withLanesOf_trans w5 (Group.withLanesOf_trans w6 (Group.withLanesOf_trans w7 w8))))))


theorem listSet_self {α : Type} (l : List α) (n : Nat) (x : α) (h : l[n]? = some x) : listSet l n x = l := by
  induction l generalizing n with
  | nil => rfl
  | cons a l ih =>
    cases n with
    | zero => simp at h; simp [listSet, h]
    | succ n => simp at h; simp [listSet, ih n h]

/-- A split put back unchanged. -/
theorem Group.modSplit_self (g : Group) (ix : Nat) (f : Split → Split) (hf : ∀ sp, f sp = sp) : g.modSplit ix f = g := by
  unfold Group.modSplit
  cases h : g.split? ix with
  | none => rfl
  | some sp =>
    simp only [hf]
    unfold Group.setSplit
    unfold Group.split? at h
    split
    · rename_i e
      rw [if_pos e] at h
      obtain ⟨k, hk, rfl⟩ := Option.map_eq_some_iff.mp h
      cases g; simp_all
    · rename_i e
      rw [if_neg e] at h
      rw [listSet_self _ _ _ h]

theorem unpoison_groups (s : State) (g : Group) (rs : List PReg) (m : LaneMask) : (unpoison s g rs m).groups = s.groups := by
  unfold unpoison; split <;> rfl

theorem pipeFrom_groups (s : State) (c : Nat) (p : Option Nat) (n : Nat) : (pipeFrom s c p n).groups = s.groups := by
  unfold pipeFrom; cases p <;> rfl

/-- Two groups with one number, one core and the same batches. -/
def Alike (g h : Group) : Prop := h.gid = g.gid ∧ h.core = g.core ∧ h.batches = g.batches

theorem Alike.trans {a b c : Group} (h1 : Alike a b) (h2 : Alike b c) : Alike a c :=
  ⟨h2.1.trans h1.1, h2.2.1.trans h1.2.1, h2.2.2.trans h1.2.2⟩

theorem lnWrites_alike (x : LnIss) (lat : Nat) (act : LaneMask) (g : Group) (rs : List PReg) (vs : List (List Word)) :
    Alike g (lnWrites x lat act g rs vs) := by
  induction rs generalizing g vs with
  | nil => exact ⟨rfl, rfl, rfl⟩
  | cons r rs ih =>
    cases vs with
    | nil => exact ⟨rfl, rfl, rfl⟩
    | cons v vs =>
      refine Alike.trans ?_ (ih (lnWrite x lat act g r v) vs)
      rw [lnWrite_eq]; exact ⟨rfl, rfl, rfl⟩

theorem lnScals_alike (x : LnIss) (lat : Nat) (ws : List (Nat × Word)) (g : Group) :
    Alike g (ws.foldl (lnScal x lat) g) := by
  induction ws generalizing g with
  | nil => exact ⟨rfl, rfl, rfl⟩
  | cons w ws ih =>
    refine Alike.trans ?_ (ih (lnScal x lat g w))
    rw [lnScal_eq]; exact ⟨rfl, rfl, rfl⟩

theorem lnCommit_alike (x : LnIss) (v : LaneVals) (lat : Nat) (o : LaneOut) (g : Group) :
    Alike g (lnCommit x v lat o g) := by
  have h1 : ∀ g, Alike g (lnLanes x v lat o g) := by
    intro g
    unfold lnLanes
    cases o.pay with
    | none => exact lnWrites_alike ..
    | some w => exact (lnWrites_alike ..).trans (lnWrites_alike ..)
  have h2 : ∀ g, Alike g (lnPred x v lat o.pred g) := by
    intro g; unfold lnPred Group.putResult
    cases o.pred with
    | none => exact ⟨rfl, rfl, rfl⟩
    | some a => dsimp only; split <;> exact ⟨rfl, rfl, rfl⟩
  have h3 : ∀ g, Alike g (lnSetFlags v o.setFlags o.wrFlags g) := by
    intro g; unfold lnSetFlags; cases o.setFlags <;> exact ⟨rfl, rfl, rfl⟩
  have h4 : ∀ g, Alike g (lnRaise x v lat o.flags g) := by
    intro g; unfold lnRaise Group.raiseAt
    cases o.flags with
    | none => exact ⟨rfl, rfl, rfl⟩
    | some fs => dsimp only; split <;> exact ⟨rfl, rfl, rfl⟩
  have h6 : ∀ g, Alike g (lnEmpty x lat o.empty g) := by
    intro g; unfold lnEmpty Group.putResult
    cases o.empty with
    | false => exact ⟨rfl, rfl, rfl⟩
    | true => generalize (g.pend.any _) = c; cases c <;> exact ⟨rfl, rfl, rfl⟩
  exact (h1 g).trans ((h2 _).trans ((h3 _).trans ((h4 _).trans ((lnScals_alike x lat o.scal _).trans (h6 _)))))

/-- What a lane instruction of fixed latency leaves: `LaneDone` of its effect. -/
theorem laneDone {i : Instr} {op : Nat} {l : LaneF} {s : State} {g : Group} {b : Batch} (r : LaneReady i op l s g b)
    {o : LaneOut} {e : LaneEffect} (M : Makes (laneIssOf op l s g b) o e) :
    LaneDone (laneIssOf op l s g b) s (lnFinish (laneStart s (laneIssOf op l s g b)) (laneIssOf op l s g b)
      (plainVals (laneIssOf op l s g b)) (.out (laneStart s (laneIssOf op l s g b)) o)) g (laneLatency op) e := by
  let x := laneIssOf op l s g b
  let v := plainVals x
  let lat := laneLatency op
  have hg : s.group? g.gid = some g := by
    have h := r.issuer
    unfold issuingBatch at h
    split at h
    · rename_i gid bid _
      split at h
      · cases h
      · rename_i g' hg'
        cases hb : g'.batch? bid with
        | none => simp [hb] at h
        | some b' =>
          simp only [hb, Option.map_some, Option.some.injEq, Prod.mk.injEq] at h
          obtain ⟨rfl, rfl⟩ := h
          rw [State.group?_gid hg']; exact hg'
    · cases h
  have hxg : (laneStart s x).group? g.gid = some x.g := by
    show (s.setGroup x.g).group? g.gid = _
    rw [State.group?_setGroup]
    show (if g.gid = g.gid then _ else _) = _
    rw [if_pos rfl, hg]; rfl
  let g1 := lnCommit x v lat o x.g
  let e0 := hEntryOf x x.g g1 lat o
  let regs := dstRegs x ++ (match o.pay with
      | some _ => laneRegs x.l.a.toNat 1
      | none => [])
  let S := unpoison ((laneStart s x).setGroup g1) x.g (if o.dst = [] then [] else regs) (v.act &&& o.lanes)
  have ht : lnFinish (laneStart s x) x v (.out (laneStart s x) o) = batchNext x lat e0 S := by
    show batchNext x lat (hEntryOf x (((laneStart s x).group? g.gid).getD x.g)
      (lnCommit x v lat o (((laneStart s x).group? g.gid).getD x.g)) lat o)
      (unpoison ((laneStart s x).setGroup (lnCommit x v lat o (((laneStart s x).group? g.gid).getD x.g))) x.g
        (if o.dst = [] then [] else regs) (v.act &&& o.lanes)) = _
    rw [hxg]; rfl
  obtain ⟨hgid1, hcore1, hbat1⟩ : Alike x.g g1 := lnCommit_alike x v lat o x.g
  have hgid1 : g1.gid = g.gid := hgid1
  have hbat1 : g1.batches = g.batches := hbat1
  let F : Group → Group := fun k =>
    if b.next + 1 = b.count then
      { k.modSplit b.split fun sp => { sp with laneReady := max sp.laneReady (max b.ready (x.slot + lat)) } with
        batches := k.batches.filter fun c => c.bid != b.bid }
    else
      k.setBatch { b with next := b.next + 1, nextSlot := x.slot + 1 + x.l.stall.toNat,
                          hist := (e0 :: b.hist).take 4, served := 0, block := .none, ready := max b.ready (x.slot + lat) }
  have hFg : ∀ k, (F k).gid = k.gid := by
    intro k
    show (if b.next + 1 = b.count then _ else _ : Group).gid = _
    split
    · exact Group.modSplit_gid ..
    · rfl
  have hbn : batchNext x lat e0 S = (pipeFrom S x.g.core b.pipe (x.slot + 1)).modGroup g.gid F := rfl
  have hSg : S.groups = (s.setGroup x.g |>.setGroup g1).groups := unpoison_groups ..
  have hgrp : ∀ m, (batchNext x lat e0 S).group? m = if g.gid = m then some (F g1) else s.group? m := by
    intro m
    rw [hbn, State.group?_modGroup _ _ _ _ hFg]
    have e1 : (pipeFrom S x.g.core b.pipe (x.slot + 1)).group? m = ((s.setGroup x.g).setGroup g1).group? m := by
      simp only [State.group?, pipeFrom_groups, hSg]
    rw [e1, State.group?_setGroup, State.group?_setGroup]
    have hxgid : x.g.gid = g.gid := rfl
    rw [hgid1, hxgid]
    by_cases em : g.gid = m
    · subst em; simp [hg]
    · simp [em]
  obtain ⟨P, hP, hPs⟩ : ∃ P, S.core g.core = { s.core g.core with poison := P } ∧ ∀ p ∈ P, p ∈ (s.core g.core).poison := by
    show ∃ P, (unpoison _ _ _ _).core g.core = _ ∧ _
    unfold unpoison
    split
    · exact ⟨(s.core g.core).poison, rfl, fun _ h => h⟩
    · exact ⟨_, (State.core_modCore _ _ _ _).trans (if_pos rfl), fun _ h => (List.mem_filter.mp h).1⟩
  obtain ⟨Q, hQ⟩ : ∃ Q, (batchNext x lat e0 S).core g.core = { s.core g.core with poison := P, pipes := Q } := by
    rw [hbn]
    show ∃ Q, (pipeFrom S g.core b.pipe (x.slot + 1)).core g.core = _
    unfold pipeFrom
    cases b.pipe with
    | none => exact ⟨(s.core g.core).pipes, hP⟩
    | some n => exact ⟨_, (State.core_modCore _ _ _ _).trans ((if_pos rfl).trans (congrArg (fun k : Core =>
        { k with pipes := padSet 0 k.pipes n (x.slot + 1) }) hP))⟩
  have hrest : batchNext x lat e0 S = s.withIssueOf (batchNext x lat e0 S) := by
    have h1 : S = s.withIssueOf S := by
      show unpoison _ _ _ _ = _
      unfold S unpoison
      split <;> rfl
    have h2 : pipeFrom S x.g.core b.pipe (x.slot + 1) = s.withIssueOf (pipeFrom S x.g.core b.pipe (x.slot + 1)) := by
      unfold pipeFrom
      cases b.pipe with
      | none => exact h1
      | some n =>
        simp only [State.modCore]
        generalize S = T at h1 ⊢
        rw [h1]; rfl
    rw [hbn]
    generalize pipeFrom S x.g.core b.pipe (x.slot + 1) = T at h2 ⊢
    rw [h2]; rfl
  refine ⟨⟨F g1, ?_, ?_⟩, ?_, ?_, ?_, ?_, ?_⟩
  · rw [ht, hgrp, if_pos rfl]
  · have hr0 : ∀ w, e.dst.head? = some w → ∃ new old, e0 = .vals new old (s.now g.core / 3 + lat) (b.first + b.next) ∧
        ∀ n < 96, new.getD n 0 = g1.lane w.1 n := by
      intro w hw
      obtain ⟨hc, h102, q, qs, hq, eq⟩ := M.first w hw
      refine ⟨g1.vval q.spec, x.g.vval q.spec, ?_, fun n _ => by rw [← eq]; rfl⟩
      show hEntryOf x x.g g1 lat o = _
      unfold hEntryOf
      rw [if_neg h102]
      have hq' : dstRegs x = q :: qs := hq
      cases hk : x.sh.dst with
      | unused => simp [dstRegs, hk, fieldWrites] at hq'
      | pred a c => cases c <;> simp [dstRegs, hk, fieldWrites] at hq'
      | _ => simp only [hq', hc]; rfl
    by_cases hl : b.next + 1 = b.count
    · have hF : F g1 = { g1.modSplit b.split fun sp => { sp with laneReady := max sp.laneReady (max b.ready (x.slot + lat)) } with
          batches := (F g1).batches } := by
        show (if _ then _ else _ : Group) = _
        simp only [F, hl, if_true]
      refine lnCommit_leaves lat M r.latest r.owner (F g1) e0 _ (fun _ => rfl) hF ?_ hr0
      simp only [F, hl, if_true, batchesAfter, hbat1]
    · have hF : F g1 = { g1.modSplit b.split id with batches := (F g1).batches } := by
        have hid : g1.modSplit b.split id = g1 := Group.modSplit_self g1 b.split id fun _ => rfl
        rw [hid]
        simp only [F, hl, if_false, Group.setBatch]
      refine lnCommit_leaves lat M r.latest r.owner (F g1) e0 id (fun _ => rfl) hF ?_ hr0
      simp only [F, hl, if_false, batchesAfter, Group.setBatch, hbat1, replaceBy]
      rfl
  · intro m hm
    rw [ht, hgrp, if_neg (Ne.symm hm)]
  · intro c hc
    rw [ht, hbn]
    show (pipeFrom S g.core b.pipe (x.slot + 1)).core c = _
    have e1 : S.core c = s.core c := by
      show (unpoison _ _ _ _).core c = _
      unfold unpoison
      split
      · rfl
      · exact (State.core_modCore _ _ _ _).trans (if_neg (Ne.symm hc))
    unfold pipeFrom
    cases b.pipe with
    | none => exact e1
    | some n => exact (State.core_modCore _ _ _ _).trans ((if_neg (Ne.symm hc)).trans e1)
  · rw [ht, hQ]
  · rw [ht, hQ]; exact hPs
  · rw [ht]; exact hrest

end Sys2Proof.Machine
end

