-- ==== Sys2Proof/Laws/Memory.lean ====
section
/-! SUPPORT. Memory: the canonical form, which every operation keeps, and a byte read after a byte written. -/

namespace Sys2Proof.Machine

theorem Memory.wfFrom_le {m : Memory} {lo hi : Nat} (h : Memory.wfFrom hi m = true) (hl : lo ≤ hi) :
    Memory.wfFrom lo m = true := by
  cases m with
  | nil => rfl
  | cons c m =>
    simp only [Memory.wfFrom, Bool.and_eq_true, decide_eq_true_eq] at h ⊢
    exact ⟨⟨by omega, h.1.2⟩, h.2⟩

theorem Memory.wfFrom_cons {lo k : Nat} {v : Byte} {m : Memory} :
    Memory.wfFrom lo ((k, v) :: m) = true ↔ lo ≤ k ∧ v ≠ unlistedByte ∧ Memory.wfFrom (k + 1) m = true := by
  simp [Memory.wfFrom, and_assoc]

/-- Below its first entry, memory reads as an unlisted byte does. -/
theorem Memory.read_below {m : Memory} {lo a : Nat} (h : Memory.wfFrom lo m = true) (ha : a < lo) : m.read a = unlistedByte := by
  cases m with
  | nil => rfl
  | cons c m =>
    obtain ⟨k, v⟩ := c
    obtain ⟨hk, -, -⟩ := Memory.wfFrom_cons.1 h
    simp [Memory.read, show a < k by omega]

theorem Memory.wfFrom_write {m : Memory} {lo a : Nat} (x : Byte) (h : Memory.wfFrom lo m = true) (ha : lo ≤ a) :
    Memory.wfFrom lo (m.write a x) = true := by
  induction m generalizing lo with
  | nil =>
    unfold Memory.write
    split
    · rfl
    · exact Memory.wfFrom_cons.2 ⟨ha, ‹_›, rfl⟩
  | cons c m ih =>
    obtain ⟨k, v⟩ := c
    obtain ⟨hk, hv, hm⟩ := Memory.wfFrom_cons.1 h
    unfold Memory.write
    split
    · split
      · exact h
      · exact Memory.wfFrom_cons.2 ⟨ha, ‹_›, Memory.wfFrom_cons.2 ⟨by omega, hv, hm⟩⟩
    · split
      · split
        · exact Memory.wfFrom_le hm (by omega)
        · subst_vars; exact Memory.wfFrom_cons.2 ⟨hk, ‹_›, hm⟩
      · exact Memory.wfFrom_cons.2 ⟨hk, hv, ih hm (by omega)⟩

/-- A write keeps the canonical form. -/
theorem Memory.wf_write {m : Memory} (a : Nat) (x : Byte) (h : m.wf = true) : (m.write a x).wf = true :=
  Memory.wfFrom_write x h (Nat.zero_le a)

/-- A string of bytes written keeps the canonical form. -/
theorem Memory.wf_writeBytes {m : Memory} (a : Nat) (bs : List Byte) (h : m.wf = true) : (m.writeBytes a bs).wf = true := by
  induction bs generalizing m a with
  | nil => exact h
  | cons b bs ih => exact ih (a + 1) (Memory.wf_write a b h)

theorem Memory.wfFrom_filter {m : Memory} {lo : Nat} (p : Host.Cell → Bool) (h : Memory.wfFrom lo m = true) :
    Memory.wfFrom lo (m.filter p) = true := by
  induction m generalizing lo with
  | nil => rfl
  | cons c m ih =>
    obtain ⟨k, v⟩ := c
    obtain ⟨hk, hv, hm⟩ := Memory.wfFrom_cons.1 h
    rw [List.filter_cons]
    split
    · exact Memory.wfFrom_cons.2 ⟨hk, hv, ih hm⟩
    · exact Memory.wfFrom_le (ih hm) (by omega)

/-- Entries taken out leave the canonical form. -/
theorem Memory.wf_filter {m : Memory} (p : Host.Cell → Bool) (h : m.wf = true) : Memory.wf (m.filter p) = true :=
  Memory.wfFrom_filter p h

/-- A byte written is read back. -/
theorem Memory.read_write_self {m : Memory} {lo : Nat} (a : Nat) (x : Byte) (h : Memory.wfFrom lo m = true) :
    (m.write a x).read a = x := by
  induction m generalizing lo with
  | nil =>
    unfold Memory.write
    split
    · exact Eq.symm ‹_›
    · simp [Memory.read]
  | cons c m ih =>
    obtain ⟨k, v⟩ := c
    obtain ⟨hk, hv, hm⟩ := Memory.wfFrom_cons.1 h
    unfold Memory.write
    split
    · split
      · simp [Memory.read, *]
      · simp [Memory.read]
    · split
      · split
        · subst_vars; exact Memory.read_below hm (by omega)
        · simp [Memory.read]
      · simp [Memory.read, ih hm, *]

/-- A write leaves every other byte. -/
theorem Memory.read_write_other {m : Memory} {lo a b : Nat} (x : Byte) (h : Memory.wfFrom lo m = true) (hb : b ≠ a) :
    (m.write a x).read b = m.read b := by
  induction m generalizing lo with
  | nil =>
    unfold Memory.write
    split
    · rfl
    · simp [Memory.read, hb]
  | cons c m ih =>
    obtain ⟨k, v⟩ := c
    obtain ⟨hk, hv, hm⟩ := Memory.wfFrom_cons.1 h
    unfold Memory.write
    split
    · split
      · rfl
      · have : b < a → b < k := fun _ => by omega
        by_cases hba : b < a <;> simp [Memory.read, hb, hba, this]
    · split
      · subst_vars
        split
        · by_cases hbk : b < k
          · rw [Memory.read_below hm (by omega)]; simp [Memory.read, hbk]
          · simp [Memory.read, hb, hbk]
        · simp [Memory.read, hb]
      · simp [Memory.read, ih hm]

/-! ### The operations on a state -/

theorem State.memOk_putBytes (s : State) (l : Loc) (bs : List Byte) (h : s.memOk = true) : (s.putBytes l bs).memOk = true :=
  Memory.wf_writeBytes l.key bs h

theorem State.memOk_clearBytes (s : State) (l : Loc) (n : Nat) (h : s.memOk = true) : (s.clearBytes l n).memOk = true :=
  Memory.wf_filter _ h

/-- Bytes written one after another keep the canonical form. -/
theorem State.memOk_foldl_write {α : Type} (l : List α) (at_ : α → Nat) (val : α → Byte) (s : State) (h : s.memOk = true) :
    (l.foldl (fun st c => { st with mem := st.mem.write (at_ c) (val c) }) s).memOk = true := by
  induction l generalizing s with
  | nil => exact h
  | cons c l ih => exact ih _ (Memory.wf_write (at_ c) (val c) h)

theorem State.memOk_copyBytes (s : State) (src dst : Loc) (n : Nat) (h : s.memOk = true) :
    (s.copyBytes src dst n).memOk = true :=
  State.memOk_foldl_write _ _ _ _ (State.memOk_clearBytes s dst n h)

/-- Memory right after reset is canonical. -/
theorem State.memOk_reset : State.reset.memOk = true := rfl

end Sys2Proof.Machine
end

