-- ==== Sys2Proof/Laws/PerInstr.lean ====
section
/-! SUPPORT. How many words an instruction has, constructor by constructor: one in the scalar stream (R59), three in the lane
code (R62), none for a step of the device. -/

namespace Sys2Proof.Laws.Words

open Sys2Proof

/-- An instruction has no word, one or three. -/
def Statement (i : Instr) : Prop := (encode i).length = 0 ∨ (encode i).length = 1 ∨ (encode i).length = 3

theorem sadd (d : BitVec 6) (a : BitVec 7) (b : BitVec 7) (t : BitVec 2) : Statement (.sadd d a b t) := Or.inr (Or.inl rfl)
theorem saddI64 (d : BitVec 6) (a : BitVec 7) (b : BitVec 7) (t : BitVec 2) : Statement (.saddI64 d a b t) := Or.inr (Or.inl rfl)
theorem saddSat (d : BitVec 6) (a : BitVec 7) (b : BitVec 7) (t : BitVec 2) : Statement (.saddSat d a b t) := Or.inr (Or.inl rfl)
theorem saddUsat (d : BitVec 6) (a : BitVec 7) (b : BitVec 7) (t : BitVec 2) : Statement (.saddUsat d a b t) := Or.inr (Or.inl rfl)
theorem ssub (d : BitVec 6) (a : BitVec 7) (b : BitVec 7) (t : BitVec 2) : Statement (.ssub d a b t) := Or.inr (Or.inl rfl)
theorem ssubI64 (d : BitVec 6) (a : BitVec 7) (b : BitVec 7) (t : BitVec 2) : Statement (.ssubI64 d a b t) := Or.inr (Or.inl rfl)
theorem ssubSat (d : BitVec 6) (a : BitVec 7) (b : BitVec 7) (t : BitVec 2) : Statement (.ssubSat d a b t) := Or.inr (Or.inl rfl)
theorem ssubUsat (d : BitVec 6) (a : BitVec 7) (b : BitVec 7) (t : BitVec 2) : Statement (.ssubUsat d a b t) := Or.inr (Or.inl rfl)
theorem smul (d : BitVec 6) (a : BitVec 7) (b : BitVec 7) (t : BitVec 2) : Statement (.smul d a b t) := Or.inr (Or.inl rfl)
theorem smulh (d : BitVec 6) (a : BitVec 7) (b : BitVec 7) (t : BitVec 2) : Statement (.smulh d a b t) := Or.inr (Or.inl rfl)
theorem smulhZ32 (d : BitVec 6) (a : BitVec 7) (b : BitVec 7) (t : BitVec 2) : Statement (.smulhZ32 d a b t) := Or.inr (Or.inl rfl)
theorem sdiv (d : BitVec 6) (a : BitVec 7) (b : BitVec 7) (t : BitVec 2) : Statement (.sdiv d a b t) := Or.inr (Or.inl rfl)
theorem sdivZ32 (d : BitVec 6) (a : BitVec 7) (b : BitVec 7) (t : BitVec 2) : Statement (.sdivZ32 d a b t) := Or.inr (Or.inl rfl)
theorem sdivRem (d : BitVec 6) (a : BitVec 7) (b : BitVec 7) (t : BitVec 2) : Statement (.sdivRem d a b t) := Or.inr (Or.inl rfl)
theorem sdivRemZ32 (d : BitVec 6) (a : BitVec 7) (b : BitVec 7) (t : BitVec 2) : Statement (.sdivRemZ32 d a b t) := Or.inr (Or.inl rfl)
theorem sdivResult (core unit : Nat) : Statement (.sdivResult core unit) := Or.inl rfl
theorem sand (d : BitVec 6) (a : BitVec 7) (b : BitVec 7) (t : BitVec 2) : Statement (.sand d a b t) := Or.inr (Or.inl rfl)
theorem sandNot (d : BitVec 6) (a : BitVec 7) (b : BitVec 7) (t : BitVec 2) : Statement (.sandNot d a b t) := Or.inr (Or.inl rfl)
theorem sor (d : BitVec 6) (a : BitVec 7) (b : BitVec 7) (t : BitVec 2) : Statement (.sor d a b t) := Or.inr (Or.inl rfl)
theorem sorNot (d : BitVec 6) (a : BitVec 7) (b : BitVec 7) (t : BitVec 2) : Statement (.sorNot d a b t) := Or.inr (Or.inl rfl)
theorem sxor (d : BitVec 6) (a : BitVec 7) (b : BitVec 7) (t : BitVec 2) : Statement (.sxor d a b t) := Or.inr (Or.inl rfl)
theorem sxorNot (d : BitVec 6) (a : BitVec 7) (b : BitVec 7) (t : BitVec 2) : Statement (.sxorNot d a b t) := Or.inr (Or.inl rfl)
theorem sshl (d : BitVec 6) (a : BitVec 7) (b : BitVec 7) (t : BitVec 2) : Statement (.sshl d a b t) := Or.inr (Or.inl rfl)
theorem sshlI64 (d : BitVec 6) (a : BitVec 7) (b : BitVec 7) (t : BitVec 2) : Statement (.sshlI64 d a b t) := Or.inr (Or.inl rfl)
theorem sshr (d : BitVec 6) (a : BitVec 7) (b : BitVec 7) (t : BitVec 2) : Statement (.sshr d a b t) := Or.inr (Or.inl rfl)
theorem sshrI64 (d : BitVec 6) (a : BitVec 7) (b : BitVec 7) (t : BitVec 2) : Statement (.sshrI64 d a b t) := Or.inr (Or.inl rfl)
theorem ssar (d : BitVec 6) (a : BitVec 7) (b : BitVec 7) (t : BitVec 2) : Statement (.ssar d a b t) := Or.inr (Or.inl rfl)
theorem ssarI64 (d : BitVec 6) (a : BitVec 7) (b : BitVec 7) (t : BitVec 2) : Statement (.ssarI64 d a b t) := Or.inr (Or.inl rfl)
theorem smin (d : BitVec 6) (a : BitVec 7) (b : BitVec 7) (t : BitVec 2) : Statement (.smin d a b t) := Or.inr (Or.inl rfl)
theorem sminZ32 (d : BitVec 6) (a : BitVec 7) (b : BitVec 7) (t : BitVec 2) : Statement (.sminZ32 d a b t) := Or.inr (Or.inl rfl)
theorem smax (d : BitVec 6) (a : BitVec 7) (b : BitVec 7) (t : BitVec 2) : Statement (.smax d a b t) := Or.inr (Or.inl rfl)
theorem smaxZ32 (d : BitVec 6) (a : BitVec 7) (b : BitVec 7) (t : BitVec 2) : Statement (.smaxZ32 d a b t) := Or.inr (Or.inl rfl)
theorem ssel (d : BitVec 6) (a : BitVec 7) (b : BitVec 7) (t : BitVec 2) : Statement (.ssel d a b t) := Or.inr (Or.inl rfl)
theorem scmpEq (d : BitVec 6) (a : BitVec 7) (b : BitVec 7) (t : BitVec 2) : Statement (.scmpEq d a b t) := Or.inr (Or.inl rfl)
theorem scmpNe (d : BitVec 6) (a : BitVec 7) (b : BitVec 7) (t : BitVec 2) : Statement (.scmpNe d a b t) := Or.inr (Or.inl rfl)
theorem scmpLt (d : BitVec 6) (a : BitVec 7) (b : BitVec 7) (t : BitVec 2) : Statement (.scmpLt d a b t) := Or.inr (Or.inl rfl)
theorem scmpLe (d : BitVec 6) (a : BitVec 7) (b : BitVec 7) (t : BitVec 2) : Statement (.scmpLe d a b t) := Or.inr (Or.inl rfl)
theorem scmpUlt (d : BitVec 6) (a : BitVec 7) (b : BitVec 7) (t : BitVec 2) : Statement (.scmpUlt d a b t) := Or.inr (Or.inl rfl)
theorem scmpUle (d : BitVec 6) (a : BitVec 7) (b : BitVec 7) (t : BitVec 2) : Statement (.scmpUle d a b t) := Or.inr (Or.inl rfl)
theorem smov (d : BitVec 6) (a : BitVec 7) (t : BitVec 2) : Statement (.smov d a t) := Or.inr (Or.inl rfl)
theorem smovI64 (d : BitVec 6) (a : BitVec 7) (t : BitVec 2) : Statement (.smovI64 d a t) := Or.inr (Or.inl rfl)
theorem spopc (d : BitVec 6) (a : BitVec 7) (t : BitVec 2) : Statement (.spopc d a t) := Or.inr (Or.inl rfl)
theorem sclz (d : BitVec 6) (a : BitVec 7) (t : BitVec 2) : Statement (.sclz d a t) := Or.inr (Or.inl rfl)
theorem smovi (d : BitVec 6) (i : BitVec 8) (t : BitVec 2) : Statement (.smovi d i t) := Or.inr (Or.inl rfl)
theorem smoviZ (d : BitVec 6) (i : BitVec 8) (t : BitVec 2) : Statement (.smoviZ d i t) := Or.inr (Or.inl rfl)
theorem smoviSh8 (d : BitVec 6) (i : BitVec 8) (t : BitVec 2) : Statement (.smoviSh8 d i t) := Or.inr (Or.inl rfl)
theorem saddi (d : BitVec 6) (a : BitVec 7) (i : BitVec 8) (t : BitVec 2) : Statement (.saddi d a i t) := Or.inr (Or.inl rfl)
theorem saddiI64 (d : BitVec 6) (a : BitVec 7) (i : BitVec 8) (t : BitVec 2) : Statement (.saddiI64 d a i t) := Or.inr (Or.inl rfl)
theorem sshli (d : BitVec 6) (a : BitVec 7) (i : BitVec 8) (t : BitVec 2) : Statement (.sshli d a i t) := Or.inr (Or.inl rfl)
theorem sshliLsr (d : BitVec 6) (a : BitVec 7) (i : BitVec 8) (t : BitVec 2) : Statement (.sshliLsr d a i t) := Or.inr (Or.inl rfl)
theorem sshliAsr (d : BitVec 6) (a : BitVec 7) (i : BitVec 8) (t : BitVec 2) : Statement (.sshliAsr d a i t) := Or.inr (Or.inl rfl)
theorem brZ (a : BitVec 7) (x : BitVec 14) (t : BitVec 2) : Statement (.brZ a x t) := Or.inr (Or.inl rfl)
theorem brNz (a : BitVec 7) (x : BitVec 14) (t : BitVec 2) : Statement (.brNz a x t) := Or.inr (Or.inl rfl)
theorem brLt (a : BitVec 7) (x : BitVec 14) (t : BitVec 2) : Statement (.brLt a x t) := Or.inr (Or.inl rfl)
theorem brGe (a : BitVec 7) (x : BitVec 14) (t : BitVec 2) : Statement (.brGe a x t) := Or.inr (Or.inl rfl)
theorem brGt (a : BitVec 7) (x : BitVec 14) (t : BitVec 2) : Statement (.brGt a x t) := Or.inr (Or.inl rfl)
theorem brLe (a : BitVec 7) (x : BitVec 14) (t : BitVec 2) : Statement (.brLe a x t) := Or.inr (Or.inl rfl)
theorem brMz (x : BitVec 14) (t : BitVec 2) : Statement (.brMz x t) := Or.inr (Or.inl rfl)
theorem brMnz (x : BitVec 14) (t : BitVec 2) : Statement (.brMnz x t) := Or.inr (Or.inl rfl)
theorem jmp (x : BitVec 14) (t : BitVec 2) : Statement (.jmp x t) := Or.inr (Or.inl rfl)
theorem jmpInd (a : BitVec 7) (t : BitVec 2) : Statement (.jmpInd a t) := Or.inr (Or.inl rfl)
theorem call (x : BitVec 14) (t : BitVec 2) : Statement (.call x t) := Or.inr (Or.inl rfl)
theorem callInd (a : BitVec 7) (t : BitVec 2) : Statement (.callInd a t) := Or.inr (Or.inl rfl)
theorem loop (a : BitVec 7) (x : BitVec 14) (t : BitVec 2) : Statement (.loop a x t) := Or.inr (Or.inl rfl)
theorem split (a : BitVec 7) (x : BitVec 14) (t : BitVec 2) : Statement (.split a x t) := Or.inr (Or.inl rfl)
theorem splitNot (a : BitVec 7) (x : BitVec 14) (t : BitVec 2) : Statement (.splitNot a x t) := Or.inr (Or.inl rfl)
theorem join (a : BitVec 7) (t : BitVec 2) : Statement (.join a t) := Or.inr (Or.inl rfl)
theorem joinAll (t : BitVec 2) : Statement (.joinAll t) := Or.inr (Or.inl rfl)
theorem joinMerge (gid : Nat) : Statement (.joinMerge gid) := Or.inl rfl
theorem vrun (c : BitVec 4) (l : BitVec 20) (t : BitVec 2) : Statement (.vrun c l t) := Or.inr (Or.inl rfl)
theorem maskpMov (d : BitVec 6) (b : BitVec 7) (t : BitVec 2) : Statement (.maskpMov d b t) := Or.inr (Or.inl rfl)
theorem maskpAnd (d : BitVec 6) (a : BitVec 7) (b : BitVec 7) (t : BitVec 2) : Statement (.maskpAnd d a b t) := Or.inr (Or.inl rfl)
theorem maskpAndn (d : BitVec 6) (a : BitVec 7) (b : BitVec 7) (t : BitVec 2) : Statement (.maskpAndn d a b t) := Or.inr (Or.inl rfl)
theorem maskpOr (d : BitVec 6) (a : BitVec 7) (b : BitVec 7) (t : BitVec 2) : Statement (.maskpOr d a b t) := Or.inr (Or.inl rfl)
theorem waitc (d : BitVec 6) (i : BitVec 8) (t : BitVec 2) : Statement (.waitc d i t) := Or.inr (Or.inl rfl)
theorem sld (d : BitVec 6) (a : BitVec 7) (b : BitVec 7) (f : BitVec 4) (t : BitVec 2) : Statement (.sld d a b f t) := Or.inr (Or.inl rfl)
theorem sst (d : BitVec 6) (a : BitVec 7) (b : BitVec 7) (f : BitVec 4) (t : BitVec 2) : Statement (.sst d a b f t) := Or.inr (Or.inl rfl)
theorem satom (d : BitVec 6) (a : BitVec 7) (b : BitVec 7) (f : BitVec 4) (t : BitVec 2) : Statement (.satom d a b f t) := Or.inr (Or.inl rfl)
theorem fence (i : BitVec 8) (t : BitVec 2) : Statement (.fence i t) := Or.inr (Or.inl rfl)
theorem fenceLd (i : BitVec 8) (t : BitVec 2) : Statement (.fenceLd i t) := Or.inr (Or.inl rfl)
theorem fenceSt (i : BitVec 8) (t : BitVec 2) : Statement (.fenceSt i t) := Or.inr (Or.inl rfl)
theorem fenceComplete (gid sp : Nat) : Statement (.fenceComplete gid sp) := Or.inl rfl
theorem bar (i : BitVec 8) (t : BitVec 2) : Statement (.bar i t) := Or.inr (Or.inl rfl)
theorem barRelease (team b : Nat) : Statement (.barRelease team b) := Or.inl rfl
theorem bcopy (d : BitVec 6) (a : BitVec 7) (b : BitVec 7) (t : BitVec 2) : Statement (.bcopy d a b t) := Or.inr (Or.inl rfl)
theorem bcopyIl4 (d : BitVec 6) (a : BitVec 7) (b : BitVec 7) (t : BitVec 2) : Statement (.bcopyIl4 d a b t) := Or.inr (Or.inl rfl)
theorem copyAdmit (id : Nat) : Statement (.copyAdmit id) := Or.inl rfl
theorem copyPortionTake (id : Nat) : Statement (.copyPortionTake id) := Or.inl rfl
theorem porterDelivery (id off len : Nat) (out : LineOut) : Statement (.porterDelivery id off len out) := Or.inl rfl
theorem panarm (d : BitVec 6) (a : BitVec 7) (t : BitVec 2) : Statement (.panarm d a t) := Or.inr (Or.inl rfl)
theorem panrel (i : BitVec 8) (t : BitVec 2) : Statement (.panrel i t) := Or.inr (Or.inl rfl)
theorem panrelWait (i : BitVec 8) (t : BitVec 2) : Statement (.panrelWait i t) := Or.inr (Or.inl rfl)
theorem pannierReadEnd (id : Nat) : Statement (.pannierReadEnd id) := Or.inl rfl
theorem mloadb (n : BitVec 2) (a : BitVec 7) (b : BitVec 7) (f : BitVec 2) (t : BitVec 2) : Statement (.mloadb n a b f t) := Or.inr (Or.inl rfl)
theorem slotLoad (id target : Nat) (out : LineOut) : Statement (.slotLoad id target out) := Or.inl rfl
theorem mmas (n : BitVec 2) (a : BitVec 7) (f : BitVec 2) (t : BitVec 2) : Statement (.mmas n a f t) := Or.inr (Or.inl rfl)
theorem accz (a : BitVec 7) (b : BitVec 7) (t : BitVec 2) : Statement (.accz a b t) := Or.inr (Or.inl rfl)
theorem accst (d : BitVec 6) (a : BitVec 7) (b : BitVec 7) (t : BitVec 2) : Statement (.accst d a b t) := Or.inr (Or.inl rfl)
theorem engineAdmit (id : Nat) : Statement (.engineAdmit id) := Or.inl rfl
theorem tokenGrant (core : Nat) : Statement (.tokenGrant core) := Or.inl rfl
theorem passStreamStart (core : Nat) : Statement (.passStreamStart core) := Or.inl rfl
theorem accRowUpdate (core : Nat) : Statement (.accRowUpdate core) := Or.inl rfl
theorem engineComplete (id : Nat) : Statement (.engineComplete id) := Or.inl rfl
theorem solicit (d : BitVec 6) (a : BitVec 7) (b : BitVec 7) (f : BitVec 4) (t : BitVec 2) : Statement (.solicit d a b f t) := Or.inr (Or.inl rfl)
theorem census (d : BitVec 6) (a : BitVec 7) (t : BitVec 2) : Statement (.census d a t) := Or.inr (Or.inl rfl)
theorem respond (a : BitVec 7) (t : BitVec 2) : Statement (.respond a t) := Or.inr (Or.inl rfl)
theorem markput (a : BitVec 7) (b : BitVec 7) (t : BitVec 2) : Statement (.markput a b t) := Or.inr (Or.inl rfl)
theorem markdrop (a : BitVec 7) (b : BitVec 7) (t : BitVec 2) : Statement (.markdrop a b t) := Or.inr (Or.inl rfl)
theorem markmove (d : BitVec 6) (a : BitVec 7) (b : BitVec 7) (t : BitVec 2) : Statement (.markmove d a b t) := Or.inr (Or.inl rfl)
theorem moveInstall (id : Nat) : Statement (.moveInstall id) := Or.inl rfl
theorem moveAck (id : Nat) : Statement (.moveAck id) := Or.inl rfl
theorem moveForward (id : Nat) : Statement (.moveForward id) := Or.inl rfl
theorem moveRelease (id : Nat) : Statement (.moveRelease id) := Or.inl rfl
theorem solicitResolve (id : Nat) : Statement (.solicitResolve id) := Or.inl rfl
theorem censusReport (id : Nat) : Statement (.censusReport id) := Or.inl rfl
theorem responderStart (core vd : Nat) : Statement (.responderStart core vd) := Or.inl rfl
theorem responderComplete (gid : Nat) : Statement (.responderComplete gid) := Or.inl rfl
theorem qpush (d : BitVec 6) (a : BitVec 7) (b : BitVec 7) (f : BitVec 4) (t : BitVec 2) : Statement (.qpush d a b f t) := Or.inr (Or.inl rfl)
theorem qpushPublish (id : Nat) : Statement (.qpushPublish id) := Or.inl rfl
theorem cancelUnit (a : BitVec 7) (t : BitVec 2) : Statement (.cancelUnit a t) := Or.inr (Or.inl rfl)
theorem cancelLaunch (a : BitVec 7) (t : BitVec 2) : Statement (.cancelLaunch a t) := Or.inr (Or.inl rfl)
theorem cancelGraph (a : BitVec 7) (t : BitVec 2) : Statement (.cancelGraph a t) := Or.inr (Or.inl rfl)
theorem cancelPhase (a : BitVec 7) (t : BitVec 2) : Statement (.cancelPhase a t) := Or.inr (Or.inl rfl)
theorem cancelJob (a : BitVec 7) (t : BitVec 2) : Statement (.cancelJob a t) := Or.inr (Or.inl rfl)
theorem ctrrd (d : BitVec 6) (a : BitVec 7) (t : BitVec 2) : Statement (.ctrrd d a t) := Or.inr (Or.inl rfl)
theorem regroup (a : BitVec 7) (b : BitVec 7) (t : BitVec 2) : Statement (.regroup a b t) := Or.inr (Or.inl rfl)
theorem setfmt (a : BitVec 7) (t : BitVec 2) : Statement (.setfmt a t) := Or.inr (Or.inl rfl)
theorem setfmtRnd (i : BitVec 8) (t : BitVec 2) : Statement (.setfmtRnd i t) := Or.inr (Or.inl rfl)
theorem setfmtFtz (i : BitVec 8) (t : BitVec 2) : Statement (.setfmtFtz i t) := Or.inr (Or.inl rfl)
theorem setfmtAtype (i : BitVec 8) (t : BitVec 2) : Statement (.setfmtAtype i t) := Or.inr (Or.inl rfl)
theorem setfmtBtype (i : BitVec 8) (t : BitVec 2) : Statement (.setfmtBtype i t) := Or.inr (Or.inl rfl)
theorem setfmtSmode (i : BitVec 8) (t : BitVec 2) : Statement (.setfmtSmode i t) := Or.inr (Or.inl rfl)
theorem getfmt (d : BitVec 6) (t : BitVec 2) : Statement (.getfmt d t) := Or.inr (Or.inl rfl)
theorem rdsr (d : BitVec 6) (i : BitVec 8) (t : BitVec 2) : Statement (.rdsr d i t) := Or.inr (Or.inl rfl)
theorem wrsr (a : BitVec 7) (i : BitVec 8) (t : BitVec 2) : Statement (.wrsr a i t) := Or.inr (Or.inl rfl)
theorem trap (i : BitVec 8) (t : BitVec 2) : Statement (.trap i t) := Or.inr (Or.inl rfl)
theorem trapVal (a : BitVec 7) (i : BitVec 8) (t : BitVec 2) : Statement (.trapVal a i t) := Or.inr (Or.inl rfl)
theorem waitn (d : BitVec 6) (a : BitVec 7) (t : BitVec 2) : Statement (.waitn d a t) := Or.inr (Or.inl rfl)
theorem savegS (d : BitVec 6) (a : BitVec 7) (t : BitVec 2) : Statement (.savegS d a t) := Or.inr (Or.inl rfl)
theorem savegV (d : BitVec 6) (a : BitVec 7) (v : BitVec 2) (t : BitVec 2) : Statement (.savegV d a v t) := Or.inr (Or.inl rfl)
theorem savegO (d : BitVec 6) (a : BitVec 7) (t : BitVec 2) : Statement (.savegO d a t) := Or.inr (Or.inl rfl)
theorem savegP (a : BitVec 7) (t : BitVec 2) : Statement (.savegP a t) := Or.inr (Or.inl rfl)
theorem loadgS (d : BitVec 6) (a : BitVec 7) (t : BitVec 2) : Statement (.loadgS d a t) := Or.inr (Or.inl rfl)
theorem loadgV (d : BitVec 6) (a : BitVec 7) (v : BitVec 2) (t : BitVec 2) : Statement (.loadgV d a v t) := Or.inr (Or.inl rfl)
theorem loadgO (d : BitVec 6) (a : BitVec 7) (t : BitVec 2) : Statement (.loadgO d a t) := Or.inr (Or.inl rfl)
theorem loadgP (a : BitVec 7) (t : BitVec 2) : Statement (.loadgP a t) := Or.inr (Or.inl rfl)
theorem tlbinv (a : BitVec 7) (b : BitVec 7) (t : BitVec 2) : Statement (.tlbinv a b t) := Or.inr (Or.inl rfl)
theorem tlbinvAll (t : BitVec 2) : Statement (.tlbinvAll t) := Or.inr (Or.inl rfl)
theorem ret (t : BitVec 2) : Statement (.ret t) := Or.inr (Or.inl rfl)
theorem exit (t : BitVec 2) : Statement (.exit t) := Or.inr (Or.inl rfl)
theorem yield (t : BitVec 2) : Statement (.yield t) := Or.inr (Or.inl rfl)
theorem ydone (t : BitVec 2) : Statement (.ydone t) := Or.inr (Or.inl rfl)
theorem vsync (t : BitVec 2) : Statement (.vsync t) := Or.inr (Or.inl rfl)
theorem nop (h : BitVec 24) (t : BitVec 2) : Statement (.nop h t) := Or.inr (Or.inl rfl)
theorem vadd (l : LaneF) : Statement (.vadd l) := Or.inr (Or.inr rfl)
theorem vsub (l : LaneF) : Statement (.vsub l) := Or.inr (Or.inr rfl)
theorem vaddc (l : LaneF) : Statement (.vaddc l) := Or.inr (Or.inr rfl)
theorem vmul (l : LaneF) : Statement (.vmul l) := Or.inr (Or.inr rfl)
theorem vmulh (l : LaneF) : Statement (.vmulh l) := Or.inr (Or.inr rfl)
theorem vmad (l : LaneF) : Statement (.vmad l) := Or.inr (Or.inr rfl)
theorem vmin (l : LaneF) : Statement (.vmin l) := Or.inr (Or.inr rfl)
theorem vmax (l : LaneF) : Statement (.vmax l) := Or.inr (Or.inr rfl)
theorem vabs (l : LaneF) : Statement (.vabs l) := Or.inr (Or.inr rfl)
theorem vneg (l : LaneF) : Statement (.vneg l) := Or.inr (Or.inr rfl)
theorem vand (l : LaneF) : Statement (.vand l) := Or.inr (Or.inr rfl)
theorem vor (l : LaneF) : Statement (.vor l) := Or.inr (Or.inr rfl)
theorem vxor (l : LaneF) : Statement (.vxor l) := Or.inr (Or.inr rfl)
theorem vnot (l : LaneF) : Statement (.vnot l) := Or.inr (Or.inr rfl)
theorem vshl (l : LaneF) : Statement (.vshl l) := Or.inr (Or.inr rfl)
theorem vshr (l : LaneF) : Statement (.vshr l) := Or.inr (Or.inr rfl)
theorem vsar (l : LaneF) : Statement (.vsar l) := Or.inr (Or.inr rfl)
theorem vclz (l : LaneF) : Statement (.vclz l) := Or.inr (Or.inr rfl)
theorem vpopc (l : LaneF) : Statement (.vpopc l) := Or.inr (Or.inr rfl)
theorem vbrev (l : LaneF) : Statement (.vbrev l) := Or.inr (Or.inr rfl)
theorem vbfe (l : LaneF) : Statement (.vbfe l) := Or.inr (Or.inr rfl)
theorem vbfi (l : LaneF) : Statement (.vbfi l) := Or.inr (Or.inr rfl)
theorem vperm (l : LaneF) : Statement (.vperm l) := Or.inr (Or.inr rfl)
theorem vsel (l : LaneF) : Statement (.vsel l) := Or.inr (Or.inr rfl)
theorem vmov (l : LaneF) : Statement (.vmov l) := Or.inr (Or.inr rfl)
theorem vcmp (l : LaneF) : Statement (.vcmp l) := Or.inr (Or.inr rfl)
theorem pand (l : LaneF) : Statement (.pand l) := Or.inr (Or.inr rfl)
theorem por (l : LaneF) : Statement (.por l) := Or.inr (Or.inr rfl)
theorem pxor (l : LaneF) : Statement (.pxor l) := Or.inr (Or.inr rfl)
theorem pnot (l : LaneF) : Statement (.pnot l) := Or.inr (Or.inr rfl)
theorem pmov (l : LaneF) : Statement (.pmov l) := Or.inr (Or.inr rfl)
theorem pset (l : LaneF) : Statement (.pset l) := Or.inr (Or.inr rfl)
theorem psetMask (l : LaneF) : Statement (.psetMask l) := Or.inr (Or.inr rfl)
theorem vshfl (l : LaneF) : Statement (.vshfl l) := Or.inr (Or.inr rfl)
theorem vbcast (l : LaneF) : Statement (.vbcast l) := Or.inr (Or.inr rfl)
theorem vred (l : LaneF) : Statement (.vred l) := Or.inr (Or.inr rfl)
theorem vscan (l : LaneF) : Statement (.vscan l) := Or.inr (Or.inr rfl)
theorem vvote (l : LaneF) : Statement (.vvote l) := Or.inr (Or.inr rfl)
theorem vcmpx (l : LaneF) : Statement (.vcmpx l) := Or.inr (Or.inr rfl)
theorem vlaneid (l : LaneF) : Statement (.vlaneid l) := Or.inr (Or.inr rfl)
theorem vfadd (l : LaneF) : Statement (.vfadd l) := Or.inr (Or.inr rfl)
theorem vfsub (l : LaneF) : Statement (.vfsub l) := Or.inr (Or.inr rfl)
theorem vfmul (l : LaneF) : Statement (.vfmul l) := Or.inr (Or.inr rfl)
theorem vfma (l : LaneF) : Statement (.vfma l) := Or.inr (Or.inr rfl)
theorem vfmin (l : LaneF) : Statement (.vfmin l) := Or.inr (Or.inr rfl)
theorem vfmax (l : LaneF) : Statement (.vfmax l) := Or.inr (Or.inr rfl)
theorem vfabs (l : LaneF) : Statement (.vfabs l) := Or.inr (Or.inr rfl)
theorem vfneg (l : LaneF) : Statement (.vfneg l) := Or.inr (Or.inr rfl)
theorem vfcmp (l : LaneF) : Statement (.vfcmp l) := Or.inr (Or.inr rfl)
theorem vfclass (l : LaneF) : Statement (.vfclass l) := Or.inr (Or.inr rfl)
theorem vrcp (l : LaneF) : Statement (.vrcp l) := Or.inr (Or.inr rfl)
theorem vrsq (l : LaneF) : Statement (.vrsq l) := Or.inr (Or.inr rfl)
theorem vsqrt (l : LaneF) : Statement (.vsqrt l) := Or.inr (Or.inr rfl)
theorem vexp2 (l : LaneF) : Statement (.vexp2 l) := Or.inr (Or.inr rfl)
theorem vlog2 (l : LaneF) : Statement (.vlog2 l) := Or.inr (Or.inr rfl)
theorem vfrnd (l : LaneF) : Statement (.vfrnd l) := Or.inr (Or.inr rfl)
theorem vcvt (l : LaneF) : Statement (.vcvt l) := Or.inr (Or.inr rfl)
theorem vpack (l : LaneF) : Statement (.vpack l) := Or.inr (Or.inr rfl)
theorem vunpk (l : LaneF) : Statement (.vunpk l) := Or.inr (Or.inr rfl)
theorem vbxdec (l : LaneF) : Statement (.vbxdec l) := Or.inr (Or.inr rfl)
theorem vbxenc (l : LaneF) : Statement (.vbxenc l) := Or.inr (Or.inr rfl)
theorem vflagsRd (l : LaneF) : Statement (.vflagsRd l) := Or.inr (Or.inr rfl)
theorem vflagsClr (l : LaneF) : Statement (.vflagsClr l) := Or.inr (Or.inr rfl)
theorem vflagsRdclr (l : LaneF) : Statement (.vflagsRdclr l) := Or.inr (Or.inr rfl)
theorem vflagsWr (l : LaneF) : Statement (.vflagsWr l) := Or.inr (Or.inr rfl)
theorem vld (l : LaneF) : Statement (.vld l) := Or.inr (Or.inr rfl)
theorem vst (l : LaneF) : Statement (.vst l) := Or.inr (Or.inr rfl)
theorem vlds (l : LaneF) : Statement (.vlds l) := Or.inr (Or.inr rfl)
theorem vsts (l : LaneF) : Statement (.vsts l) := Or.inr (Or.inr rfl)
theorem vatom (l : LaneF) : Statement (.vatom l) := Or.inr (Or.inr rfl)
theorem lcopy (l : LaneF) : Statement (.lcopy l) := Or.inr (Or.inr rfl)
theorem vspawn (l : LaneF) : Statement (.vspawn l) := Or.inr (Or.inr rfl)
theorem mma (l : LaneF) : Statement (.mma l) := Or.inr (Or.inr rfl)
theorem mmab (l : LaneF) : Statement (.mmab l) := Or.inr (Or.inr rfl)
theorem accrd (l : LaneF) : Statement (.accrd l) := Or.inr (Or.inr rfl)
theorem accwr (l : LaneF) : Statement (.accwr l) := Or.inr (Or.inr rfl)
theorem laneHint (op : BitVec 4) (l : LaneF) : Statement (.laneHint op l) := Or.inr (Or.inr rfl)
theorem batchStart (core pipe : Nat) : Statement (.batchStart core pipe) := Or.inl rfl
theorem batchResume (gid bid : Nat) : Statement (.batchResume gid bid) := Or.inl rfl
theorem feAccessServe (id : Nat) : Statement (.feAccessServe id) := Or.inl rfl
theorem loadComplete (id el : Nat) : Statement (.loadComplete id el) := Or.inl rfl
theorem storeAccept (id : Nat) : Statement (.storeAccept id) := Or.inl rfl
theorem spadArrayWrite (core : Nat) : Statement (.spadArrayWrite core) := Or.inl rfl
theorem atomicPerform (id : Nat) : Statement (.atomicPerform id) := Or.inl rfl
theorem groupRetire (gid : Nat) : Statement (.groupRetire gid) := Or.inl rfl
theorem spawnBinTimer (core bin : Nat) : Statement (.spawnBinTimer core bin) := Or.inl rfl
theorem binGroupResident (core bin : Nat) : Statement (.binGroupResident core bin) := Or.inl rfl
theorem queueParse (vd q : Nat) : Statement (.queueParse vd q) := Or.inl rfl
theorem unitPlace : Statement (.unitPlace) := Or.inl rfl
theorem fenceRecordRead (vd q : Nat) : Statement (.fenceRecordRead vd q) := Or.inl rfl
theorem courierBatch (vd q k : Nat) : Statement (.courierBatch vd q k) := Or.inl rfl
theorem courierTimeout (vd q : Nat) : Statement (.courierTimeout vd q) := Or.inl rfl
theorem depotPublish (id : Nat) : Statement (.depotPublish id) := Or.inl rfl
theorem slotWrite (dom off : Nat) (data : List Byte) : Statement (.slotWrite dom off data) := Or.inl rfl
theorem readSlot (dom slot : Nat) : Statement (.readSlot dom slot) := Or.inl rfl
theorem stepPartition (vd : Nat) : Statement (.stepPartition vd) := Or.inl rfl
theorem stepContext (vd : Nat) : Statement (.stepContext vd) := Or.inl rfl
theorem stepMapping (vd : Nat) (readOk : Bool) : Statement (.stepMapping vd readOk) := Or.inl rfl
theorem stepQueue (vd : Nat) : Statement (.stepQueue vd) := Or.inl rfl
theorem stepProgramCreate (vd : Nat) (readOk : Bool) : Statement (.stepProgramCreate vd readOk) := Or.inl rfl
theorem stepProgramRestart (vd : Nat) : Statement (.stepProgramRestart vd) := Or.inl rfl
theorem programTeamPlace (vd id : Nat) : Statement (.programTeamPlace vd id) := Or.inl rfl
theorem stepEnvelope : Statement (.stepEnvelope) := Or.inl rfl
theorem stepWindow (vd : Nat) (readOk : Bool) : Statement (.stepWindow vd readOk) := Or.inl rfl
theorem stepKeyRelease (vd : Nat) : Statement (.stepKeyRelease vd) := Or.inl rfl
theorem stepDelete (vd : Nat) : Statement (.stepDelete vd) := Or.inl rfl
theorem parkReplay (gid who : Nat) : Statement (.parkReplay gid who) := Or.inl rfl
theorem atsCompletion (core vd haddr size : Nat) (r w : Bool) : Statement (.atsCompletion core vd haddr size r w) := Or.inl rfl
theorem priResponse (vd haddr : Nat) (resp : PriResp) : Statement (.priResponse vd haddr resp) := Or.inl rfl
theorem atsInvalidate (haddr size : Nat) : Statement (.atsInvalidate haddr size) := Or.inl rfl
theorem sliceExpiry (core region : Nat) : Statement (.sliceExpiry core region) := Or.inl rfl
theorem handlerStart (gid : Nat) : Statement (.handlerStart gid) := Or.inl rfl
theorem handlerBudgetExpiry (gid : Nat) : Statement (.handlerBudgetExpiry gid) := Or.inl rfl
theorem forcedSave (gid : Nat) : Statement (.forcedSave gid) := Or.inl rfl
theorem regionSwitch (core region : Nat) : Statement (.regionSwitch core region) := Or.inl rfl
theorem deviceResident (core vd : Nat) : Statement (.deviceResident core vd) := Or.inl rfl
theorem thermalPoolStep (temps : List Nat) : Statement (.thermalPoolStep temps) := Or.inl rfl
theorem energyUpdate (vd matrix lane memory other : Nat) : Statement (.energyUpdate vd matrix lane memory other) := Or.inl rfl
theorem oasisGo (vd n : Nat) : Statement (.oasisGo vd n) := Or.inl rfl
theorem notifyStore (vd n : Nat) (data : Word) (src : NotifySrc) : Statement (.notifyStore vd n data src) := Or.inl rfl
theorem debugTokenSubmit : Statement (.debugTokenSubmit) := Or.inl rfl
theorem getVersion (fn : Nat) : Statement (.getVersion fn) := Or.inl rfl
theorem getCapabilities (fn : Nat) : Statement (.getCapabilities fn) := Or.inl rfl
theorem negotiateAlgorithms (fn : Nat) : Statement (.negotiateAlgorithms fn) := Or.inl rfl
theorem getDigests (fn : Nat) : Statement (.getDigests fn) := Or.inl rfl
theorem getCertificate (fn : Nat) : Statement (.getCertificate fn) := Or.inl rfl
theorem challenge (fn : Nat) (nonce : Nat) : Statement (.challenge fn nonce) := Or.inl rfl
theorem getMeasurements (fn index : Nat) (signed : Bool) (nonce : Nat) : Statement (.getMeasurements fn index signed nonce) := Or.inl rfl
theorem keyExchange (fn : Nat) (exchange : Nat) : Statement (.keyExchange fn exchange) := Or.inl rfl
theorem tdiLeaveRun (vd : Nat) (error : Bool) : Statement (.tdiLeaveRun vd error) := Or.inl rfl
theorem functionLevelReset (vd : Nat) : Statement (.functionLevelReset vd) := Or.inl rfl
theorem vfEnableSet : Statement (.vfEnableSet) := Or.inl rfl
theorem vfEnableClear : Statement (.vfEnableClear) := Or.inl rfl
theorem deviceReset (vd : Nat) : Statement (.deviceReset vd) := Or.inl rfl
theorem resetComplete (vd : Nat) : Statement (.resetComplete vd) := Or.inl rfl
theorem coldReset : Statement (.coldReset) := Or.inl rfl
theorem bootstateAdvance (ok : Bool) : Statement (.bootstateAdvance ok) := Or.inl rfl
theorem peerFlitRetry (port : Nat) : Statement (.peerFlitRetry port) := Or.inl rfl
theorem peerPortDown (port : Nat) : Statement (.peerPortDown port) := Or.inl rfl
theorem peerAccessArrive (port dev vd addr : Nat) (kind : PeerKind) (data : List Byte) : Statement (.peerAccessArrive port dev vd addr kind data) := Or.inl rfl
theorem lineReadReturn (id el : Nat) (out : LineOut) : Statement (.lineReadReturn id el out) := Or.inl rfl
theorem sramScrub (core : Nat) (what : SramAt) (out : ScrubOut) : Statement (.sramScrub core what out) := Or.inl rfl
theorem hbmPatrolScrub (vd line : Nat) (out : ScrubOut) : Statement (.hbmPatrolScrub vd line out) := Or.inl rfl
theorem groupHalt (gid : Nat) : Statement (.groupHalt gid) := Or.inl rfl
theorem inspectDiscard (fn : Nat) : Statement (.inspectDiscard fn) := Or.inl rfl
theorem registerWrite (fn off : Nat) (data : List Byte) : Statement (.registerWrite fn off data) := Or.inl rfl
theorem tdiEntersRun (vd : Nat) : Statement (.tdiEntersRun vd) := Or.inl rfl
theorem oasisHartAccess (hart addr : Nat) (kind : OasisKind) (data : List Byte) : Statement (.oasisHartAccess hart addr kind data) := Or.inl rfl
theorem oasisHartFence (hart : Nat) (predWrites : Bool) : Statement (.oasisHartFence hart predWrites) := Or.inl rfl
theorem debugAccess (vd : Nat) (loc : DebugLoc) (write : Bool) (data : List Byte) : Statement (.debugAccess vd loc write data) := Or.inl rfl

end Sys2Proof.Laws.Words
end

