-- ==== Sys2Proof/Tests/Slice0.lean ====
section
/-! SUPPORT. The model's own tests: words written out from the encoding tables of the spec, what well-formedness refuses, single
steps with results from the spec's worked examples, and states that meet the hypotheses of the statements. -/

namespace Sys2Proof.Tests

set_option Elab.async false

open Sys2Proof Sys2Proof.Machine

/-! ### Words written out from the spec's formats (R59, R62) -/

/-- reg-reg: op, sd, sa, sb, fn, stall. -/
def rr (op : BitVec 6) (sd : BitVec 6) (sa sb : BitVec 7) (fn : BitVec 4) (st : BitVec 2) : Word := op ++ sd ++ sa ++ sb ++ fn ++ st
/-- reg-imm: op, sd, sa, imm8, fn, stall. -/
def ri (op : BitVec 6) (sd : BitVec 6) (sa : BitVec 7) (im : BitVec 8) (fn : BitVec 3) (st : BitVec 2) : Word :=
  op ++ sd ++ sa ++ im ++ fn ++ st
/-- branch: op, cond, sa, disp14, stall. -/
def br (op : BitVec 6) (cond : BitVec 3) (sa : BitVec 7) (disp : BitVec 14) (st : BitVec 2) : Word := op ++ cond ++ sa ++ disp ++ st

/-- The words decode to the instructions they stand for. -/
def decodesTo (l : List (Word × Instr)) : Bool := l.all fun p => (decodeScalar p.1).toOption == some p.2

/-- R61's two worked words: SMOV s60, k6 and VRUN of 11 instructions at lane index 13. -/
theorem test_decode_spec_r61 : decodesTo [(0x43C8C000, .smov 60 70 0), (0x72800034, .vrun 10 13 0)] = true := by decide
/-- R273's worked words: FENCE.cluster, FENCE.win, FENCE.st.sys, FENCE.ld.die. -/
theorem test_decode_spec_fence : decodesTo [(0x88000040, .fence 2 0), (0x880000C0, .fence 6 0), (0x880000A8, .fenceSt 5 0),
    (0x88000064, .fenceLd 3 0)] = true := by decide
/-- R304's SOLICIT.sum.cluster s22, k2, k10, and R434's WAITN s12, s9. -/
theorem test_decode_spec_solicit_waitn : decodesTo [(0xAD68528C, .solicit 22 66 74 3 0), (0xE8C12000, .waitn 12 9 0)] = true := by
  decide
theorem test_decode_arithmetic : decodesTo [(rr 0x01 3 4 5 0 1, .sadd 3 4 5 1), (rr 0x02 3 4 5 3 0, .ssubUsat 3 4 5 0),
    (rr 0x04 3 4 65 1 0, .smulhZ32 3 4 65 0), (rr 0x05 63 0 127 2 3, .sdivRem 63 0 127 3), (rr 0x0B 2 4 5 1 0, .ssarI64 2 4 5 0),
    (rr 0x0F 1 2 3 5 0, .scmpUle 1 2 3 0), (ri 0x13 7 0 0xFF 2 0, .smoviSh8 7 0xFF 0), (ri 0x14 7 9 0x80 0 2, .saddi 7 9 0x80 2)] =
    true := by decide
theorem test_decode_control : decodesTo [(br 0x16 1 5 0x3FFF 0, .brNz 5 0x3FFF 0), (br 0x17 0 0 1 0, .jmp 1 0),
    (br 0x18 1 9 0 0, .callInd 9 0), (br 0x19 0 9 0x2000 1, .loop 9 0x2000 1), (br 0x1A 1 64 2 0, .splitNot 64 2 0),
    (rr 0x3E 0 0 0 1 0, .exit 0), (rr 0x3E 0 0 0 4 3, .vsync 3), (ri 0x1E 3 0 255 0 0, .waitc 3 255 0)] = true := by decide
theorem test_decode_memory : decodesTo [(rr 0x1F 2 4 6 5 0, .sld 2 4 6 5 0), (rr 0x20 2 4 6 9 0, .sst 2 4 6 9 0),
    (rr 0x21 2 4 6 7 0, .satom 2 4 6 7 0), (rr 0x3B 3 9 0 1 0, .savegV 3 9 0 0), (rr 0x3C 0 9 0 3 0, .loadgP 9 0),
    (rr 0x3D 0 4 6 0 0, .tlbinv 4 6 0), (ri 0x23 0 0 3 0 0, .bar 3 0)] = true := by decide
theorem test_decode_units : decodesTo [(rr 0x24 2 4 6 0 0, .bcopy 2 4 6 0), (rr 0x25 5 6 0 0 0, .panarm 5 6 0),
    (ri 0x26 0 0 5 1 0, .panrelWait 5 0), (rr 0x27 3 4 6 1 0, .mloadb 3 4 6 1 0), (rr 0x28 3 4 0 1 0, .mmas 3 4 1 0),
    (rr 0x29 0 4 6 0 0, .accz 4 6 0), (rr 0x2A 2 4 6 0 0, .accst 2 4 6 0), (rr 0x2E 0 4 8 0 0, .markput 4 8 0),
    (rr 0x31 2 4 6 15 0, .qpush 2 4 6 15 0), (rr 0x34 0 4 6 0 0, .regroup 4 6 0), (ri 0x37 2 0 0xD 0 0, .rdsr 2 0xD 0),
    (ri 0x39 0 4 7 1 0, .trapVal 4 7 0)] = true := by decide
/-- R441's stored words of VXOR.b32 v4, h0, v0. -/
theorem test_decode_spec_vxor : (decodeLane (laneNumber 0x03300000 0x00003FE0 0x0343E012)).toOption =
    some (.vxor { stall := 0, guard := 31, inv := 0, dst := 4, a := 0x200, b := 0, c := 0x3FE, imm := 0, ty := 0x33, mode := 0, ext := 0 }) := by
  decide
/-- R250's stored words of MMA.z b1, v16, k4. -/
theorem test_decode_spec_mma : (decodeLane (laneNumber 0x00000005 0x10C13FE0 0x4003EFF8)).toOption =
    some (.mma { stall := 0, guard := 31, inv := 0, dst := 0x3FE, a := 0x10, b := 0x304, c := 0x3FE, imm := 0, ty := 0, mode := 0, ext := 5 }) := by
  decide

/-! ### What well-formedness refuses, one ill-formed term for each check (R59 to R69, R78) -/

/-- A lane word of type .i32 with guard 31 and every operand discarded. -/
def lane : LaneF :=
  { stall := 0, guard := 31, inv := 0, dst := 0x3FE, a := 0x3FE, b := 0x3FE, c := 0x3FE, imm := 0, ty := 0x13, mode := 0, ext := 0 }
/-- VADD v5, v6, v7. -/
def add : LaneF := { lane with dst := 5, a := 6, b := 7 }

theorem test_wf_accepts : wellFormed (.sadd 3 4 5 0) = true ∧ wellFormed (.vadd add) = true ∧ wellFormed (.joinMerge 0) = true := by
  decide
/-- An odd pair field, a pair or a triple past s63 or k63, a destination past the last register of the form. -/
theorem test_wf_refuses_registers : [Instr.saddI64 3 4 6 0, .saddI64 2 5 6 0, .saddI64 2 4 7 0, .maskpMov 62 3 0, .maskpAnd 0 62 3 0,
    .maskpAnd 0 126 3 0, .join 62 0, .ctrrd 62 4 0, .census 62 4 0, .loop 64 0 0, .markput 4 5 0, .tlbinv 5 6 0].all
    (fun i => !wellFormed i) = true := by decide
/-- A predicate number, a counter, a barrier, a scope, a special register, a shift and a pannier out of range. -/
theorem test_wf_refuses_ranges : [Instr.maskpMov 0 24 0, .waitc 4 0 0, .bar 4 0, .fence 7 0, .rdsr 0 0x0E 0, .wrsr 4 0x0E 0,
    .panrel 64 0, .solicit 2 4 6 15 0].all (fun i => !wellFormed i) = true := by decide
/-- Qualifiers that a form does not take: .fe on a .b64 access, the reserved selector of an access. -/
theorem test_wf_refuses_qualifiers : [Instr.sld 2 4 6 8 0, .sst 2 4 6 4 0, .sst 2 4 6 3 0].all (fun i => !wellFormed i) = true := by
  decide
/-- Guards 24 to 30, guard 31 inverted, a type, a mode bit, ext bits and an immediate that the instruction does not take. -/
theorem test_wf_refuses_lane_fields : [Instr.vadd { add with guard := 24 }, .vadd { add with inv := 1 }, .vadd { add with ty := 0x43 },
    .vadd { add with mode := 1 }, .vadd { add with ext := 1 }, .vadd { add with imm := 1 }, .vadd { add with c := 3 }].all
    (fun i => !wellFormed i) = true := by decide
/-- Operands of the wrong kind: a destination that is no register, a reserved specifier, an odd pair, a register past s63. -/
theorem test_wf_refuses_operands : [Instr.vadd { add with dst := 0x300 }, .vadd { add with a := 0x3A0 }, .vadd { add with a := 0x204 },
    .vadd { add with ty := 0x14, dst := 4, a := 7, b := 8 }, .pand { lane with ty := 0, dst := 24, a := 0, b := 0 },
    .vvote { lane with ty := 0, dst := 0x37E, a := 1, ext := 2 }].all (fun i => !wellFormed i) = true := by decide
/-- A conversion of a type to itself, an op of VRED that is not assigned, and an MMA whose fragments pass o15. -/
theorem test_wf_refuses_selectors : [Instr.vcvt { lane with dst := 5, a := 6, ty := 0x13, ext := 0x13 },
    .vred { lane with dst := 0x340, a := 6, ext := 15 }, .mma { lane with ty := 0, a := 0x105, b := 0x304 }].all
    (fun i => !wellFormed i) = true := by decide
/-- R78: the all-zero words are no instruction. -/
theorem test_zero_words_are_illegal : (decodeScalar 0).toOption = none ∧ (decodeLane 0).toOption = none := by decide

/-! ### Results of the spec's worked examples -/

/-- R110: VABS of 0x8000_0000 wraps, and saturates to 0x7FFF_FFFF. -/
theorem test_vabs_of_minimum : fromInt 0x13 false (2147483648 : Int) = 0xFFFFFFFF80000000 ∧
    (fromInt 0x13 true (2147483648 : Int)).setWidth 32 = 0x7FFFFFFF#32 := by decide
/-- R158: 65,504 + 16 in .f16 is the tie that rounds to +∞ with OF and NX, and to M under .sat. -/
theorem test_vfadd_f16_tie : fAdd fmtF16 0x7BFF 0x4C00 .rne false false false = (0x7C00, 0b00101#5) ∧
    fAdd fmtF16 0x7BFF 0x4C00 .rne true false false = (0x7BFF, 0b00101#5) := by decide

/-! ### Scalar instructions that are ready to issue -/

/-- Virtual device 1 on core 0, its group 0 with split 0 about to issue at word 0. -/
def ready : State := { State.reset.withFetchWord 32 0 with cur := some (.split 0 0) }

/-- The same with the group changed and registers of split 0 set. -/
def readyWith (regs : List (Nat × Nat)) (f : Group → Group := id) : State :=
  ready.modGroup 0 fun g => regs.foldl (fun h r => h.sset 0 r.1 (BitVec.ofNat 32 r.2)) (f g)

/-- The hypotheses of ScalarReady beside the issuer, as a Boolean. -/
def readyB (i : Instr) (u : ScUse) (s : State) (g : Group) (ix : Nat) (sp : Split) : Bool :=
  wellFormed i && (handlerBreach (issueOf i s g ix sp) u).isNone &&
  u.reads.all (fun f => !decide (f < 64) || ((pendHits g ix (.s f)).all (fun p => decide (p.seenBy ix (s.now g.core) = .yes)) &&
    !scLocked g ix f)) && u.writes.all (fun w => !scLocked g ix w.2) &&
  g.pend.all fun p => decide (p.split ≠ ix → p.issued < s.now g.core ∨ (p.issued = s.now g.core ∧ p.split < ix))

theorem readyB_ready {i : Instr} {u : ScUse} {s : State} {g : Group} {ix : Nat} {sp : Split}
    (hi : issuingSplit s = some (g, ix, sp)) (h : readyB i u s g ix sp = true) : ScalarReady i u s g ix sp := by
  simp only [readyB, Bool.and_eq_true, Bool.or_eq_true, Bool.not_eq_true', decide_eq_false_iff_not, List.all_eq_true,
    Option.isNone_iff_eq_none, decide_eq_true_eq] at h
  obtain ⟨⟨⟨⟨h1, h2⟩, h3⟩, h4⟩, h5⟩ := h
  exact ⟨hi, (wellFormed_iff i).1 h1, h2, fun f hf hlt => ((h3 f hf).resolve_left (fun h => h hlt)).1, h5,
    fun f hf hlt => ((h3 f hf).resolve_left (fun h => h hlt)).2, h4⟩

/-- Does split or batch of the state meet a Boolean condition. -/
def splitMeets (s : State) (c : Group → Nat → Split → Bool) : Bool :=
  match issuingSplit s with
  | some (g, ix, sp) => c g ix sp
  | none => false

/-- A split that is ready and meets a further condition. -/
theorem exists_ready {i : Instr} {u : ScUse} {s : State} (P : Group → Nat → Split → Prop) [∀ g ix sp, Decidable (P g ix sp)]
    (h : splitMeets s (fun g ix sp => readyB i u s g ix sp && decide (P g ix sp)) = true) :
    ∃ g ix sp, ScalarReady i u s g ix sp ∧ P g ix sp := by
  unfold splitMeets at h
  split at h
  · rename_i g ix sp hi
    simp only [Bool.and_eq_true, decide_eq_true_eq] at h
    exact ⟨g, ix, sp, readyB_ready hi h.1, h.2⟩
  · cases h

/-- Instructions that are each ready in a state of their own. -/
theorem all_ready {l : List (Instr × ScUse × State)}
    (h : l.all (fun p => splitMeets p.2.2 (readyB p.1 p.2.1 p.2.2)) = true) :
    ∀ p ∈ l, ∃ g ix sp, ScalarReady p.1 p.2.1 p.2.2 g ix sp := by
  intro p hp
  have := List.all_eq_true.1 h p hp
  unfold splitMeets at this
  split at this
  · exact ⟨_, _, _, readyB_ready ‹_› this⟩
  · cases this

/-- ScalarArithmeticAndLogicResults: a destination that is also the source, a constant, the widest immediate. -/
theorem test_witness_arithmetic : ∀ p ∈ [(Instr.sadd 3 3 127 0, uses [3, 127] [3], ready), (.smulhZ32 63 0 64 3, uses [0, 64] [63], ready),
    (.sxorNot 0 47 48 0, uses [47, 48] [0], ready), (.ssar 1 2 3 0, uses [2, 3] [1], readyWith [(3, 63)]),
    (.sshliAsr 63 63 31 0, uses [63] [63], ready)], ∃ g ix sp, ScalarReady p.1 p.2.1 p.2.2 g ix sp := all_ready (by decide)
/-- ScalarCompareAndMoveResults. -/
theorem test_witness_compare : ∀ p ∈ [(Instr.sminZ32 3 4 5 0, uses [4, 5] [3], ready), (.scmpUle 3 64 5 0, uses [64, 5] [3], ready),
    (.sclz 3 4 0, uses [4] [3], ready), (.saddi 3 4 0x80 0, uses [4] [3], ready), (.smovi 3 0xFF 0, uses [] [3], ready),
    (.smoviZ 3 0xFF 0, uses [] [3], ready), (.smoviSh8 3 0xFF 0, uses [3] [3], ready), (.ssel 3 4 5 0, uses [4, 5, 3] [3], ready)],
    ∃ g ix sp, ScalarReady p.1 p.2.1 p.2.2 g ix sp := all_ready (by decide)

/-- Scalar unit 0 of core 0 divides for register `r`. -/
def dividing (r : Nat) : State :=
  ready.modCore 0 fun k => { k with divs := [some { gid := 0, split := 0, reg := r, value := 7, deadline := 34, born := 0 }, none] }
/-- ScalarPairAndDivisionResults: the last pairs, the last shift count; a free unit, a busy one, a result for s63. -/
theorem test_witness_pairs : ∀ p ∈ [(Instr.saddI64 62 126 62 0, uses [126, 127, 62, 63] [62, 63], ready),
    (.ssarI64 62 0 5 0, uses [0, 1, 5] [62, 63], readyWith [(5, 127)]), (.smovI64 2 64 0, uses [64, 65] [2, 3], ready),
    (.saddiI64 2 4 0x80 0, uses [4, 5] [2, 3], ready)], ∃ g ix sp, ScalarReady p.1 p.2.1 p.2.2 g ix sp := all_ready (by decide)
theorem test_witness_division_starts : ∃ g ix sp, ScalarReady (.sdiv 3 4 5 0) (uses [4, 5] [3]) ready g ix sp ∧
    (ready.core g.core).divs.getD (g.slot % 2) none = none := exists_ready _ (by decide)
theorem test_witness_division_waits : ∃ g ix sp, ScalarReady (.sdivRemZ32 3 4 5 0) (uses [4, 5] [3]) (dividing 9) g ix sp ∧
    ((dividing 9).core g.core).divs.getD (g.slot % 2) none = some { gid := 0, split := 0, reg := 9, value := 7, deadline := 34, born := 0 } :=
  exists_ready _ (by decide)
theorem test_witness_division_result : ∃ dv g, ((dividing 63).core 0).divs.getD 0 none = some dv ∧
    (dividing 63).group? dv.gid = some g ∧ (g.split? dv.split).map (·.born) = some dv.born ∧ dv.reg < 64 := ⟨_, _, rfl, rfl, by decide, by decide⟩

/-- BranchesCallsAndReturns and LoopCountsDownAndBranches: not taken; taken to the first word; taken to index −1; each relation at
its boundary. -/
theorem test_witness_branches : ∀ p ∈ [(Instr.brZ 4 0 0, uses [4] [], readyWith [(4, 0)]), (.brNz 4 0 0, uses [4] [], readyWith [(4, 0)]),
    (.brLt 4 0 0, uses [4] [], readyWith [(4, 0xFFFFFFFF)]), (.brGe 4 0 0, uses [4] [], readyWith [(4, 0x80000000)]),
    (.brGt 4 0 0, uses [4] [], readyWith [(4, 0)]), (.brLe 4 0 0, uses [4] [], readyWith [(4, 1)]),
    (.brMz 0 0, uses [60, 61, 62] [], ready), (.brMnz 0 0, uses [60, 61, 62] [], ready), (.jmp 0 0, uses [] [], ready)],
    ∃ g ix sp, ScalarReady p.1 p.2.1 p.2.2 g ix sp := all_ready (by decide)
theorem test_witness_branch_taken : ∃ g ix sp, ScalarReady (.brNz 4 0x3FFF 0) (uses [4] []) (readyWith [(4, 1)]) g ix sp ∧
    g.sval ix 4 ≠ 0 ∧ 0 ≤ branchTarget sp 0x3FFF ∧ branchTarget sp 0x3FFF < (codeLen g ix : Int) := exists_ready _ (by decide)
theorem test_witness_branch_outside : ∃ g ix sp, ScalarReady (.jmp 0x3FFE 0) (uses [] []) ready g ix sp ∧
    ¬(0 ≤ branchTarget sp 0x3FFE ∧ branchTarget sp 0x3FFE < (codeLen g ix : Int)) ∧ g.status = .running := exists_ready _ (by decide)
theorem test_witness_calls : ∀ p ∈ [(Instr.jmpInd 4 0, uses [4] [], readyWith [(4, 16383)]), (.ret 0, uses [63] [], ready),
    (.call 0 0, { writes := [(0x05, 63)] }, ready), (.callInd 63 0, { reads := [63], writes := [(0x05, 63)] }, readyWith [(63, 16384)])],
    ∃ g ix sp, ScalarReady p.1 p.2.1 p.2.2 g ix sp := all_ready (by decide)
theorem test_witness_loop : ∃ g ix sp, ScalarReady (.loop 63 0x3FFF 0) { reads := [63], writes := [(0x03, 63)] } ready g ix sp ∧
    g.sval ix 63 - 1 ≠ 0 := exists_ready _ (by decide)

/-- The queue of group 0 holds eight batches of split `ix`. -/
def queued (ix n : Nat) : State :=
  readyWith [] fun g => { g with batches := (List.range n).map fun k => { loadBatch with bid := k, split := ix } }
/-- StreamControlAndVrun: VSYNC with its batches done and not; WAITC at its limit and above; VRUN with room, with none, and past
the end of the lane code. -/
theorem test_witness_vsync : (∃ g ix sp, ScalarReady (.vsync 0) {} (queued 1 8) g ix sp ∧
      ((∀ b ∈ g.batches, b.split ≠ ix) ∧ 3 * sp.laneReady ≤ (queued 1 8).now g.core)) ∧
    (∃ g ix sp, ScalarReady (.vsync 0) {} (queued 0 1) g ix sp ∧
      ¬((∀ b ∈ g.batches, b.split ≠ ix) ∧ 3 * sp.laneReady ≤ (queued 0 1).now g.core)) ∧
    ∃ g ix sp, ScalarReady (.yield 3) {} ready g ix sp :=
  ⟨exists_ready _ (by decide), exists_ready _ (by decide), _, _, _, readyB_ready rfl (by decide)⟩
theorem test_witness_waitc : (∃ g ix sp, ScalarReady (.waitc 3 255 0) {} (readyWith [] fun g => { g with wc := [0, 0, 0, 255] }) g ix sp ∧
      g.wc.getD 3 0 ≤ 255) ∧
    ∃ g ix sp, ScalarReady (.waitc 0 0 0) {} (readyWith [] fun g => { g with wc := [1, 0, 0, 0] }) g ix sp ∧ 0 < g.wc.getD 0 0 :=
  ⟨exists_ready _ (by decide), exists_ready _ (by decide)⟩
theorem test_witness_vrun : (∃ g ix sp, ScalarReady (.vrun 15 5445 0) { reads := [60, 61, 62], ban := 2 } (queued 1 7) g ix sp ∧
      5461 ≤ g.launch.llen ∧ g.batches.length < 8) ∧
    (∃ g ix sp, ScalarReady (.vrun 0 0 0) { reads := [60, 61, 62], ban := 2 } (queued 1 8) g ix sp ∧
      1 ≤ g.launch.llen ∧ 8 ≤ g.batches.length) ∧
    ∃ g ix sp, ScalarReady (.vrun 15 5446 0) { reads := [60, 61, 62], ban := 2 } ready g ix sp ∧ g.launch.llen < 5462 ∧
      g.status = .running :=
  ⟨exists_ready _ (by decide), exists_ready _ (by decide), exists_ready _ (by decide)⟩
/-- GetfmtReadsTheFormatRegister, HintWordsAndInvertedGuards, TrapsAndIllegalWordsFault (TRAP). -/
theorem test_witness_format_and_hints : ∀ p ∈ [(Instr.getfmt 63 3, uses [] [63], ready), (.nop 0xFFFFFF 3, {}, ready),
    (.trap 255 0, {}, ready), (.trapVal 4 255 0, uses [4] [], ready)], ∃ g ix sp, ScalarReady p.1 p.2.1 p.2.2 g ix sp :=
  all_ready (by decide)
theorem test_witness_getfmt_words : (0xD9400000#32).extractLsb' 26 6 = 0x36 ∧ (0xD9400000#32).extractLsb' 13 7 = 0 ∧
    (0xD9400004#32).extractLsb' 26 6 = 0x36 ∧ (0xD9400004#32).extractLsb' 2 4 ≠ 0 ∧ (0xFC000001#32).extractLsb' 26 6 = 0x3F := by decide
theorem test_witness_inverted_guard : bitsOf (2 ^ 86 + 2 ^ 77 * 31 + 2 ^ 76) 86 10 < 0x3F0 ∧
    bitsOf (2 ^ 86 + 2 ^ 77 * 31 + 2 ^ 76) 77 5 = 31 ∧ bitsOf (2 ^ 86 + 2 ^ 77 * 31 + 2 ^ 76) 76 1 = 1 ∧
    laneParts (.vadd { add with inv := 1 }) = some (0x001, { add with inv := 1 }) := by decide
/-- MasksFormatsAndSpecialRegisters. -/
theorem test_witness_maskp : (∃ g ix sp, ScalarReady (.maskpMov 61 23 0) (uses [] [61, 62, 63]) ready g ix sp ∧
      ∀ p ∈ g.pend, p.reg = .p 23 → p.seenBy ix (ready.now g.core) = .yes) ∧
    ∃ g ix sp, ScalarReady (.maskpAndn 61 125 0 0) (uses [125, 126, 127] [61, 62, 63]) ready g ix sp ∧
      ∀ p ∈ g.pend, p.reg = .p 0 → p.seenBy ix (ready.now g.core) = .yes := ⟨exists_ready _ (by decide), exists_ready _ (by decide)⟩
theorem test_witness_setfmt : (∃ g ix sp, ScalarReady (.setfmt 4 0) (uses [4] []) (readyWith [(4, 0x00152423)]) g ix sp ∧
      ((g.sval ix 4).extractLsb' 22 10 = 0 ∧ ((g.sval ix 4).extractLsb' 20 2).toNat < 2 ∧
        ((g.sval ix 4).extractLsb' 4 8).toNat ∈ formatCodes ∧ ((g.sval ix 4).extractLsb' 12 8).toNat ∈ formatCodes)) ∧
    (∃ g ix sp, ScalarReady (.setfmt 4 0) (uses [4] []) (readyWith [(4, 0x00252421)]) g ix sp ∧
      ¬((g.sval ix 4).extractLsb' 22 10 = 0 ∧ ((g.sval ix 4).extractLsb' 20 2).toNat < 2 ∧
        ((g.sval ix 4).extractLsb' 4 8).toNat ∈ formatCodes ∧ ((g.sval ix 4).extractLsb' 12 8).toNat ∈ formatCodes) ∧
      g.status = .running) ∧
    ∀ p ∈ [(Instr.setfmtRnd 3 0, uses [] [], ready), (.setfmtFtz 3 0, uses [] [], ready), (.setfmtAtype 0x61 0, uses [] [], ready),
      (.setfmtAtype 0x62 0, uses [] [], ready), (.setfmtBtype 0x42 0, uses [] [], ready), (.setfmtSmode 1 0, uses [] [], ready),
      (.setfmtSmode 2 0, uses [] [], ready)], ∃ g ix sp, ScalarReady p.1 p.2.1 p.2.2 g ix sp :=
  ⟨exists_ready _ (by decide), exists_ready _ (by decide), all_ready (by decide)⟩
theorem test_witness_special_registers : (∃ g ix sp, ScalarReady (.rdsr 63 0x0D 0) (uses [] [63]) ready g ix sp ∧
      ∀ p ∈ g.pend, p.reg = .empty → p.seenBy ix (ready.now g.core) = .yes) ∧
    (∃ g ix sp, ScalarReady (.wrsr 4 0x0C 0) (uses [4] []) (readyWith [(4, 1)]) g ix sp ∧ (g.sval ix 4).getLsbD 0 = true) ∧
    ∃ g ix sp, ScalarReady (.wrsr 4 0x0C 0) (uses [4] []) (readyWith [(4, 6)]) g ix sp ∧ (g.sval ix 4).getLsbD 0 = false :=
  ⟨exists_ready _ (by decide), exists_ready _ (by decide), exists_ready _ (by decide)⟩

/-- A writable mapping of 64 KiB of HBM at 0x40000. -/
def dataMapping : Mapping := { loadMapping with id := 2, va := 0x40000, size := 0x10000, runs := [(4, 1)], w := true, x := false, system := false }
/-- The registers of handlers and errors of device 1: its handler record stands at 0x40000. -/
def context : Context :=
  { stallchk := false, prot := false, vismask := 0x1F, slice := 100, budget := 1000, bintimer := 1024, notlog := 0, errlog := 0,
    handler := 0x40000, jobctr := 0, effMask := 0x1F, unlocked := false }
/-- A queue of 16 records at 0x41000, its control block at 0x42000. -/
def queue : Queue :=
  { q := 0, base := 0x41000, ctrl := 0x42000, proxy := false, depot := 0, aff := 0, prio := 0, logsz := 4, parsed := [], head := 0, taken := 0, begun := [] }

/-- A state with device 1 furnished: two cores, tokens, a writable mapping, a handler record, a queue; its group has 40
scratchpad rows and 64 accumulator rows. -/
def furnish (s : State) (f : Group → Group) : State :=
  let d : VDev := { s.vd 1 with part := some { loadPartition with cores := [0, 1], tokshare := 4 }, maps := [loadMapping, dataMapping],
                                ctx := some context, queues := [queue], ringSize := 16 }
  ((s.setVd 1 d).putBytes (.hbm 1 0x40000)
    (natLe 8 0x10000 ++ natLe 4 16 ++ natLe 4 1 ++ natLe 4 2 ++ natLe 4 1536 ++ natLe 8 0x44000)).modGroup 0 fun g =>
      f { g with spRows := 40, accRows := 64, team := some 0 }

/-- Split 0 of a furnished group about to issue, with registers set. -/
def rich (regs : List (Nat × Nat)) (f : Group → Group := id) : State :=
  (furnish ready f).modGroup 0 fun g => regs.foldl (fun h r => h.sset 0 r.1 (BitVec.ofNat 32 r.2)) g

/-- What a plan reaches. -/
def reachedBy : Plan → Option (List Reached)
  | .go _ rs => some rs
  | _ => none

theorem reachedBy_go {p : Plan} {rs : List Reached} (h : reachedBy p = some rs) : ∃ s, p = .go s rs := by
  cases p <;> simp [reachedBy] at h
  exact ⟨_, by rw [h]⟩

/-- A ready split whose accesses reach memory, in one place or in at least one. -/
theorem exists_reaching {i : Instr} {u : ScUse} {s : State} (P : Group → Nat → Split → Prop) [∀ g ix sp, Decidable (P g ix sp)]
    (m : MemUse) (accs : Group → Nat → List (Nat × Nat)) (Q : List Reached → Prop) [∀ rs, Decidable (Q rs)]
    (h : splitMeets s (fun g ix sp => readyB i u s g ix sp && decide (P g ix sp) &&
      (match reachedBy (planAccess (issueState s g) (prunePend g (s.now g.core)) m (accs g ix)) with
       | some rs => decide (Q rs)
       | none => false)) = true) :
    ∃ g ix sp rs, ScalarReady i u s g ix sp ∧ P g ix sp ∧ Reaches s g m (accs g ix) rs ∧ Q rs := by
  unfold splitMeets at h
  split at h
  · rename_i g ix sp hi
    simp only [Bool.and_eq_true, decide_eq_true_eq] at h
    obtain ⟨⟨h1, h2⟩, h3⟩ := h
    split at h3
    · exact ⟨g, ix, sp, _, readyB_ready hi h1, h2, reachedBy_go ‹_›, of_decide_eq_true h3⟩
    · cases h3
  · cases h

/-- SplitsDivideMergeAndEnd: no lane taken, all of them, some with the target in the code, outside it, and with the table full. -/
def splitting (m0 : Nat) (full : Bool) : State :=
  readyWith [(0, m0), (1, 0), (2, 0)] fun g => if full then { g with splits := (g.splits.take 1) ++ (List.replicate 7 (g.splits.headD freeSplit)) } else g
/-- What SPLIT reads. -/
def splitUse : ScUse := { reads := [0, 1, 2] ++ (upto 16).map (· + 48), ban := 2 }
/-- The locks and the state that a SPLIT asks for. -/
abbrev splitBase (g : Group) (ix : Nat) (sp : Split) : Prop := (∀ k ∈ g.locks, k.1 = ix → k.2 < 48) ∧ sp.state = .running
theorem test_witness_split_none : ∃ g ix sp, ScalarReady (.split 0 0 0) splitUse (splitting 0 false) g ix sp ∧
    (splitBase g ix sp ∧ maskAt g ix 60 &&& maskAt g ix 0 = 0) := exists_ready _ (by decide)
theorem test_witness_split_all : ∃ g ix sp, ScalarReady (.splitNot 0 0 0) splitUse (splitting 0 false) g ix sp ∧
    (splitBase g ix sp ∧ maskAt g ix 60 &&& ~~~(maskAt g ix 0) ≠ 0 ∧ maskAt g ix 60 &&& ~~~(~~~(maskAt g ix 0)) = 0) :=
  exists_ready _ (by decide)
theorem test_witness_split_some : ∃ g ix sp, ScalarReady (.split 0 0 0) splitUse (splitting 1 false) g ix sp ∧
    (splitBase g ix sp ∧ maskAt g ix 60 &&& maskAt g ix 0 ≠ 0 ∧ maskAt g ix 60 &&& ~~~(maskAt g ix 0) ≠ 0 ∧
      0 ≤ branchTarget sp 0 ∧ branchTarget sp 0 < (codeLen g ix : Int) ∧
      ((List.range 8).find? fun e => (g.splits[e]?.map (·.state)) == some .free) = some 1) := exists_ready _ (by decide)
theorem test_witness_split_outside : ∃ g ix sp, ScalarReady (.split 0 0x3FFE 0) splitUse (splitting 1 false) g ix sp ∧
    (splitBase g ix sp ∧ maskAt g ix 60 &&& maskAt g ix 0 ≠ 0 ∧ maskAt g ix 60 &&& ~~~(maskAt g ix 0) ≠ 0 ∧
      ¬(0 ≤ branchTarget sp 0x3FFE ∧ branchTarget sp 0x3FFE < (codeLen g ix : Int)) ∧ g.status = .running) := exists_ready _ (by decide)
theorem test_witness_split_full : ∃ g ix sp, ScalarReady (.split 0 0 0) splitUse (splitting 1 true) g ix sp ∧
    (splitBase g ix sp ∧ maskAt g ix 60 &&& maskAt g ix 0 ≠ 0 ∧ maskAt g ix 60 &&& ~~~(maskAt g ix 0) ≠ 0 ∧
      0 ≤ branchTarget sp 0 ∧ branchTarget sp 0 < (codeLen g ix : Int) ∧
      ((List.range 8).find? fun e => (g.splits[e]?.map (·.state)) == some .free) = none ∧ g.status = .running) :=
  exists_ready _ (by decide)
theorem test_witness_join_exit : (∃ g ix sp, ScalarReady (.join 60 0) { reads := [60, 61, 62], ban := 2 } (queued 1 1) g ix sp ∧
      ((∀ b ∈ g.batches, b.split ≠ ix) ∧ 3 * sp.laneReady ≤ (queued 1 1).now g.core) ∧ g.status = .running) ∧
    (∃ g ix sp, ScalarReady (.joinAll 0) { reads := [], ban := 2 } (queued 0 1) g ix sp ∧
      ¬((∀ b ∈ g.batches, b.split ≠ ix) ∧ 3 * sp.laneReady ≤ (queued 0 1).now g.core)) ∧
    ∃ g ix sp, ScalarReady (.exit 0) { ban := 2 } ready g ix sp ∧
      ((∀ b ∈ g.batches, b.split ≠ ix) ∧ 3 * sp.laneReady ≤ ready.now g.core) :=
  ⟨exists_ready _ (by decide), exists_ready _ (by decide), exists_ready _ (by decide)⟩
/-- Two splits that wait at JOIN for the lanes of both. -/
def waiting : List Split :=
  ((List.range 2).map fun k => { (freeSplit.setMask (BitVec.ofNat 96 (k + 1))) with state := .joining, rejoin := 3#96 }) ++
    List.replicate 6 freeSplit
def joining : State := readyWith [] fun g => { g with splits := waiting }
theorem test_witness_merge : ∃ g p q, joining.group? 0 = some g ∧ (g.status = .running ∧ g.handler = none ∧ g.splits.length = 8) ∧
    (g.splits[0]? = some p ∧ p.state = .joining ∧ p.rejoin = 3#96) ∧ canMerge g.splits 3#96 = true ∧ waiters g 3#96 = 0 :: q :=
  ⟨_, _, [1], rfl, by decide, ⟨rfl, rfl, rfl⟩, by decide, by decide⟩

/-- ScalarAccessesStart: scratchpad and device addresses, both widths, the last row of the allocation. -/
theorem test_witness_sld : (∃ g ix sp rs, ScalarReady (.sld 62 4 6 5 0) (uses [4, 5, 6] [62, 63]) (rich [(4, 15352), (5, 0x80000000)]) g ix sp ∧
      g.wc.getD 1 0 < 255 ∧ Reaches (rich [(4, 15352), (5, 0x80000000)]) g { space := 2, kind := .read, fe := 0, width := 8, fid := 0x03 }
        [(127, scalarAddress g ix 4 6)] rs ∧ rs ≠ []) ∧
    ∃ g ix sp rs, ScalarReady (.sld 3 4 6 0 0) (uses [4, 5, 6] [3]) (rich [(4, 0x40000)]) g ix sp ∧
      g.wc.getD 0 0 < 255 ∧ Reaches (rich [(4, 0x40000)]) g { space := 2, kind := .read, fe := 0, width := 4, fid := 0x03 }
        [(127, scalarAddress g ix 4 6)] rs ∧ rs ≠ [] :=
  ⟨exists_reaching _ _ _ _ (by decide), exists_reaching _ _ _ _ (by decide)⟩
theorem test_witness_sst : ∃ g ix sp rs, ScalarReady (.sst 2 4 6 9 0) (uses [4, 5, 6, 2, 3] []) (rich [(4, 0x4FFF8)]) g ix sp ∧
    (g.wc.getD 2 0 < 255 ∧ (ix = 8 → scalarAddress g ix 4 6 < 2 ^ 63)) ∧ Reaches (rich [(4, 0x4FFF8)]) g
      { space := 2, kind := .write, fe := 0, width := 8, fid := 0x03 } [(127, scalarAddress g ix 4 6)] rs ∧ rs ≠ [] :=
  exists_reaching _ _ _ _ (by decide)
theorem test_witness_satom : ∃ g ix sp rs, ScalarReady (.satom 3 4 6 7 0) (uses [4, 5, 6, 7] [3]) (rich [(5, 0x80000000)]) g ix sp ∧
    (g.wc.getD 1 0 < 255 ∧ 2 ^ 63 ≤ (pairAt g ix 4).toNat) ∧ Reaches (rich [(5, 0x80000000)]) g
      { space := 2, kind := .atomic, fe := 0, width := 4, fid := 0x03, op := 7 } [(127, (pairAt g ix 4).toNat)] rs ∧ rs.length = 1 :=
  exists_reaching _ _ _ _ (by decide)
/-- FullEmptyAccessesWaitAndAreServed: the scalar forms. -/
theorem test_witness_fe : (∃ g ix sp rs, ScalarReady (.sld 3 4 6 3 0) (uses [4, 5, 6] [3]) (rich [(5, 0x80000000)]) g ix sp ∧
      (g.wc.getD 1 0 < 255 ∧ g.wc.getD 2 0 < 255 ∧ scalarAddress g ix 4 6 ≥ 2 ^ 63 ∧ ix ≠ 8) ∧ Reaches (rich [(5, 0x80000000)]) g
        { space := 2, kind := .read, fe := 2, width := 4, fid := 0x03 } [(127, scalarAddress g ix 4 6)] rs ∧ rs.length = 1) ∧
    ∃ g ix sp rs, ScalarReady (.sst 3 4 6 10 0) (uses [4, 5, 6, 3] []) (rich [(5, 0x80000000)]) g ix sp ∧
      (g.wc.getD 1 0 < 255 ∧ g.wc.getD 2 0 < 255 ∧ scalarAddress g ix 4 6 ≥ 2 ^ 63 ∧ ix ≠ 8) ∧ Reaches (rich [(5, 0x80000000)]) g
        { space := 2, kind := .write, fe := 1, width := 4, fid := 0x03 } [(127, scalarAddress g ix 4 6)] rs ∧ rs.length = 1 :=
  ⟨exists_reaching _ _ _ _ (by decide), exists_reaching _ _ _ _ (by decide)⟩
/-- SavegAndLoadgMoveBlocks: a scalar register at the last word of the save area, a lane register in its last block. -/
theorem test_witness_saveg : ∃ r, handlerRec (rich [(4, 1532)]) 1 = some r ∧ 1532 + 4 ≤ r.size ∧ r.base = 0x44000 ∧
    ∃ g ix sp rs, ScalarReady (.savegS 47 4 0) (uses [4, 47] []) (rich [(4, 1532)]) g ix sp ∧ (g.wc.getD 2 0 < 255 ∧ ix ≠ 8) ∧
      Reaches (rich [(4, 1532)]) g { space := 2, kind := .write, fe := 0, width := 4, fid := 0x03 } [(127, 0x44000 + 1532)] rs ∧ rs ≠ [] :=
  ⟨_, rfl, by decide, rfl, exists_reaching _ _ _ _ (by decide)⟩
theorem test_witness_loadg : ∃ r, handlerRec (rich [(4, 1152)]) 1 = some r ∧ 1152 + 384 ≤ r.size ∧
    ∃ g ix sp rs, ScalarReady (.loadgV 63 4 0 0) { reads := [4], ban := 1 } (rich [(4, 1152)]) g ix sp ∧
      (LaneRegFree true (.v 63) (rich [(4, 1152)]) g ix ∧ g.wc.getD 0 0 < 255) ∧
      Reaches (rich [(4, 1152)]) g { space := 2, kind := .read, fe := 0, width := 4, fid := 0x03 }
        ((List.range 96).map fun k => (127, 0x44000 + 1152 + 4 * k)) rs ∧ rs.take 96 ≠ [] := by
  obtain ⟨g, ix, sp, rs, h, ⟨⟨hv, hl, hp⟩, hw⟩, hr⟩ := exists_reaching (i := .loadgV 63 4 0 0) (u := { reads := [4], ban := 1 })
    (s := rich [(4, 1152)]) (fun g ix _ => (63 < g.launch.vregs ∧ lnLocked g ix true (.v 63) = false ∧
      ∀ p ∈ g.pend, p.reg = .v 63 → p.seenBy ix ((rich [(4, 1152)]).now g.core) = .yes) ∧ g.wc.getD 0 0 < 255)
    { space := 2, kind := .read, fe := 0, width := 4, fid := 0x03 } (fun _ _ => (List.range 96).map fun k => (127, 0x44000 + 1152 + 4 * k))
    (fun rs => rs.take 96 ≠ []) (by decide)
  exact ⟨_, rfl, by decide, g, ix, sp, rs, h, ⟨⟨fun n e => by cases e; exact hv, hl, hp⟩, hw⟩, hr⟩

/-! ### Fences, loads and stores under way -/

/-- The state after an instruction. -/
def after (i : Instr) (s : State) : State :=
  match exec i s with
  | .next t => t
  | _ => s

/-- Something is there and meets a condition. -/
theorem exists_some {α : Type} {o : Option α} (P : α → Prop) [∀ x, Decidable (P x)] (h : o.any (fun x => decide (P x)) = true) :
    ∃ x, o = some x ∧ P x := by
  cases o with
  | none => cases h
  | some x => exact ⟨x, rfl, of_decide_eq_true h⟩

/-- Something is there, something depends on it, and both meet a condition. -/
theorem exists_some₂ {α β : Type} {o : Option α} {f : α → Option β} (P : α → β → Prop) [∀ x y, Decidable (P x y)]
    (h : o.any (fun x => (f x).any fun y => decide (P x y)) = true) : ∃ x y, o = some x ∧ f x = some y ∧ P x y := by
  cases o with
  | none => cases h
  | some x =>
    obtain ⟨y, hy, hp⟩ := exists_some (P x) h
    exact ⟨x, y, rfl, hy, hp⟩

/-- No core holds a poisoned element. -/
theorem no_poison {s : State} (h : s.cores.all (fun k => k.2.poison == []) = true) (c : Nat) : (s.core c).poison = [] := by
  have key : ∀ l : List (Nat × Core), l.all (fun k => k.2.poison == []) = true → (keyGet Core.reset l c).poison = [] := by
    intro l
    induction l with
    | nil => intro _; rfl
    | cons k l ih =>
      intro h
      simp only [List.all_cons, Bool.and_eq_true, beq_iff_eq] at h
      simp only [keyGet]
      split
      · exact h.1
      · exact ih h.2
  exact key s.cores h

/-- FencesBarriersAndTlbinv: the issue, at the last pages of the address space. -/
theorem test_witness_fences : ∀ p ∈ [(Instr.fence 6 0, ({} : ScUse), ready), (.fenceLd 2 0, {}, ready), (.fenceSt 2 0, {}, ready),
    (.bar 3 0, {}, ready), (.tlbinvAll 0, {}, ready)], ∃ g ix sp, ScalarReady p.1 p.2.1 p.2.2 g ix sp := all_ready (by decide)
theorem test_witness_tlbinv : ∃ g ix sp, ScalarReady (.tlbinv 4 6 0) (uses [4, 5, 6] [])
    (readyWith [(4, 0xFFFF0000), (5, 0xFFFFF), (6, 1)]) g ix sp ∧
    ((pairAt g ix 4).toNat % 2 ^ 16 = 0 ∧ (pairAt g ix 4).toNat < 2 ^ 52 ∧ 0 < (g.sval ix 6).toNat ∧ (g.sval ix 6).toNat ≤ 2 ^ 20 ∧
      (pairAt g ix 4).toNat + 2 ^ 16 * (g.sval ix 6).toNat ≤ 2 ^ 52) := exists_ready _ (by decide)
/-- A split that waits in a block. -/
def blocked (b : Block) : State := readyWith [] fun g => { g with team := some 0, splits := [{ g.splits.headD freeSplit with block := b }] }
theorem test_witness_fence_complete : ∃ g sp, (blocked (.fence 4 0 5)).group? 0 = some g ∧ g.split? 0 = some sp ∧
    (sp.block = .fence 4 0 5 ∧ fenceReady (blocked (.fence 4 0 5)) 0 0 4 0 5 = true) :=
  exists_some₂ (f := fun g : Group => g.split? 0) _ (by decide)
/-- A fence at .win of a group that has a staged byte. -/
def stagedFence : State := (blocked (.fence 6 0 5)).modHub fun h => { h with staged := [{ uid := 3, off := 130, byte := 1, vd := 1, writer := 0 }] }
theorem test_witness_fence_win : ∃ g sp, stagedFence.group? 0 = some g ∧ g.split? 0 = some sp ∧
    (sp.block = .fence 6 0 5 ∧ fenceReady stagedFence 0 0 6 0 5 = true ∧ stagedFence.stagedLines g.vd 0 = [(3, 128)]) :=
  exists_some₂ (f := fun g : Group => g.split? 0) _ (by decide)
theorem test_witness_tlbinv_steps : (∃ g sp, (blocked (.tlbinv 0 1 5 false)).group? 0 = some g ∧ g.split? 0 = some sp ∧
      (sp.block = .tlbinv 0 1 5 false ∧ fenceReady (blocked (.tlbinv 0 1 5 false)) 0 0 4 0 5 = true)) ∧
    ∃ g sp, (blocked (.tlbinv 0 1 5 true)).group? 0 = some g ∧ g.split? 0 = some sp ∧
      (sp.block = .tlbinv 0 1 5 true ∧ accessesDone (blocked (.tlbinv 0 1 5 true)) g.vd g.gen 0 1 5 = true) :=
  ⟨exists_some₂ (f := fun g : Group => g.split? 0) _ (by decide), exists_some₂ (f := fun g : Group => g.split? 0) _ (by decide)⟩
theorem test_witness_bar : barGroups (blocked (.bar 3 5)) 0 ≠ [] ∧ ((barGroups (blocked (.bar 3 5)) 0).map (·.gid)).Nodup ∧
    ∀ g ∈ barGroups (blocked (.bar 3 5)) 0, (blocked (.bar 3 5)).group? g.gid = some g ∧
      ∃ ix, ix < 9 ∧ barArrived (blocked (.bar 3 5)) g 3 ix = true := by
  have h : ∀ g ∈ barGroups (blocked (.bar 3 5)) 0, (blocked (.bar 3 5)).group? g.gid = some g ∧
      barArrived (blocked (.bar 3 5)) g 3 0 = true := by decide
  exact ⟨by decide, by decide, fun g hg => ⟨(h g hg).1, 0, by decide, (h g hg).2⟩⟩

/-- LoadsCompleteOrFail and StoresAndAtomicsArePerformed: a load of scratchpad, of HBM, and stores in flight. -/
def loading (hbm : Bool) : State :=
  if hbm then after (.sld 3 4 6 0 0) (rich [(4, 0x40000)]) else after (.sld 3 4 6 0 0) (rich [(4, 0), (5, 0x80000000)])
/-- The elements of the loads in flight. -/
def flight (s : State) (id el : Nat) : Option (LoadOp × LoadEl) :=
  (s.loads.find? fun o => o.op == id).bind fun o => (o.els.find? fun p => p.1 == el).map fun p => (o, p.2)
theorem test_witness_load_complete : (∃ o g, (loading false).loads.find? (fun o => o.op == 2) = some o ∧
      (loading false).group? o.gid = some g ∧ ((o.els.find? (fun p => p.1 == 0)).any (fun e => !loadHeld (loading false) o (0, e.2) &&
        (badLine (loading false) e.2.loc).isNone && e.2.dst == .sreg 0 3) = true ∧
      earlierFree (loading false) o.gid o.ord = true ∧ ownEarlierFree (loading false) o 0 = true ∧ (g.split? 0).map (·.born) = some o.ord.born)) ∧
    ∀ c, ((loading false).core c).poison = [] :=
  ⟨exists_some₂ (f := fun o : LoadOp => (loading false).group? o.gid) _ (by decide), no_poison (by decide)⟩
theorem test_witness_line_read : ∃ o r, (loading true).loads.find? (fun o => o.op == 2) = some o ∧
    (loading true).ops.find? (fun r => r.op == 2) = some r ∧
    ((o.els.find? (fun p => p.1 == 0)).any (fun e => !loadHeld (loading true) o (0, e.2) && e.2.loc == .hbm o.vd 0x40000) = true ∧
      r.gid = o.gid ∧ ((loading true).group? o.gid).any (fun g => g.status == .running) = true ∧
      earlierFree (loading true) o.gid o.ord = true ∧ ownEarlierFree (loading true) o 0 = true ∧ 0 < o.vd ∧
      ((loading true).vd o.vd).fenced = false) :=
  exists_some₂ (f := fun _ => (loading true).ops.find? fun r => r.op == 2) _ (by decide)
/-- A store element in flight, at a place. -/
def element (l : Loc) (kind : StoreKind) (stage : StoreStage) : StoreEl :=
  { id := 7, op := 7, gid := 0, core := 0, vd := 1, gen := 0, loc := l, bytes := [1, 2, 3, 4], kind := kind, stage := stage, rel := none,
    acq := none, ord := { split := 0, born := 0, lane := false, seq := 1, ref := 0 }, page := 0, va := 0, lane := 127 }
def storing (l : Loc) (kind : StoreKind) (stage : StoreStage) : State := { rich [] with stores := [element l kind stage] }
theorem test_witness_store_accept : ∃ e, (storing (.spad 0 15356) .plain .queued).stores.find? (fun e => e.id == 7) = some e ∧
    (e.stage = .queued ∧ e.isFe = false ∧ e.isAtomic = false ∧ e.rel = none ∧
      mayReach (storing (.spad 0 15356) .plain .queued) e = true) := exists_some _ (by decide)
theorem test_witness_store_lands : ∃ e, (storing (.host 0x1000) .plain .point).stores.find? (fun e => e.id == 7) = some e ∧
    ((storing (.host 0x1000) .plain .point).memOk = true ∧ e.stage = .point ∧ e.loc = .host 0x1000 ∧ e.isAtomic = false ∧ e.rel = none ∧
      (storing (.host 0x1000) .plain .point).stores.filter (fun f => f.op == e.op && f.stage == .point && f.loc.line == e.loc.line) = [e] ∧
      pointBehind (storing (.host 0x1000) .plain .point) e = false) := exists_some _ (by decide)
theorem test_witness_spad_write : ∃ e, (storing (.spad 0 0) .plain .point).stores.find? (fun e => e.core == 0 && e.stage == .point &&
    e.loc.isSpad) = some e ∧ (storing (.spad 0 0) .plain .point).memOk = true := exists_some _ (by decide)
theorem test_witness_atomic_perform : ∃ e g, (storing (.spad 0 0) (.atomic 7 true 0 (some (0x340 + 63))) .queued).stores.find?
      (fun e => e.id == 7) = some e ∧ (storing (.spad 0 0) (.atomic 7 true 0 (some (0x340 + 63))) .queued).group? e.gid = some g ∧
    (e.loc = .spad 0 0 ∧ e.bytes = natLe 4 (0x04030201#32).toNat ∧ e.rel = none ∧ (g.split? e.ord.split).map (·.born) = some e.ord.born ∧
      mayReach (storing (.spad 0 0) (.atomic 7 true 0 (some (0x340 + 63))) .queued) e = true ∧
      buffered (storing (.spad 0 0) (.atomic 7 true 0 (some (0x340 + 63))) .queued) e = false ∧
      (storing (.spad 0 0) (.atomic 7 true 0 (some (0x340 + 63))) .queued).mem.readBytes e.loc.key 4 = natLe 4 (0#32).toNat) :=
  exists_some₂ (f := fun e : StoreEl => (storing (.spad 0 0) (.atomic 7 true 0 (some (0x340 + 63))) .queued).group? e.gid) _ (by decide)
/-- FullEmptyAccessesWaitAndAreServed: a waiting .fec load of a full granule, and a .fe store of an empty one. -/
def waitingLoad : State := after (.sld 3 4 6 3 0) (rich [(5, 0x80000000)])
theorem test_witness_fe_load : ∃ q, waitingLoad.feqs.head? = some q ∧ (waitingLoad.feqs.find? (fun r => r.id == q.id) = some q ∧
    q.store = false ∧ q.take = true ∧ feLoadReady waitingLoad q = true ∧
    waitingLoad.feqs.filter (fun r => r.core == q.core && r.granule == q.granule) = [q]) := exists_some _ (by decide)
def waitingStore : State := after (.sst 3 4 6 2 0) ((rich [(5, 0x80000000)]).modCore 0 fun k => { k with empties := [0] })
theorem test_witness_fe_store : ∃ q, waitingStore.feqs.head? = some q ∧ (waitingStore.feqs.find? (fun r => r.id == q.id) = some q ∧
    q.store = true ∧ feStoreReady waitingStore q = true ∧ (∀ e ∈ feEls waitingStore q, e.rel ≠ some 6) ∧
    waitingStore.feqs.filter (fun r => r.core == q.core && r.granule == q.granule) = [q]) := exists_some _ (by decide)

/-! ### Lane instructions that are ready to issue -/

/-- A batch of group 0 about to issue its first instruction, its device furnished. -/
def batching : State := furnish { State.reset.withFetchWord 96 0 with cur := some (.batch 0 0) } id
/-- The same with registers of split 0 set, and group and batch changed. -/
def batchingWith (regs : List (Nat × Nat)) (f : Group → Group := id) (h : Batch → Batch := id) : State :=
  batching.modGroup 0 fun g =>
    regs.foldl (fun k r => k.sset 0 r.1 (BitVec.ofNat 32 r.2)) (f { g with batches := g.batches.map h })

/-- The hypotheses of LaneReady beside the issuer, as a Boolean, for a batch without results before and a core without poison. -/
def laneReadyB (i : Instr) (op : Nat) (l : LaneF) (s : State) (g : Group) (b : Batch) : Bool :=
  let x := laneIssOf op l s g b
  (g.split? b.split).isSome && laneParts i == some (op, l) && wellFormed i && sideViol op l b.fmt == [] && !begun b.block &&
  (rangeBreach g.launch.vregs ((laneFieldList x.sh l).drop 3 ++ (laneFieldList x.sh l).take 3)).isNone &&
  (hBreach b (laneFieldList x.sh l)).isNone &&
  x.regsRead.all (fun r => (pendHits g b.split r).all fun p => decide (lnSeen x p = .yes)) && b.hist == [] && !laneLocked x &&
  (s.core g.core).poison == [] &&
  g.pend.all fun p => decide (p.split ≠ b.split → p.issued < 3 * (s.now g.core / 3) ∨ (p.issued = 3 * (s.now g.core / 3) ∧ p.split < b.split))

theorem laneReadyB_ready {i : Instr} {op : Nat} {l : LaneF} {s : State} {g : Group} {b : Batch}
    (hi : issuingBatch s = some (g, b)) (h : laneReadyB i op l s g b = true) : LaneReady i op l s g b := by
  simp only [laneReadyB, Bool.and_eq_true, Bool.not_eq_true', List.all_eq_true, Option.isNone_iff_eq_none, beq_iff_eq,
    decide_eq_true_eq] at h
  obtain ⟨⟨⟨⟨⟨⟨⟨⟨⟨⟨⟨h1, h2⟩, h3⟩, h4⟩, h5⟩, h6⟩, h7⟩, h8⟩, h9⟩, h10⟩, h11⟩, h12⟩ := h
  exact ⟨hi, h1, h2, (wellFormed_iff i).1 h3, h4, h5, h6, h7, h8, h12, fun k _ new old ready prod hk => by simp [h9] at hk, h10,
    fun lanes => by simp [poisonRead, h11]⟩

/-- Does the issuing batch of the state meet a Boolean condition. -/
def batchMeets (s : State) (c : Group → Batch → Bool) : Bool :=
  match issuingBatch s with
  | some (g, b) => c g b
  | none => false

/-- A batch that is ready and meets a further condition. -/
theorem exists_laneReady {i : Instr} {op : Nat} {l : LaneF} {s : State} (P : Group → Batch → Prop) [∀ g b, Decidable (P g b)]
    (h : batchMeets s (fun g b => laneReadyB i op l s g b && decide (P g b)) = true) :
    ∃ g b, LaneReady i op l s g b ∧ P g b := by
  unfold batchMeets at h
  split at h
  · rename_i g b hi
    simp only [Bool.and_eq_true, decide_eq_true_eq] at h
    exact ⟨g, b, laneReadyB_ready hi h.1, h.2⟩
  · cases h

/-- Instructions that are each ready. -/
theorem all_laneReady {s : State} {l : List (Instr × Nat × LaneF)}
    (h : l.all (fun p => batchMeets s (laneReadyB p.1 p.2.1 p.2.2 s)) = true) :
    ∀ p ∈ l, ∃ g b, LaneReady p.1 p.2.1 p.2.2 s g b := by
  intro p hp
  have := List.all_eq_true.1 h p hp
  unfold batchMeets at this
  split at this
  · exact ⟨_, _, laneReadyB_ready ‹_› this⟩
  · cases this

/-- A ready batch whose lanes' accesses reach memory. -/
theorem exists_laneReaching {i : Instr} {op : Nat} {l : LaneF} {s : State} (P : Group → Batch → List Reached → Prop)
    [∀ g b rs, Decidable (P g b rs)] (m : LnIss → MemUse)
    (h : batchMeets s (fun g b => laneReadyB i op l s g b && (match reachedBy (planAccess (laneStart s (laneIssOf op l s g b))
      (laneIssOf op l s g b).g (m (laneIssOf op l s g b)) (laneIssOf op l s g b).accesses) with
        | some rs => decide (P g b rs)
        | none => false)) = true) :
    ∃ g b rs, LaneReady i op l s g b ∧ LaneReaches s (laneIssOf op l s g b) (m (laneIssOf op l s g b)) rs ∧ P g b rs := by
  unfold batchMeets at h
  split at h
  · rename_i g b hi
    simp only [Bool.and_eq_true] at h
    obtain ⟨h1, h2⟩ := h
    split at h2
    · exact ⟨g, b, _, laneReadyB_ready hi h1, reachedBy_go ‹_›, of_decide_eq_true h2⟩
    · cases h2
  · cases h

/-- An instruction with its opcode and its fields. -/
def form (mk : LaneF → Instr) (op : Nat) (l : LaneF) : Instr × Nat × LaneF := (mk l, op, l)

/-- LaneIntegerLogicAndShiftResults: a discarded result, a 64-bit type, carry in from a predicate, a guard. -/
theorem test_witness_lane_integer : ∀ p ∈ [form .vadd 0x001 { add with dst := 0x3FE },
    form .vmin 0x007 { add with ty := 0x14, dst := 62, a := 6, b := 0x37E },
    form .vaddc 0x003 { add with ty := 0x23, c := 23 },
    form .vmad 0x006 { add with c := 0x3FF, imm := 0x80, guard := 23, inv := 1 },
    form .vneg 0x00A { add with b := 0x3FE }, form .vand 0x00B { add with ty := 0x33, ext := 1 },
    form .vsar 0x011 { add with ty := 0x14, dst := 4, a := 6, b := 0x3FF, imm := 127 },
    form .vbrev 0x014 { add with ty := 0x33, b := 0x3FE }],
    ∃ g b, LaneReady p.1 p.2.1 p.2.2 batching g b := all_laneReady (by decide)
/-- LaneFieldsMovesAndPredicates. -/
theorem test_witness_lane_fields : ∀ p ∈ [form .vbfe 0x015 { add with ext := 0x83FF, b := 0x3FE },
    form .vbfi 0x016 { add with ty := 0x33 },
    form .vperm 0x017 { add with ty := 0x33, c := 8, ext := 5 },
    form .vsel 0x018 { add with ty := 0x33, c := 0 },
    form .vmov 0x019 { add with ty := 0x33, b := 0x3FE },
    form .vcmp 0x01A { add with dst := 23, ext := 0x15 },
    form .pand 0x040 { lane with ty := 0, dst := 0, a := 1, b := 23, ext := 1 },
    form .pnot 0x043 { lane with ty := 0, dst := 0, a := 0 },
    form .pset 0x045 { lane with ty := 0, dst := 0, imm := 1 },
    form .psetMask 0x045 { lane with ty := 0, dst := 0, a := 0x37D, ext := 1 }], ∃ g b, LaneReady p.1 p.2.1 p.2.2 batching g b := all_laneReady (by decide)
/-- CrossLaneAndReductionResults. -/
theorem test_witness_cross_lane : ∀ p ∈ [form .vlaneid 0x066 { lane with ty := 0, dst := 5 },
    form .vshfl 0x060 { add with ty := 0x33, ext := 3 },
    form .vbcast 0x061 { add with ty := 0x33, dst := 0x37F, b := 0x3FF, imm := 96 },
    form .vvote 0x064 { lane with ty := 0, dst := 0x37D, a := 23, ext := 2 },
    form .vcmpx 0x065 { lane with dst := 5, a := 6, imm := 64, ext := 128 },
    form .vred 0x062 { lane with ty := 0x14, dst := 0x37E, a := 6, ext := 5 },
    form .vscan 0x063 { lane with ty := 0x43, dst := 5, a := 6, ext := 0x16 }], ∃ g b, LaneReady p.1 p.2.1 p.2.2 batching g b := all_laneReady (by decide)
/-- LaneFloatArithmeticResults, LaneFloatFunctionsAndConversions, StickyFlagsAndHints. -/
theorem test_witness_lane_float : ∀ p ∈ [form .vfadd 0x080 { add with ty := 0x42, mode := 0xC },
    form .vfma 0x083 { add with ty := 0x52, c := 8 },
    form .vfmax 0x085 { add with ty := 0x43 }, form .vfabs 0x086 { add with ty := 0x42, b := 0x3FE },
    form .vfcmp 0x088 { add with ty := 0x43, dst := 0, ext := 5 },
    form .vfclass 0x089 { add with ty := 0x43, b := 0x3FE },
    form .vexp2 0x08D { add with ty := 0x43, b := 0x3FE },
    form .vfrnd 0x08F { add with ty := 0x43, b := 0x3FE },
    form .vcvt 0x090 { add with ty := 0x61, b := 0x3FE, ext := 0x43 },
    form .vpack 0x091 { add with ty := 0x71, b := 0x3FE, ext := 0x343 },
    form .vunpk 0x092 { add with ty := 0x43, b := 0x3FE, ext := 0x361 },
    form .vbxdec 0x093 { add with ty := 0x43, ext := 15 },
    form .vbxenc 0x094 { add with ty := 0x43, ext := 7 },
    form .vflagsRd 0x095 { lane with ty := 0, dst := 5 },
    form (.laneHint 15) 0x3FF lane],
    ∃ g b, LaneReady p.1 p.2.1 p.2.2 batching g b := all_laneReady (by decide)

/-! ### Lane accesses, engine operations, copies and spawns -/

/-- Local scratchpad from its first byte, by the pair s4, s5. -/
def local_ (f : Batch → Batch := id) : State := batchingWith [(4, 0), (5, 0x80000000)] id f
/-- A load of v5 or store of v8 from [s4 + v7]. -/
def load : LaneF := { lane with ty := 0x33, dst := 5, a := 0x344, b := 7 }
def store : LaneF := { lane with ty := 0x33, a := 0x344, b := 7, c := 8 }
/-- No lane active. -/
def idle (b : Batch) : Batch := { b with mask := 0 }
/-- The lowest lane active. -/
def first (b : Batch) : Batch := { b with mask := 1 }

/-- LaneAccessesStart: every lane active, and none. -/
theorem test_witness_vlds : (∃ g b rs, LaneReady (.vlds load) 0x0C2 load local_ g b ∧
      LaneReaches local_ (laneIssOf 0x0C2 load local_ g b) ((laneIssOf 0x0C2 load local_ g b).use 1 .read 0 0) rs ∧
      g.wc.getD 1 0 < 255 ∧ (laneIssOf 0x0C2 load local_ g b).actives ≠ []) ∧
    ∃ g b rs, LaneReady (.vlds load) 0x0C2 load (local_ idle) g b ∧
      LaneReaches (local_ idle) (laneIssOf 0x0C2 load (local_ idle) g b) ((laneIssOf 0x0C2 load (local_ idle) g b).use 1 .read 0 0) rs ∧
      g.wc.getD 1 0 < 255 ∧ (laneIssOf 0x0C2 load (local_ idle) g b).actives = [] :=
  ⟨exists_laneReaching (fun g b _ => g.wc.getD 1 0 < 255 ∧ (laneIssOf 0x0C2 load local_ g b).actives ≠ []) (fun x => x.use 1 .read 0 0)
      (by decide),
   exists_laneReaching (fun g b _ => g.wc.getD 1 0 < 255 ∧ (laneIssOf 0x0C2 load (local_ idle) g b).actives = [])
      (fun x => x.use 1 .read 0 0) (by decide)⟩
/-- VLD from, and VST to, the writable page, the address in s4. -/
def page (f : Batch → Batch := id) : State := batchingWith [(4, 0x40000)] id f
theorem test_witness_vld : ∃ g b rs, LaneReady (.vld load) 0x0C0 load (page first) g b ∧
    LaneReaches (page first) (laneIssOf 0x0C0 load (page first) g b) ((laneIssOf 0x0C0 load (page first) g b).use 0 .read 0 0) rs ∧
    g.wc.getD 0 0 < 255 ∧ (laneIssOf 0x0C0 load (page first) g b).actives ≠ [] :=
  exists_laneReaching (fun g b _ => g.wc.getD 0 0 < 255 ∧ (laneIssOf 0x0C0 load (page first) g b).actives ≠ [])
    (fun x => x.use 0 .read 0 0) (by decide)
theorem test_witness_vst : ∃ g b rs, LaneReady (.vst store) 0x0C1 store (page first) g b ∧
    LaneReaches (page first) (laneIssOf 0x0C1 store (page first) g b) ((laneIssOf 0x0C1 store (page first) g b).use 0 .write 0 0) rs ∧
    g.wc.getD 2 0 < 255 ∧ (laneIssOf 0x0C1 store (page first) g b).actives ≠ [] :=
  exists_laneReaching (fun g b _ => g.wc.getD 2 0 < 255 ∧ (laneIssOf 0x0C1 store (page first) g b).actives ≠ [])
    (fun x => x.use 0 .write 0 0) (by decide)
theorem test_witness_vsts : ∃ g b rs, LaneReady (.vsts store) 0x0C3 store (local_ first) g b ∧
    LaneReaches (local_ first) (laneIssOf 0x0C3 store (local_ first) g b) ((laneIssOf 0x0C3 store (local_ first) g b).use 1 .write 0 0) rs ∧
    g.wc.getD 2 0 < 255 ∧ (laneIssOf 0x0C3 store (local_ first) g b).actives ≠ [] :=
  exists_laneReaching (fun g b _ => g.wc.getD 2 0 < 255 ∧ (laneIssOf 0x0C3 store (local_ first) g b).actives ≠ [])
    (fun x => x.use 1 .write 0 0) (by decide)
/-- VATOM.cas of v8 and v9 on scratchpad, returning. -/
def atom : LaneF := { lane with ty := 0x33, dst := 5, a := 0x344, b := 7, c := 8, ext := 7 }
theorem test_witness_vatom : ∃ g b rs, LaneReady (.vatom atom) 0x0C4 atom (local_ first) g b ∧
    LaneReaches (local_ first) (laneIssOf 0x0C4 atom (local_ first) g b) ((laneIssOf 0x0C4 atom (local_ first) g b).use 2 .atomic 0 7) rs ∧
    g.wc.getD 1 0 < 255 ∧ ∀ r ∈ rs, 2 ^ 63 ≤ r.addr :=
  exists_laneReaching (fun g _ rs => g.wc.getD 1 0 < 255 ∧ ∀ r ∈ rs, 2 ^ 63 ≤ r.addr) (fun x => x.use 2 .atomic 0 7) (by decide)
/-- FullEmptyAccessesWaitAndAreServed: the lane forms, and a suspended one whose accesses are all served. -/
theorem test_witness_lane_fe : (∃ g b rs, LaneReady (.vlds { load with mode := 2 }) 0x0C2 { load with mode := 2 } local_ g b ∧
      LaneReaches local_ (laneIssOf 0x0C2 { load with mode := 2 } local_ g b)
        ((laneIssOf 0x0C2 { load with mode := 2 } local_ g b).use 1 .read 2 0) rs ∧
      g.wc.getD 1 0 < 255 ∧ (laneIssOf 0x0C2 { load with mode := 2 } local_ g b).actives ≠ []) ∧
    ∃ g b rs, LaneReady (.vsts { store with mode := 1 }) 0x0C3 { store with mode := 1 } local_ g b ∧
      LaneReaches local_ (laneIssOf 0x0C3 { store with mode := 1 } local_ g b)
        ((laneIssOf 0x0C3 { store with mode := 1 } local_ g b).use 1 .write 1 0) rs ∧
      g.wc.getD 2 0 < 255 ∧ (laneIssOf 0x0C3 { store with mode := 1 } local_ g b).actives ≠ [] :=
  ⟨exists_laneReaching (fun g b _ => g.wc.getD 1 0 < 255 ∧ (laneIssOf 0x0C2 { load with mode := 2 } local_ g b).actives ≠ [])
      (fun x => x.use 1 .read 2 0) (by decide),
   exists_laneReaching (fun g b _ => g.wc.getD 2 0 < 255 ∧ (laneIssOf 0x0C3 { store with mode := 1 } local_ g b).actives ≠ [])
      (fun x => x.use 1 .write 1 0) (by decide)⟩
/-- A batch whose instruction is suspended in a block. -/
def suspendedIn (k : Block) : State := batchingWith [] id fun b => { b with block := k }
theorem test_witness_lane_resumes : (∃ gb, issuingBatch (suspendedIn (.fe 9)) = some gb ∧ (gb.2.block = .fe 9 ∧
      feWaits (suspendedIn (.fe 9)) 9 = false)) ∧ wellFormed (.vlds { load with mode := 1 }) = true ∧
    (∃ gb, issuingBatch (suspendedIn (.engine 9)) = some gb ∧ (gb.2.block = .engine 9 ∧ engWaits (suspendedIn (.engine 9)) 9 = false)) ∧
    ∃ gb, issuingBatch (suspendedIn (.copy 9)) = some gb ∧ (gb.2.block = .copy 9 ∧ copyWaits (suspendedIn (.copy 9)) 9 = false) :=
  ⟨exists_some _ (by decide), by decide, exists_some _ (by decide), exists_some _ (by decide)⟩

/-- EngineInstructionsStart: MMA of fragments and of scratchpad rows, MMAB, ACCRD and ACCWR, with lanes and without. -/
def mma : LaneF := { lane with ty := 0, a := 0x10, b := 0x304, ext := 5 }
def mmaRows : LaneF := { lane with ty := 0, a := 7, b := 8, ext := 8 }
/-- Slot, types and tokens allow a pass, whose rows lie in the allocation. -/
abbrev passAllowed (s : State) (op : Nat) (l : LaneF) (diag : Bool) (g : Group) (b : Batch) : Prop :=
  typesOk b.fmt diag = true ∧ slotGranted s g.vd ((laneIssOf op l s g b).ext % 4) = true ∧ tokShare s g.vd ≠ 0 ∧
  wc3Full s (laneIssOf op l s g b).g = false ∧ ∀ q ∈ (laneIssOf op l s g b).quarters, ((laneIssOf op l s g b).word 0x23 (laneIssOf op l s g b).l.b q.2).toNat < g.accRows
theorem test_witness_mma : (∃ g b, LaneReady (.mma mma) 0x100 mma batching g b ∧
      (passAllowed batching 0x100 mma false g b ∧ (laneIssOf 0x100 mma batching g b).quarters ≠ [])) ∧
    (∃ g b, LaneReady (.mma mmaRows) 0x100 mmaRows batching g b ∧ (passAllowed batching 0x100 mmaRows false g b ∧
      (laneIssOf 0x100 mmaRows batching g b).extBit 3 = true ∧ ∀ q ∈ (laneIssOf 0x100 mmaRows batching g b).quarters,
        (laneIssOf 0x100 mmaRows batching g b).aRow q.2 < (laneIssOf 0x100 mmaRows batching g b).g.spRows ∧
        emptyAt batching (laneIssOf 0x100 mmaRows batching g b).g (384 * (laneIssOf 0x100 mmaRows batching g b).aRow q.2) 384 3 = none)) ∧
    ∃ g b, LaneReady (.mmab mma) 0x101 mma (batchingWith [] id idle) g b ∧ (passAllowed (batchingWith [] id idle) 0x101 mma true g b ∧
      (laneIssOf 0x101 mma (batchingWith [] id idle) g b).quarters = []) :=
  ⟨exists_laneReady _ (by decide), exists_laneReady _ (by decide), exists_laneReady _ (by decide)⟩
def accrd : LaneF := { lane with ty := 0, dst := 5, a := 7, b := 0x3FF, imm := 127 }
def accwr : LaneF := { lane with ty := 0, a := 7, b := 0x3FF, c := 8, imm := 127 }
theorem test_witness_acc : (∃ g b, LaneReady (.accrd accrd) 0x102 accrd batching g b ∧
      ((∀ n ∈ (laneIssOf 0x102 accrd batching g b).actives, ((laneIssOf 0x102 accrd batching g b).word 0x23 7 n).toNat < g.accRows ∧
        ((laneIssOf 0x102 accrd batching g b).word 0x23 0x3FF n).toNat ≤ 127) ∧ (laneIssOf 0x102 accrd batching g b).actives ≠ [])) ∧
    ∃ g b, LaneReady (.accwr accwr) 0x103 accwr batching g b ∧
      ((∀ n ∈ (laneIssOf 0x103 accwr batching g b).actives, ((laneIssOf 0x103 accwr batching g b).word 0x23 7 n).toNat < g.accRows ∧
        ((laneIssOf 0x103 accwr batching g b).word 0x23 0x3FF n).toNat ≤ 127) ∧ (laneIssOf 0x103 accwr batching g b).actives ≠ []) :=
  ⟨exists_laneReady _ (by decide +kernel), exists_laneReady _ (by decide +kernel)⟩
theorem test_witness_scalar_engine : (∃ g ix sp, ScalarReady (.mloadb 3 4 6 0 0) (engineUses [4, 5, 6] 0x02) (rich [(4, 0x40000), (6, 0xF0000)]) g ix sp ∧
      ((g.sval ix 6).extractLsb' 20 12 = 0 ∧ (g.sval ix 6).extractLsb' 12 4 = 0 ∧
        loadSrcBreach (rich [(4, 0x40000), (6, 0xF0000)]) g false (pairAt g ix 4).toNat = none ∧ wc3Full (rich [(4, 0x40000), (6, 0xF0000)]) g = false ∧
        loadSpadBreach (rich [(4, 0x40000), (6, 0xF0000)]) g (pairAt g ix 4).toNat (384 * 128) = none ∧
        g.core ∈ (((rich [(4, 0x40000), (6, 0xF0000)]).vd g.vd).part.map (·.cores)).getD [] ∧
        slotGranted (rich [(4, 0x40000), (6, 0xF0000)]) g.vd 3 = true ∧
        placeOf (rich [(4, 0x40000), (6, 0xF0000)]) g (pairAt g ix 4).toNat = .dev 0x40000)) ∧
    (∃ g ix sp, ScalarReady (.mmas 3 4 1 0) (engineUses [4, 5] 0x03) (rich [(4, 0x4E000)]) g ix sp ∧
      mmasBreach (rich [(4, 0x4E000)]) g 3 sp.fmt false (g.sval ix 4).toNat (g.sval ix 5).toNat = none) ∧
    (∃ g ix sp, ScalarReady (.accz 4 6 0) (engineUses [4, 6] 0x03) (rich [(4, 63), (6, 1)]) g ix sp ∧
      (1 ≤ (g.sval ix 6).toNat ∧ (g.sval ix 6).toNat ≤ 4096 ∧ (g.sval ix 4).toNat + (g.sval ix 6).toNat ≤ g.accRows)) ∧
    ∃ g ix sp, ScalarReady (.accst 2 4 6 0) (engineUses [2, 4, 6] 0x04) (rich [(2, 0x430001), (4, 63), (6, 14848)]) g ix sp ∧
      ((g.sval ix 2).extractLsb' 28 4 = 0 ∧ (g.sval ix 2).extractLsb' 9 7 = 0 ∧ ((g.sval ix 2).extractLsb' 16 8).toNat = 0x43 ∧
        (g.sval ix 4).toNat + 1 ≤ g.accRows ∧ (g.sval ix 6).toNat % 16 = 0 ∧ (g.sval ix 6).toNat + 512 ≤ 384 * g.spRows ∧
        spadSeal (rich [(2, 0x430001), (4, 63), (6, 14848)]) g (g.sval ix 6).toNat 512 = none) :=
  ⟨exists_ready _ (by decide +kernel), exists_ready _ (by decide +kernel), exists_ready _ (by decide +kernel), exists_ready _ (by decide +kernel)⟩

/-- EngineInstructionsStart: wc3 at its limit. -/
def full3 (s : State) : State := s.modGroup 0 fun g => { g with wc := [0, 0, 0, 255] }
theorem test_witness_at_limit : (∃ g b, LaneReady (.mma mma) 0x100 mma (full3 batching) g b ∧
      (wc3Full (full3 batching) (laneIssOf 0x100 mma (full3 batching) g b).g = true ∧
        (laneIssOf 0x100 mma (full3 batching) g b).quarters ≠ [])) ∧
    ∃ g ix sp, ScalarReady (.accz 4 6 0) (engineUses [4, 6] 0x03) (full3 (rich [(4, 63), (6, 1)])) g ix sp ∧
      wc3Full (full3 (rich [(4, 63), (6, 1)])) g = true :=
  ⟨exists_laneReady _ (by decide), exists_ready _ (by decide)⟩
/-- CopiesAndPanniersStart: LCOPY with every lane and with none; BCOPY of the longest local copy that fits. -/
def lcopy : LaneF := { lane with ty := 0x33, a := 0x344, b := 7, c := 8 }
theorem test_witness_lcopy : (∃ g b, LaneReady (.lcopy lcopy) 0x0C5 lcopy local_ g b ∧
      ((laneIssOf 0x0C5 lcopy local_ g b).actives ≠ [] ∧ (laneIssOf 0x0C5 lcopy local_ g b).ext / 256 % 64 < panCount local_ g.vd ∧
        (∀ n ∈ (laneIssOf 0x0C5 lcopy local_ g b).actives, lcopyBreach local_ (laneIssOf 0x0C5 lcopy local_ g b).g 4
          ((laneIssOf 0x0C5 lcopy local_ g b).address n) ((laneIssOf 0x0C5 lcopy local_ g b).word 0x23 8 n).toNat = none) ∧
        wc3Full local_ (laneIssOf 0x0C5 lcopy local_ g b).g = false ∧ (local_.core g.core).seals = [])) ∧
    ∃ g b, LaneReady (.lcopy lcopy) 0x0C5 lcopy (local_ idle) g b ∧ (laneIssOf 0x0C5 lcopy (local_ idle) g b).actives = [] :=
  ⟨exists_laneReady _ (by decide +kernel), exists_laneReady _ (by decide +kernel)⟩
/-- A BCOPY from local row 0 to row 20 on share 0 of pannier 0. -/
def copyRegs : List (Nat × Nat) := [(2, 7680), (3, 0), (4, 0), (5, 0x80000000), (6, 7680), (7, 0x80000000)]
theorem test_witness_bcopy : ∃ g ix sp, ScalarReady (.bcopy 2 4 6 0) (uses [2, 3, 4, 5, 6, 7] []) (rich copyRegs) g ix sp ∧
    wc3Full (rich copyRegs) g = false ∧
    CopyAllowed (rich copyRegs) g (g.sval ix 2).toNat (g.sval ix 3).toNat (pairAt g ix 4).toNat (pairAt g ix 6).toNat ∧
    copyClash (rich copyRegs) g [spanOf (rich copyRegs) g (placeOf (rich copyRegs) g (pairAt g ix 4).toNat) 7680]
      [spanOf (rich copyRegs) g (placeOf (rich copyRegs) g (pairAt g ix 6).toNat) 7680] true = none := by
  obtain ⟨g, ix, sp, h, h0, h1, h2, h3, h4, h5, h6, h7, h9⟩ := exists_ready (i := .bcopy 2 4 6 0) (u := uses [2, 3, 4, 5, 6, 7] [])
    (s := rich copyRegs) (fun g ix _ => wc3Full (rich copyRegs) g = false ∧
      ((g.sval ix 3).toNat / 2 ^ 12 = 0 ∧ (g.sval ix 3).toNat / 2 ^ 6 % 4 = 0) ∧ (g.sval ix 3).toNat % 64 < panCount (rich copyRegs) g.vd ∧
      (0 < (g.sval ix 2).toNat ∧ (g.sval ix 2).toNat ≤ 0xFFFFF0 ∧ (g.sval ix 2).toNat % 16 = 0) ∧
      (placeBreach (pairAt g ix 4).toNat = none ∧ (pairAt g ix 4).toNat % 16 = 0 ∧ peerBreach (rich copyRegs) g (pairAt g ix 4).toNat = none) ∧
      (placeBreach (pairAt g ix 6).toNat = none ∧ (pairAt g ix 6).toNat % 16 = 0 ∧ peerBreach (rich copyRegs) g (pairAt g ix 6).toNat = none) ∧
      ((pairAt g ix 4).toNat / 2 ^ 62 ≠ 3 ∧ (pairAt g ix 6).toNat / 2 ^ 62 ≠ 3) ∧
      sideBreach (rich copyRegs) g (pairAt g ix 4).toNat (pairAt g ix 6).toNat (g.sval ix 2).toNat = none ∧
      copyClash (rich copyRegs) g [spanOf (rich copyRegs) g (placeOf (rich copyRegs) g (pairAt g ix 4).toNat) 7680]
        [spanOf (rich copyRegs) g (placeOf (rich copyRegs) g (pairAt g ix 6).toNat) 7680] true = none) (by decide +kernel)
  exact ⟨g, ix, sp, h, h0, ⟨h1, h2, h3, h4, h5, fun h => absurd h h6.1, fun h => absurd h h6.2, h7⟩, h9⟩

/-! ### Panniers, spawns, marks, queues, notify registers -/

/-- CopiesAndPanniersStart: the last pannier armed over the last row; one of another state; and each release. -/
def armRegs : List (Nat × Nat) := [(4, 2 ^ 27 + 2 ^ 13 + 39), (5, 31), (6, 384)]
/-- Pannier 63 of core 0 in a state. -/
def pannier (st : PanState) (readers inflight : Nat) : State := (rich armRegs).modCore 0 fun k =>
  { k with pans := [(63, { Pannier.empty with state := st, vd := 1, team := some 0, readers := readers, inflight := inflight })] }
theorem test_witness_panarm : (∃ g ix sp, ScalarReady (.panarm 63 4 0) (uses [4, 5, 6] []) (rich armRegs) g ix sp ∧
      (63 < panCount (rich armRegs) g.vd ∧ (panAt (rich armRegs) g.core (panFirst (rich armRegs) g.vd + 63)).state = .free ∧
        (g.sval ix 4).getLsbD 31 = false ∧ ((g.sval ix 4).extractLsb' 27 4).toNat = 1 ∧
        descBreach g 1 ((List.range 3).map fun k => g.sval ix (4 + k)) = none)) ∧
    ∃ g ix sp, ScalarReady (.panarm 63 4 0) (uses [4, 5, 6] []) (pannier .filling 1 0) g ix sp ∧
      (panAt (pannier .filling 1 0) g.core (panFirst (pannier .filling 1 0) g.vd + 63)).state ≠ .free :=
  ⟨exists_ready _ (by decide), exists_ready _ (by decide)⟩
theorem test_witness_panrel : ∀ p ∈ [(PanState.full, 2, 0), (.full, 1, 0), (.full, 1, 1), (.filling, 1, 0)],
    ∃ g ix sp, ScalarReady (.panrel 63 0) {} (pannier p.1 p.2.1 p.2.2) g ix sp ∧
      ((panAt (pannier p.1 p.2.1 p.2.2) g.core 63).team = g.team ∧ (panAt (pannier p.1 p.2.1 p.2.2) g.core 63).state = p.1) := by
  have h : ∀ p ∈ [(PanState.full, 2, 0), (.full, 1, 0), (.full, 1, 1), (.filling, 1, 0)],
      splitMeets (pannier p.1 p.2.1 p.2.2) (fun g ix sp => readyB (.panrel 63 0) {} (pannier p.1 p.2.1 p.2.2) g ix sp &&
        decide ((panAt (pannier p.1 p.2.1 p.2.2) g.core 63).team = g.team ∧
          (panAt (pannier p.1 p.2.1 p.2.2) g.core 63).state = p.1)) = true := by decide
  exact fun p hp => exists_ready _ (h p hp)
theorem test_witness_panrel_wait : ∀ p ∈ [(PanState.full, true), (.filling, false)],
    ∃ g ix sp, ScalarReady (.panrelWait 63 0) {} (pannier p.1 1 0) g ix sp ∧ panIs (pannier p.1 1 0) g.vd g.core 63 .full = p.2 := by
  have h : ∀ p ∈ [(PanState.full, true), (.filling, false)], splitMeets (pannier p.1 1 0) (fun g ix sp =>
      readyB (.panrelWait 63 0) {} (pannier p.1 1 0) g ix sp && decide (panIs (pannier p.1 1 0) g.vd g.core 63 .full = p.2)) = true := by
    decide
  exact fun p hp => exists_ready _ (h p hp)

/-- BinsCollectFireAndFormGroups: an open bin with room, one that fires, one to open, none to open, and no lane. -/
def vspawn : LaneF := { lane with ty := 0, a := 7, b := 8, ext := 16383 }
/-- A spawn bin of device 1 for entry index 16383, and one for another. -/
def bin (k n : Nat) (code : Nat := 16383) : Bin :=
  { bix := k, kind := .spawn, vd := 1, gen := 0, lid := 1, code := code, fired := false, args := List.replicate n (0#32, 0), timerAt := 0,
    timer := 0, contribs := [], declared := 0, live := 0, arrivals := 0, records := [], launch := loadLaunch, tracker := none }
def binned (l : List Bin) (f : Batch → Batch := first) : State := (batchingWith [] id f).modCore 0 fun k => { k with bins := l }
/-- What VSPAWN asks of its batch and its lanes. -/
abbrev spawns (s : State) (g : Group) (b : Batch) : Prop :=
  b.served = 0 ∧ binGrant s g.vd ≠ 0 ∧ ∀ n ∈ (laneIssOf 0x0E0 vspawn s g b).actives,
    (laneIssOf 0x0E0 vspawn s g b).ext + ((laneIssOf 0x0E0 vspawn s g b).word 0x23 7 n).toNat < g.launch.slen
theorem test_witness_vspawn : (∃ g b, LaneReady (.vspawn vspawn) 0x0E0 vspawn (binned [] idle) g b ∧
      (spawns (binned [] idle) g b ∧ (laneIssOf 0x0E0 vspawn (binned [] idle) g b).actives = [])) ∧
    (∃ g b, LaneReady (.vspawn vspawn) 0x0E0 vspawn (binned [bin 2 94]) g b ∧ (spawns (binned [bin 2 94]) g b ∧
      (laneIssOf 0x0E0 vspawn (binned [bin 2 94]) g b).actives = [0] ∧ spawnBin (binned [bin 2 94]) g 16383 = some (bin 2 94) ∧
      (bin 2 94).args.length + ((laneIssOf 0x0E0 vspawn (binned [bin 2 94]) g b).depositsFor 16383).length < 96 ∧
      ((binned [bin 2 94]).core g.core).bins.filter (fun d => d.bix == (bin 2 94).bix) = [bin 2 94])) ∧
    (∃ g b, LaneReady (.vspawn vspawn) 0x0E0 vspawn (binned [bin 2 95]) g b ∧ (spawns (binned [bin 2 95]) g b ∧
      (laneIssOf 0x0E0 vspawn (binned [bin 2 95]) g b).actives = [0] ∧ spawnBin (binned [bin 2 95]) g 16383 = some (bin 2 95) ∧
      (bin 2 95).args.length = 95)) ∧
    (∃ g b, LaneReady (.vspawn vspawn) 0x0E0 vspawn (binned [bin 0 1 5]) g b ∧ (spawns (binned [bin 0 1 5]) g b ∧
      (laneIssOf 0x0E0 vspawn (binned [bin 0 1 5]) g b).actives = [0] ∧ spawnBin (binned [bin 0 1 5]) g 16383 = none ∧
      freeBin (binned [bin 0 1 5]) g.core g.vd = some 1)) ∧
    ∃ g b, LaneReady (.vspawn vspawn) 0x0E0 vspawn (binned ((List.range 8).map fun k => bin k 1 k)) g b ∧
      (spawns (binned ((List.range 8).map fun k => bin k 1 k)) g b ∧
      (laneIssOf 0x0E0 vspawn (binned ((List.range 8).map fun k => bin k 1 k)) g b).actives = [0] ∧
      spawnBin (binned ((List.range 8).map fun k => bin k 1 k)) g 16383 = none ∧
      freeBin (binned ((List.range 8).map fun k => bin k 1 k)) g.core g.vd = none) :=
  ⟨exists_laneReady _ (by decide), exists_laneReady _ (by decide), exists_laneReady _ (by decide), exists_laneReady _ (by decide),
   exists_laneReady _ (by decide)⟩

/-- MarksArePutMovedAndHandedOver: a scratchpad tile of the last row, a device tile, marks held and in a move, a move to core 1. -/
def markRegs : List (Nat × Nat) := [(2, 1), (4, 9), (6, 0), (8, 39 * 384), (9, 0x80000000), (10, 384), (11, 16383), (12, 0x40000), (14, 1),
  (18, 0x40000), (20, 0x40000)]
def mark (st : MarkState) (ix : Nat) (answered : List Nat := []) : Mark :=
  { ix := ix, state := st, vd := 1, gen := 0, mark := 9, base := 0x40000, len := 1, resp := 5, lid := 1, launch := loadLaunch,
    answered := answered, row := 0, team := none, move := if st = .held then none else some 3 }
/-- The directory may act. -/
abbrev opened (s : State) (g : Group) (ix : Nat) (sp : Split) : Prop :=
  acqPending s g.gid g.vd (scalarOrd s ix sp) false = false ∧ fencedLoad s g.gid (scalarOrd s ix sp) = false ∧
    dirLate s g.core (dirInsn g.slot) = false
def marked (l : List Mark) : State := (rich markRegs).modCore 0 fun k => { k with marks := l }
theorem test_witness_markput : (∃ g ix sp, ScalarReady (.markput 4 8 0) (uses [4, 5, 8, 9, 10, 11] []) (marked []) g ix sp ∧
      (opened (marked []) g ix sp ∧ tileBreach g (g.sval ix 8).toNat (g.sval ix 9).toNat (g.sval ix 10).toNat (g.sval ix 11).toNat = none ∧
        (g.sval ix 11).toNat < g.launch.slen ∧ markFind (marked []) g.core g.vd (pairAt g ix 4) (tileBase g (pairAt g ix 8)) = none ∧
        freeMark (marked []) g.core g.vd = some 0)) ∧
    ∃ g ix sp, ScalarReady (.markput 4 12 0) (uses [4, 5, 12, 13, 14, 15] []) (marked [{ mark .held 0 with mark := 8 }]) g ix sp ∧
      (opened (marked [{ mark .held 0 with mark := 8 }]) g ix sp ∧ tileBreach g (g.sval ix 12).toNat (g.sval ix 13).toNat (g.sval ix 14).toNat (g.sval ix 15).toNat = none ∧
        (g.sval ix 15).toNat < g.launch.slen ∧
        markFind (marked [{ mark .held 0 with mark := 8 }]) g.core g.vd (pairAt g ix 4) (tileBase g (pairAt g ix 12)) = none ∧
        freeMark (marked [{ mark .held 0 with mark := 8 }]) g.core g.vd = some 1) :=
  ⟨exists_ready _ (by decide +kernel), exists_ready _ (by decide +kernel)⟩
theorem test_witness_markdrop : ∀ l ∈ [[], [mark .held 4095], [mark .transit 4095]],
    ∃ g ix sp, ScalarReady (.markdrop 4 12 0) (uses [4, 5, 12, 13] []) (marked l) g ix sp ∧
      (opened (marked l) g ix sp ∧ markFind (marked l) g.core g.vd (pairAt g ix 4) (tileBase g (pairAt g ix 12)) = l.head?) := by
  have h : ∀ l ∈ [[], [mark .held 4095], [mark .transit 4095]],
      splitMeets (marked l) (fun g ix sp => readyB (.markdrop 4 12 0) (uses [4, 5, 12, 13] []) (marked l) g ix sp &&
        decide (opened (marked l) g ix sp ∧ markFind (marked l) g.core g.vd (pairAt g ix 4) (tileBase g (pairAt g ix 12)) = l.head?)) =
        true := by decide
  exact fun l hl => exists_ready _ (h l hl)
theorem test_witness_markmove : ∃ g ix sp, ScalarReady (.markmove 2 4 18 0) { reads := [2, 4, 5, 18, 19, 20, 21], ban := 2 }
    (marked [mark .held 4095]) g ix sp ∧ ((g.sval ix 2).toNat ∈ coresOf (marked [mark .held 4095]) g.vd ∧ (g.sval ix 2).toNat ≠ g.core ∧
      markFind (marked [mark .held 4095]) g.core g.vd (pairAt g ix 4) (tileBase g (pairAt g ix 18)) = some (mark .held 4095) ∧
      (movedBase (marked [mark .held 4095]) g ((tileBase g (pairAt g ix 18)).getLsbD 63) (g.sval ix 2).toNat 1 (pairAt g ix 20)).isSome =
        true ∧ opened (marked [mark .held 4095]) g ix sp ∧ g.wc.getD 3 0 < 255) := exists_ready _ (by decide)
/-- A later event of the directory has happened in this cycle: the instruction waits for the next. -/
theorem test_witness_directory_late : ∃ g ix sp, ScalarReady (.markdrop 4 12 0) (uses [4, 5, 12, 13] [])
    ((marked []).modCore 0 fun k => { k with dirTurn := (k.cyc, 600) }) g ix sp ∧
    dirLate ((marked []).modCore 0 fun k => { k with dirTurn := (k.cyc, 600) }) g.core (dirInsn g.slot) = true := exists_ready _ (by decide)

/-- The split's lane work has drained. -/
abbrev settled (s : State) (g : Group) (ix : Nat) (sp : Split) : Prop := (∀ b ∈ g.batches, b.split ≠ ix) ∧ 3 * sp.laneReady ≤ s.now g.core
/-- SolicitationsAskResolveAndCount: SOLICIT.or of the die's cores, its work drained or not, and CENSUS of its entry. -/
theorem test_witness_solicit : (∃ g ix sp, ScalarReady (.solicit 63 4 64 14 0) (uses [4, 5, 64] [63]) (rich []) g ix sp ∧
      (censusGrant (rich []) g.vd ≠ 0 ∧ settled (rich []) g ix sp ∧ fenceReady (rich []) g.gid ix 4 0 (rich []).fresh = true ∧
        freeCensus (rich []) g.core g.vd = some 0)) ∧
    ∃ g ix sp, ScalarReady (.solicit 63 4 64 14 0) (uses [4, 5, 64] [63]) (furnish (queued 0 1) id) g ix sp ∧
      (censusGrant (furnish (queued 0 1) id) g.vd ≠ 0 ∧ ¬ settled (furnish (queued 0 1) id) g ix sp) :=
  ⟨exists_ready _ (by decide), exists_ready _ (by decide)⟩
/-- A solicitation from core 0, its token 2^16 in s5. -/
def solicit : Solicit :=
  { sid := 3, vd := 1, gen := 0, gid := 0, core := 0, ix := 0, seq := 1, op := 3, scope := 2, mark := 9, arg := 0, arriving := [0, 1],
    stuck := [], reported := 0, cores := 2, balance := 0, count := 0, value := 0, complete := false, named := none, orphan := false }
def asked (f : Solicit → Solicit) : State := { rich [(5, 2 ^ 16 + 0xF0)] with solicits := [f solicit] }
theorem test_witness_census : ∀ c ∈ [true, false], ∃ g ix sp, ScalarReady (.census 60 5 0) (uses [5] [60, 61, 62])
      (asked fun x => { x with complete := c }) g ix sp ∧
    (g.status = .running ∧ residentOn (asked fun x => { x with complete := c }) g.core g.vd = true ∧
      ((asked fun x => { x with complete := c }).solicits.find? (fun q => 2 ^ 16 * q.seq + 2 ^ 8 * q.core + q.ix ==
        (g.sval ix 5).toNat - 16 * ((g.sval ix 5).toNat / 16 % 16) &&
        q.gid == g.gid && q.named == none)).any (fun q => q.complete == c && !q.orphan &&
          decide ((asked fun x => { x with complete := c }).solicits.filter (fun r => r.sid == q.sid) = [q])) = true) := by
  have h : ∀ c ∈ [true, false], splitMeets (asked fun x => { x with complete := c }) (fun g ix sp =>
      readyB (.census 60 5 0) (uses [5] [60, 61, 62]) (asked fun x => { x with complete := c }) g ix sp && decide
      (g.status = .running ∧ residentOn (asked fun x => { x with complete := c }) g.core g.vd = true ∧
      ((asked fun x => { x with complete := c }).solicits.find? (fun q => 2 ^ 16 * q.seq + 2 ^ 8 * q.core + q.ix ==
        (g.sval ix 5).toNat - 16 * ((g.sval ix 5).toNat / 16 % 16) &&
        q.gid == g.gid && q.named == none)).any (fun q => q.complete == c && !q.orphan &&
          decide ((asked fun x => { x with complete := c }).solicits.filter (fun r => r.sid == q.sid) = [q])) = true)) = true := by decide
  exact fun c hc => exists_ready _ (h c hc)
def responding (s : State) : State := s.modGroup 0 fun g => { g with responder := some { sid := 3, sent := none, team := none } }
theorem test_witness_respond : (∃ g ix sp, ScalarReady (.respond 126 0) { reads := [126, 127], ban := 2 } (responding ready) g ix sp ∧
      (g.responder = some { sid := 3, sent := none, team := none } ∧ settled (responding ready) g ix sp)) ∧
    ∃ g ix sp, ScalarReady (.respond 4 0) { reads := [4, 5], ban := 2 } (responding (queued 0 1)) g ix sp ∧
      (g.responder = some { sid := 3, sent := none, team := none } ∧ ¬ settled (responding (queued 0 1)) g ix sp) :=
  ⟨exists_ready _ (by decide), exists_ready _ (by decide)⟩

/-- CancelCtrrdAndQpushStart: what reachAll reaches, and that nothing counts its accesses. -/
abbrev translated (s : State) (g : Group) (kind : AccKind) (width : Nat) (addrs : List Nat) : Option (List Reached) :=
  reachedBy (reachAll (issueState s g) (prunePend g (s.now g.core)) { space := 2, kind := kind, fe := 0, width := width, fid := 0x03 }
    (addrs.map fun a => (127, a)) [] none [] [])
theorem translates_of {s : State} {g : Group} {kind : AccKind} {width : Nat} {addrs : List Nat} {rs : List Reached}
    (h : translated s g kind width addrs = some rs) : Translates s g kind width addrs rs := by
  obtain ⟨t, ht⟩ := reachedBy_go h
  exact ⟨t, ht⟩
/-- The record at 0x4FFC0, or the counter block of the last 16 bytes of the page. -/
theorem test_witness_cancel : ∀ p ∈ [(Instr.cancelUnit 4 0, 0x4FFC0, 64, 0), (.cancelLaunch 4 0, 0x4FFF0, 16, 12),
      (.cancelGraph 4 0, 0x4FFF0, 16, 12), (.cancelPhase 4 0, 0x4FFF0, 16, 12), (.cancelJob 4 0, 0x4FFF0, 16, 12)],
    ∃ g ix sp, ScalarReady p.1 (uses [4, 5] []) (rich [(4, p.2.1)]) g ix sp ∧
      ((pairAt g ix 4).toNat < 2 ^ 52 ∧ (pairAt g ix 4).toNat % p.2.2.1 = 0 ∧ (rich [(4, p.2.1)]).memOk = true ∧
        (rich [(4, p.2.1)]).trackers = [] ∧ (rich [(4, p.2.1)]).stores = [] ∧
        (translated (rich [(4, p.2.1)]) g .write 4 [(pairAt g ix 4).toNat + p.2.2.2]).any (fun rs => rs.map (·.place) ==
          [Loc.hbm 1 (p.2.1 + p.2.2.2)] && (badLine (rich [(4, p.2.1)]) (Loc.hbm 1 (p.2.1 + p.2.2.2))).isNone) = true) := by
  have h : ∀ p ∈ [(Instr.cancelUnit 4 0, 0x4FFC0, 64, 0), (.cancelLaunch 4 0, 0x4FFF0, 16, 12),
      (.cancelGraph 4 0, 0x4FFF0, 16, 12), (.cancelPhase 4 0, 0x4FFF0, 16, 12), (.cancelJob 4 0, 0x4FFF0, 16, 12)],
    splitMeets (rich [(4, p.2.1)]) (fun g ix sp => readyB p.1 (uses [4, 5] []) (rich [(4, p.2.1)]) g ix sp && decide
      ((pairAt g ix 4).toNat < 2 ^ 52 ∧ (pairAt g ix 4).toNat % p.2.2.1 = 0 ∧ (rich [(4, p.2.1)]).memOk = true ∧
        (rich [(4, p.2.1)]).trackers = [] ∧ (rich [(4, p.2.1)]).stores = [] ∧
        (translated (rich [(4, p.2.1)]) g .write 4 [(pairAt g ix 4).toNat + p.2.2.2]).any (fun rs => rs.map (·.place) ==
          [Loc.hbm 1 (p.2.1 + p.2.2.2)] && (badLine (rich [(4, p.2.1)]) (Loc.hbm 1 (p.2.1 + p.2.2.2))).isNone) = true)) = true := by
    decide
  exact fun p hp => exists_ready _ (h p hp)
theorem test_witness_ctrrd : ∃ g ix sp, ScalarReady (.ctrrd 60 4 0) (uses [4, 5] [60, 61, 62, 63]) (rich [(4, 0x4FFF0)]) g ix sp ∧
    ((pairAt g ix 4).toNat < 2 ^ 52 ∧ (pairAt g ix 4).toNat % 16 = 0 ∧ g.wc.getD 0 0 < 255 ∧
      (translated (rich [(4, 0x4FFF0)]) g .read 16 [(pairAt g ix 4).toNat]).any (fun rs => rs.length == 1) = true) :=
  exists_ready _ (by decide)
theorem test_witness_qpush : ∀ p ∈ [(0x4FFC0, 0, 0), (14336, 0x80000000, 15)], ∃ g ix sp, ScalarReady (.qpush 3 8 4 (BitVec.ofNat 4 p.2.2) 0)
      (uses [8, 4, 5] [3]) (rich [(4, p.1), (5, p.2.1)]) g ix sp ∧
    (queueOf (rich [(4, p.1), (5, p.2.1)]) g.vd (g.sval ix 8).toNat = some queue ∧ pushBreach g (pairAt g ix 4).toNat (p.2.2 + 1) = none ∧
      g.wc.getD 2 0 < 255 ∧ (translated (rich [(4, p.1), (5, p.2.1)]) g .read 64 (if 2 ^ 63 ≤ (pairAt g ix 4).toNat then []
        else (List.range (p.2.2 + 1)).map fun k => (pairAt g ix 4).toNat + 64 * k)).isSome = true) := by
  have h : ∀ p ∈ [(0x4FFC0, 0, 0), (14336, 0x80000000, 15)], splitMeets (rich [(4, p.1), (5, p.2.1)]) (fun g ix sp =>
      readyB (.qpush 3 8 4 (BitVec.ofNat 4 p.2.2) 0) (uses [8, 4, 5] [3]) (rich [(4, p.1), (5, p.2.1)]) g ix sp && decide
    (queueOf (rich [(4, p.1), (5, p.2.1)]) g.vd (g.sval ix 8).toNat = some queue ∧ pushBreach g (pairAt g ix 4).toNat (p.2.2 + 1) = none ∧
      g.wc.getD 2 0 < 255 ∧ (translated (rich [(4, p.1), (5, p.2.1)]) g .read 64 (if 2 ^ 63 ≤ (pairAt g ix 4).toNat then []
        else (List.range (p.2.2 + 1)).map fun k => (pairAt g ix 4).toNat + 64 * k)).isSome = true)) = true := by decide
  exact fun p hp => exists_ready _ (h p hp)

/-- BinsCollectFireAndFormGroups: no bin yet, an open bin with room for all 96 lanes, no bin to open, lane work not drained. -/
def regroupRegs : List (Nat × Nat) := [(4, 2), (6, 8)]
def regroupBin : Bin := { bin 3 0 1 with kind := .regroup, declared := 96, live := 8, arrivals := 1 }
def regrouping (s : State) (l : List Bin) : State := s.modCore 0 fun k => { k with bins := l }
abbrev regroups (s : State) (g : Group) (ix : Nat) : Prop :=
  ix < 8 ∧ g.liveSplits.length ≤ 1 ∧ (g.sval ix 4).toNat = 2 ∧ (g.sval ix 6).toNat ≤ g.launch.vregs ∧ g.responder = none ∧ binGrant s g.vd ≠ 0
/-- A bin that has no room for 96 lanes more. -/
def fullBin : Bin := { regroupBin with contribs := [{ rank := 0, slot := 1, lanesIn := [([], 0, 0)], sregs := [], fmt := 0 }] }
/-- A group with a byte staged. -/
def stagedGroup : State := (rich regroupRegs).modHub fun h => { h with staged := [{ uid := 3, off := 130, byte := 1, vd := 1, writer := 0 }] }
theorem test_witness_regroup_full : (∃ g ix sp, ScalarReady (.regroup 4 6 0) { reads := [4, 6], ban := 2 }
        (regrouping (rich regroupRegs) [fullBin]) g ix sp ∧
      (regroups (regrouping (rich regroupRegs) [fullBin]) g ix ∧ settled (regrouping (rich regroupRegs) [fullBin]) g ix sp ∧
        groupDrained (issueState (regrouping (rich regroupRegs) [fullBin]) g) g 4 = true ∧
        regroupBinAt (regrouping (rich regroupRegs) [fullBin]) g 1 = some fullBin ∧ 96 < fullBin.size + 96 ∧
        freeBin (regrouping (rich regroupRegs) [fullBin]) g.core g.vd = some 0 ∧ fullBin.arrivals + 1 ≠ fullBin.declared)) ∧
    ∃ g ix sp, ScalarReady (.regroup 4 6 0) { reads := [4, 6], ban := 2 } stagedGroup g ix sp ∧
      (regroups stagedGroup g ix ∧ settled stagedGroup g ix sp ∧ groupDrained (issueState stagedGroup g) g 4 = true ∧
        stagedGroup.stagedLines g.vd g.gid = [(3, 128)]) :=
  ⟨exists_ready _ (by decide), exists_ready _ (by decide)⟩
theorem test_witness_regroup : (∃ g ix sp, ScalarReady (.regroup 4 6 0) { reads := [4, 6], ban := 2 } (rich regroupRegs) g ix sp ∧
      (regroups (rich regroupRegs) g ix ∧ settled (rich regroupRegs) g ix sp ∧ sp.pc + 1 < g.launch.slen ∧
        groupDrained (issueState (rich regroupRegs) g) g 4 = true ∧ regroupBinAt (rich regroupRegs) g 1 = none ∧
        freeBin (rich regroupRegs) g.core g.vd = some 0)) ∧
    (∃ g ix sp, ScalarReady (.regroup 4 6 0) { reads := [4, 6], ban := 2 } (regrouping (rich regroupRegs) [regroupBin]) g ix sp ∧
      (regroups (regrouping (rich regroupRegs) [regroupBin]) g ix ∧ settled (regrouping (rich regroupRegs) [regroupBin]) g ix sp ∧
        groupDrained (issueState (regrouping (rich regroupRegs) [regroupBin]) g) g 4 = true ∧
        regroupBinAt (regrouping (rich regroupRegs) [regroupBin]) g 1 = some regroupBin ∧ regroupBin.size + 96 ≤ 96 ∧
        regroupBin.arrivals + 1 ≠ regroupBin.declared)) ∧
    (∃ g ix sp, ScalarReady (.regroup 4 6 0) { reads := [4, 6], ban := 2 }
        (regrouping (rich regroupRegs) ((List.range 8).map fun k => bin k 1 5)) g ix sp ∧
      (regroups (regrouping (rich regroupRegs) ((List.range 8).map fun k => bin k 1 5)) g ix ∧
        settled (regrouping (rich regroupRegs) ((List.range 8).map fun k => bin k 1 5)) g ix sp ∧
        regroupBinAt (regrouping (rich regroupRegs) ((List.range 8).map fun k => bin k 1 5)) g 1 = none ∧
        freeBin (regrouping (rich regroupRegs) ((List.range 8).map fun k => bin k 1 5)) g.core g.vd = none)) ∧
    ∃ g ix sp, ScalarReady (.regroup 4 6 0) { reads := [4, 6], ban := 2 } (furnish (queued 0 1) (fun g => (g.sset 0 4 2).sset 0 6 8)) g ix sp ∧
      (regroups (furnish (queued 0 1) (fun g => (g.sset 0 4 2).sset 0 6 8)) g ix ∧
        ¬ settled (furnish (queued 0 1) (fun g => (g.sset 0 4 2).sset 0 6 8)) g ix sp) :=
  ⟨exists_ready _ (by decide), exists_ready _ (by decide), exists_ready _ (by decide), exists_ready _ (by decide)⟩

/-- WaitersAreServed: register 255 empty, and full; YDONE outside a handler, and in one in either phase. -/
def notified (l : List Notify) : State := (readyWith [(4, 255)]).modVd 1 fun d => { d with notify := l }
/-- One of slot 1 has joined the waiters of register 255 in the same cycle. -/
theorem test_witness_waitn_late : ∃ g ix sp, ScalarReady (.waitn 63 4 0) (uses [4] [63])
      ((notified []).modCore 0 fun k => { k with waitTurn := (k.cyc, 1, 1, 255) }) g ix sp ∧
    (waitLate ((notified []).modCore 0 fun k => { k with waitTurn := (k.cyc, 1, 1, 255) }) g (g.sval ix 4).toNat = true) := exists_ready _ (by decide)
theorem test_witness_waitn : (∃ g ix sp, ScalarReady (.waitn 63 4 0) (uses [4] [63]) (notified []) g ix sp ∧ ((g.sval ix 4).toNat < 256 ∧
      waitLate (notified []) g (g.sval ix 4).toNat = false ∧
      (∀ w ∈ ((notified []).vd g.vd).waiters, w.n ≠ 255) ∧ ∀ r ∈ ((notified []).vd g.vd).notify, r.n = 255 → r.full = false)) ∧
    ∃ g ix sp, ScalarReady (.waitn 63 4 0) (uses [4] [63]) (notified [{ n := 255, value := 7, full := true, ovr := false }]) g ix sp ∧
      (waitLate (notified [{ n := 255, value := 7, full := true, ovr := false }]) g (g.sval ix 4).toNat = false ∧
        (∀ w ∈ ((notified [{ n := 255, value := 7, full := true, ovr := false }]).vd g.vd).waiters, w.n ≠ 255) ∧
        ((notified [{ n := 255, value := 7, full := true, ovr := false }]).vd g.vd).notify.find?
          (fun r => r.n == (g.sval ix 4).toNat && r.full) = some { n := 255, value := 7, full := true, ovr := false } ∧
        residentOn (notified [{ n := 255, value := 7, full := true, ovr := false }]) g.core g.vd = true) :=
  ⟨exists_ready _ (by decide), exists_ready _ (by decide)⟩
/-- The handler split issues, in a phase. -/
def handling (resume : Bool) : State :=
  { (readyWith [] fun g => { g with handler := some { sp := { freeSplit with state := .running }, resume := resume, scode := 0x10000, slen := 16 } })
    with cur := some (.split 0 8) }
theorem test_witness_ydone : (∃ g ix sp, ScalarReady (.ydone 0) {} ready g ix sp ∧ (ix ≠ 8 ∧ g.status = .running)) ∧
    ∀ r ∈ [true, false], ∃ g ix sp, ScalarReady (.ydone 0) {} (handling r) g ix sp ∧
      (ix = 8 ∧ g.handler.any (fun h => h.resume == r) = true ∧ settled (handling r) g ix sp) := by
  have h : ∀ r ∈ [true, false], splitMeets (handling r) (fun g ix sp => readyB (.ydone 0) {} (handling r) g ix sp &&
      decide (ix = 8 ∧ g.handler.any (fun h => h.resume == r) = true ∧ settled (handling r) g ix sp)) = true := by decide
  exact ⟨exists_ready _ (by decide), fun r hr => exists_ready _ (h r hr)⟩

/-! ### The events of the porter and the engine -/

/-- A copy of 128 bytes from local row 0 to the only share of the filling pannier 0 in row 20. -/
def copying : State := after (.bcopy 2 4 6 0) ((rich [(2, 128), (3, 0), (4, 0), (5, 0x80000000), (6, 7680), (7, 0x80000000)]).modCore 0 fun k =>
  { k with pans := [(0, { Pannier.empty with state := .filling, vd := 1, team := some 0, first := 20, rows := 20, readers := 1, shares :=
      [{ prod := 0, expected := 128, claimed := 0, delivered := 0 }] })] })
/-- The copy of a state. -/
def copyOf (s : State) : Option Copy := s.copies.head?
/-- The copy changed. -/
def copyWith (s : State) (f : Copy → Copy) : State := { s with copies := s.copies.map f }
/-- The copy past step 4, its claim made. -/
def claimed : State := copyWith copying fun c => { c with claimed := true }
/-- A copy behind an earlier scratchpad store that has not been accepted. -/
def waitingCopy : State := { copying with stores := [{ element (.spad 0 0) .plain .queued with ord := { split := 0, born := 0, lane := false, seq := 0, ref := 0 } }] }
/-- PorterMovesCopies: admission in two steps, a portion, a delivery, the end of a read. -/
theorem test_witness_copy_admit : (∃ c g, copyOf copying = some c ∧ copying.group? c.gid = some g ∧
      (copying.copies.find? (fun k => k.id == c.id) = some c ∧ c.admitted = false ∧ c.claimed = false ∧ g.status = .running ∧
        g.frozen = false ∧ panIs copying c.vd c.panCore c.pan .filling = true ∧ residentOn copying c.panCore c.vd = true ∧
        copyBehind copying c = false ∧ peerSources c.all = [] ∧ spadAccepted copying c.gid c.ord.seq = true ∧
        acqPending copying c.gid c.vd c.ord false = false ∧ step4 copying g c = none)) ∧
    (∃ c g, copyOf waitingCopy = some c ∧ waitingCopy.group? c.gid = some g ∧
      (waitingCopy.copies.find? (fun k => k.id == c.id) = some c ∧ c.admitted = false ∧ c.claimed = false ∧ g.status = .running ∧
        g.frozen = false ∧ copyArmed waitingCopy c = true ∧ copyBehind waitingCopy c = false ∧ copyMay waitingCopy c = false)) ∧
    ∃ c g, copyOf claimed = some c ∧ claimed.group? c.gid = some g ∧
      (c.id = 2 ∧ c.admitted = false ∧ c.claimed = true ∧
        sealsFit claimed (copySeals claimed g c) = true ∧
        (takeEntries claimed c).isSome = true) :=
  ⟨exists_some₂ (f := fun c : Copy => copying.group? c.gid) _ (by decide),
   exists_some₂ (f := fun c : Copy => waitingCopy.group? c.gid) _ (by decide),
   exists_some₂ (f := fun c : Copy => claimed.group? c.gid) _ (by decide)⟩
/-- The copy admitted. -/
def moving : State := after (.copyAdmit 2) copying
theorem test_witness_copy_portion : ∃ c, copyOf (copyWith copying fun c => { c with admitted := true }) = some c ∧ (c.admitted = true ∧
    c.portions ≠ [] ∧ (takeEntries (copyWith copying fun c => { c with admitted := true }) c).isSome = true) := exists_some _ (by decide)
theorem test_witness_delivery : (∃ c g, copyOf moving = some c ∧ moving.group? c.gid = some g ∧ (c.read = [] ∧ c.core = 0 ∧ c.reading = [] ∧
      (intervalOf c 0 128).any (fun y => movable moving c y 0 128 && y.src == .localSp 0 && y.dst == .localSp 7680) = true ∧
      moving.memOk = true ∧ (∀ e ∈ moving.stores, e.stage = .point → e.loc.isSpad = true →
        e.meets (Loc.spad 0 (384 * c.spBase + 7680)).key 128 = false))) ∧ (moving.core 0).poison = [] :=
  ⟨exists_some₂ (f := fun c : Copy => moving.group? c.gid) _ (by decide), no_poison (by decide) 0⟩
theorem test_witness_read_end : ∃ c, copyOf (copyWith moving fun c => { c with reading := [(0, 5)], active := [] }) = some c ∧
    (c.admitted = true ∧ c.allRead = true ∧ c.reading = [(0, 5)]) := exists_some _ (by decide)

/-- An engine operation of group 0, numbered 9. -/
def engop (k : EngKind) : EngOp :=
  { id := 9, gid := 0, core := 0, slot := 0, vd := 1, gen := 0, who := 0, kind := k, issued := 0, admitted := true, admittedAt := 0, streaming := false,
    qflags := [], counted := true, pan := none, read := [], insn := 0, laneIns := false, spc := 0, lpc := 0, lane := 127, spBase := 0,
    spRows := 40, team := some 0, ord := { split := 0, born := 0, lane := false, seq := 1, ref := 0 } }
def engine (o : EngOp) : State := { rich [] with engops := [o] }
/-- A pass of slot 3 over one row, with types .i8. -/
def pass (rows : List PassRow) : EngKind := .pass 3 false false 0x1111 rows none
def passRow : PassRow := { src := .spad 39 0, acc := 63, quarter := 0 }
/-- EngineStreamsAndAccumulates. -/
theorem test_witness_engine_admit : ∃ o g, (engine { engop (.accz 63 1) with admitted := false }).engops.head? = some o ∧
    (engine { engop (.accz 63 1) with admitted := false }).group? o.gid = some g ∧ (o.admitted = false ∧ g.status = .running ∧
      g.frozen = false ∧ residentOn (engine { engop (.accz 63 1) with admitted := false }) o.core o.vd = true ∧ o.pan = none ∧
      queueRoom (engine { engop (.accz 63 1) with admitted := false }) o.core o.slot = true ∧
      spadAccepted (engine { engop (.accz 63 1) with admitted := false }) o.gid o.ord.seq = true ∧
      acqPending (engine { engop (.accz 63 1) with admitted := false }) o.gid o.vd o.ord false = false ∧
      portBehind (engine { engop (.accz 63 1) with admitted := false }) o = false ∧
      slotMissing (engine { engop (.accz 63 1) with admitted := false }) o = none ∧
      loadOut (engine { engop (.accz 63 1) with admitted := false }) o = none) :=
  exists_some₂ (f := fun o : EngOp => (engine { engop (.accz 63 1) with admitted := false }).group? o.gid) _ (by decide)
def asking : State := (engine (engop (pass [passRow]))).modHub fun h => { h with tokenReqs := [(0, 1)] }
theorem test_witness_token : asking.hub.tokenReqs.find? (fun r => r.1 == 0) = some (0, 1) ∧
    asking.hub.tokenReqs.find? (fun r => r.2 == 1) = some (0, 1) ∧ tokensHeld asking (some 1) < max 1 (tokShare asking 1) ∧
    tokensHeld asking none < tokenPool asking := by decide
/-- The core holds a token, slot 3 is ready, and the pass streams or not. -/
def streaming (b : Bool) : State := (engine { engop (pass [passRow]) with streaming := b }).modCore 0 fun k =>
  { k with slots := List.replicate 4 (.ready, 1), engine := { k.engine with token := some 1 } }
theorem test_witness_stream_start : ∃ o, oldestPass (streaming false) 0 = some o ∧ (o.slotNo = some 3 ∧ o.streaming = false ∧
    ((streaming false).core 0).engine.token = some o.vd ∧ loadBefore (engBefore (streaming false) o) o.vd 3 = false ∧
    slotOf (streaming false) 0 o.vd 3 = .ready) := exists_some _ (by decide)
/-- EngineStreamsAndAccumulates. -/
theorem test_witness_row_update : ∃ o, oldestPass (streaming true) 0 = some o ∧ (o.kind = pass [passRow] ∧ o.streaming = true ∧
    accBlocked (streaming true) o [63] [63] = false ∧ rowPoison (streaming true) o passRow false = none ∧ fmtA 0x1111 = 0x11) :=
  exists_some _ (by decide)
/-- EngineOperationsCompleteAndLoad: one of each kind. -/
theorem test_witness_engine_complete : ∀ k ∈ [EngKind.accz 0 4096, .accrd 5 [(95, 63, 127)] true, .accwr [(63, 127, 7)],
      .accst 63 1 14848 0x43 4 true, pass [], .mloadb 3 (.dev 0x40000) 8 false none [0] []],
    ∃ o, (engine (engop k)).engops.head? = some o ∧ ((engine (engop k)).engops.find? (fun p => p.id == o.id) = some o ∧ o.admitted = true ∧
      accBlocked (engine (engop k)) o o.accReads o.accWrites = false ∧ accReadPoison (engine (engop k)) o = none ∧ o.kind = k) := by
  have h : ∀ k ∈ [EngKind.accz 0 4096, .accrd 5 [(95, 63, 127)] true, .accwr [(63, 127, 7)],
      .accst 63 1 14848 0x43 4 true, pass [], .mloadb 3 (.dev 0x40000) 8 false none [0] []],
    (engine (engop k)).engops.head?.any (fun o => decide ((engine (engop k)).engops.find? (fun p => p.id == o.id) = some o ∧
      o.admitted = true ∧ accBlocked (engine (engop k)) o o.accReads o.accWrites = false ∧ accReadPoison (engine (engop k)) o = none ∧
      o.kind = k)) = true := by decide +kernel
  exact fun k hk => exists_some _ (h k hk)
theorem test_witness_accwr_accst : 127 < (accRow (engine (engop (.accwr [(63, 127, 7)]))) 0 63).1.length ∧
    portBusy (engine (engop (.accst 63 1 14848 0x43 4 true))) 0 14848 512 = false ∧ (engine (engop (.accst 63 1 14848 0x43 4 true))).memOk = true ∧
    (accRow (engine (engop (.accst 63 1 14848 0x43 4 true))) 0 63).1.length = 128 ∧ ((engine (engop (.accz 0 1))).group? 0).isSome := by
  decide +kernel
/-- EngineOperationsCompleteAndLoad: a target without a point, one to mark, one to write with the first 8 columns read. -/
def slotLoading (st : SlotState) (all : List Nat) : State :=
  (engine (engop (.mloadb 3 (.dev 0x40000) 8 false none all all))).modCore 0 fun k => { k with slots := List.replicate 4 (st, 1) }
theorem test_witness_slot_load : (∃ o, (slotLoading .invalid [1]).engops.head? = some o ∧ (o.admitted = true ∧
      (slotLoading .invalid [1]).parks = [] ∧ residentOn (slotLoading .invalid [1]) 1 o.vd = true ∧ pointOf (slotLoading .invalid [1]) o 1 = none)) ∧
    (∃ o, (slotLoading .invalid [0]).engops.head? = some o ∧ (o.admitted = true ∧ residentOn (slotLoading .invalid [0]) 0 o.vd = true ∧
      (pointOf (slotLoading .invalid [0]) o 0).any (fun p => !loadWaits (slotLoading .invalid [0]) p o.vd 3) = true ∧
      3 < ((slotLoading .invalid [0]).core 0).slots.length ∧ slotOf (slotLoading .invalid [0]) 0 o.vd 3 ≠ .loading)) ∧
    ∃ o, (slotLoading .loading [0]).engops.head? = some o ∧ (slotOf (slotLoading .loading [0]) 0 o.vd 3 = .loading ∧
      (slotLoading .loading [0]).memOk = true ∧
      (match readPieces (slotLoading .loading [0]) o (.dev 0x40000) none 0 3 .ok ((List.range 24).map (128 * ·)) with
       | (.bytes bs, s1) => decide ((s1.vd o.vd).fenced = ((slotLoading .loading [0]).vd o.vd).fenced ∧
           s1.mem = (slotLoading .loading [0]).mem ∧ s1.core 0 = (slotLoading .loading [0]).core 0 ∧
           (s1.vd o.vd).part = ((slotLoading .loading [0]).vd o.vd).part ∧ bs.length = 3072)
       | _ => false) = true) :=
  ⟨exists_some _ (by decide), exists_some _ (by decide), exists_some _ (by decide +kernel)⟩

/-! ### The events of marks, solicitations, responders, bins and units -/

/-- Move 3 of the mark from core 0 to core 1 at a stage, solicitation 3 waiting at the sender. -/
def move (st : MoveStage) (waiting forwards : List Nat) : Move :=
  { id := 3, vd := 1, gen := 0, gid := 0, src := 0, dst := 1, srcIx := 4, entry := { mark .arriving 0 with move := some 3 }, stage := st,
    late := [], waiting := waiting, forwards := forwards, op := 0 }
def handing (st : MoveStage) (waiting forwards : List Nat) (src dst : List Mark) : State :=
  { (asked id).modCore 0 (fun k => { k with marks := src }) |>.modCore 1 (fun k => { k with marks := dst }) with
    moves := [move st waiting forwards] }
/-- The arriving entry at the receiver. -/
def arrived (answered : List Nat) : Mark := { mark .arriving 7 answered with move := some 3 }
/-- MarksArePutMovedAndHandedOver: each stage; a forward that was answered, and one that was not. -/
theorem test_witness_move_install : (move .installing [] []).entry.move = some 3 ∧
    (∀ m ∈ ((handing .installing [] [] [mark .transit 4] []).core 1).marks, m.move ≠ some 3) ∧
    markFind (handing .installing [] [] [mark .transit 4] []) 1 1 9 0x40000 = none ∧
    freeMark (handing .installing [] [] [mark .transit 4] []) 1 1 = some 0 ∧ (handing .installing [] [] [mark .transit 4] []).solicits.all
      (fun x => x.arriving.contains 1) = true := by decide +kernel
theorem test_witness_move_steps :
    (handing .acking [3] [] [mark .transit 4] [arrived []]).moves.find? (fun m => m.id == 3) = some (move .acking [3] []) ∧
    ((handing .releasing [] [3] [] [arrived [3]]).solicits.find? (fun x => x.sid == 3)).isSome ∧
    ((handing .releasing [] [3] [] [arrived [3]]).core 1).marks.find? (fun m => m.move == some 3) = some (arrived [3]) ∧
    ((handing .releasing [] [3] [] [arrived []]).core 1).marks.find? (fun m => m.move == some 3) = some (arrived []) ∧
    (freeBin (handing .releasing [] [3] [] [arrived []]) 1 1).isSome ∧
    (handing .releasing [] [] [] [arrived []]).moves.find? (fun m => m.id == 3) = some (move .releasing [] []) := by decide

/-- SolicitationsAskResolveAndCount: no entry, one held and answered, one not answered, one arriving. -/
def solicited (l : List Mark) : State := (asked id).modCore 1 fun k => { k with marks := l }
theorem test_witness_resolve : ∀ l ∈ [[], [mark .held 0 [3]], [mark .held 0], [arrived []]], ∃ x,
    (solicited l).solicits.find? (fun x => x.sid == 3) = some x ∧ (1 ∈ x.arriving ∧ (solicited l).solicits.length = 1 ∧
      (∀ k ∈ x.stuck, k.1 ≠ 1) ∧ (marksOn (solicited l) 1 x.vd).filter (fun m => m.mark == x.mark) = l ∧
      (freeBin (solicited l) 1 x.vd).isSome = true) := by
  have h : ∀ l ∈ [[], [mark .held 0 [3]], [mark .held 0], [arrived []]], ((solicited l).solicits.find? (fun x => x.sid == 3)).any
    (fun x => decide (1 ∈ x.arriving ∧ (solicited l).solicits.length = 1 ∧ (∀ k ∈ x.stuck, k.1 ≠ 1) ∧
      (marksOn (solicited l) 1 x.vd).filter (fun m => m.mark == x.mark) = l ∧ (freeBin (solicited l) 1 x.vd).isSome = true)) = true := by
    decide
  exact fun l hl => exists_some _ (h l hl)
/-- The last report of a census, and a discharge; named by CENSUS or not. -/
def reporting (n : Option (Nat × Nat × Nat)) (r : Option Nat) : State :=
  { asked (fun x => { x with reported := 1, cores := 2, named := n }) with
    reports := [{ id := 5, sid := 3, gen := 0, vd := 1, report := r, value := some 0x7FFFFFFFFFFFFFFF, counts := true }] }
theorem test_witness_report : ∀ p ∈ [(none, some 0), (none, none), (some (0, 0, 61), some 0)], ∃ r x,
    (reporting p.1 p.2).reports.find? (fun r => r.id == 5) = some r ∧
    (reporting p.1 p.2).solicits.find? (fun x => x.sid == r.sid) = some x ∧
    ((reporting p.1 p.2).solicits.filter (fun x => x.sid == r.sid) = [x] ∧ x.orphan = false ∧ r.report = p.2 ∧ x.named = p.1 ∧
      ((reporting p.1 p.2).group? x.gid).any (fun g => g.status == .running && (g.split? 0).map (·.born) == some 0 &&
        residentOn (reporting p.1 p.2) g.core g.vd) = true) := by
  have h : ∀ p ∈ [(none, some 0), (none, none), (some (0, 0, 61), some 0)],
    ((reporting p.1 p.2).reports.find? (fun r => r.id == 5)).any (fun r =>
      ((reporting p.1 p.2).solicits.find? (fun x => x.sid == r.sid)).any fun x => decide
      ((reporting p.1 p.2).solicits.filter (fun x => x.sid == r.sid) = [x] ∧ x.orphan = false ∧ r.report = p.2 ∧ x.named = p.1 ∧
      ((reporting p.1 p.2).group? x.gid).any (fun g => g.status == .running && (g.split? 0).map (·.born) == some 0 &&
        residentOn (reporting p.1 p.2) g.core g.vd) = true)) = true := by decide
  exact fun p hp => exists_some₂ (f := fun r : Report => (reporting p.1 p.2).solicits.find? fun x => x.sid == r.sid) _ (h p hp)

/-- RespondersStartAndComplete. -/
def respRec : RespRec :=
  { seq := 2, sid := 3, base := 0x8000000000000180, len := 384, arg := 7, mark := 9, asker := 0, entry := 5, launch := loadLaunch, row := 1, team := some 0 }
def respBin : Bin := { bin 0 0 0 with kind := .responder, records := [respRec] }
def recorded : State := (rich []).modCore 1 fun k => { k with bins := [respBin] }
theorem test_witness_responder_start : hereNow recorded 1 1 = true ∧
    firstRecord recorded 1 1 = some (respBin, respRec) ∧ (freeSlots recorded 1 1).head? = some 0 ∧
    freeRows recorded 1 1 respRec.launch.vregs = some 0 := by decide +kernel
/-- A byte of group 0 staged for a window line. -/
def staging (s : State) : State := s.modHub fun h => { h with staged := [{ uid := 3, off := 130, byte := 1, vd := 1, writer := 0 }] }
/-- The group's splits have all ended. -/
def ended (s : State) (l : List OpRec := []) : State :=
  { s.modGroup 0 (fun g => { g with splits := List.replicate 8 freeSplit, wc := if l = [] then [0, 0, 0, 0] else [0, 0, 0, 1] }) with ops := l }
theorem test_witness_responder_complete : ∀ p ∈ [(ended (responding (asked id)), []), (staging (ended (responding (asked id))), [(3, 128)])],
    ∃ g x, p.1.group? 0 = some g ∧ p.1.solicits.find? (fun x => x.sid == 3) = some x ∧
    (g.responder = some { sid := 3, sent := none, team := none } ∧ g.status = .running ∧ g.liveSplits = [] ∧ g.handler = none ∧
      groupDrained p.1 g 4 = true ∧ p.1.stagedLines g.vd 0 = p.2) := by
  have h : ∀ p ∈ [(ended (responding (asked id)), []), (staging (ended (responding (asked id))), [(3, 128)])],
    (p.1.group? 0).any (fun g => (p.1.solicits.find? fun x => x.sid == 3).any fun _ => decide
      (g.responder = some { sid := 3, sent := none, team := none } ∧ g.status = .running ∧ g.liveSplits = [] ∧ g.handler = none ∧
      groupDrained p.1 g 4 = true ∧ p.1.stagedLines g.vd 0 = p.2)) = true := by decide
  exact fun p hp => exists_some₂ (f := fun _ => p.1.solicits.find? fun x => x.sid == 3) _ (h p hp)

/-- An open spawn bin whose timer has reached its value, at a cycle. -/
def timed (t : Nat) : State := (binned [{ bin 2 1 with timer := 1024 }]).modCore 0 fun k => { k with cyc := t }
/-- BinsCollectFireAndFormGroups: a timer that has just run out or is about to, a spawn bin and a regroup bin that formed. -/
theorem test_witness_bin_timer : ∀ t ∈ [0, 1], ∃ b, ((timed t).core 0).bins.find? (fun b => b.bix == 2) = some b ∧
    (b.kind = .spawn ∧ b.fired = false ∧ b.args ≠ [] ∧ residentOn (timed t) 0 b.vd = true ∧ ((timed t).vd b.vd).ctx = some context ∧
      b.timerAt ≤ (timed t).now 0 ∧ b.timer ≤ context.bintimer ∧
      (context.bintimer < b.timer + ((timed t).now 0 - b.timerAt) ∨ t = 0) ∧
      ((timed t).now 0 ≤ b.timerAt + (context.bintimer - b.timer) ∨ t = 1)) := by
  have h : ∀ t ∈ [0, 1], (((timed t).core 0).bins.find? (fun b => b.bix == 2)).any (fun b => decide
    (b.kind = .spawn ∧ b.fired = false ∧ b.args ≠ [] ∧ residentOn (timed t) 0 b.vd = true ∧ ((timed t).vd b.vd).ctx = some context ∧
      b.timerAt ≤ (timed t).now 0 ∧ b.timer ≤ context.bintimer ∧
      (context.bintimer < b.timer + ((timed t).now 0 - b.timerAt) ∨ t = 0) ∧
      ((timed t).now 0 ≤ b.timerAt + (context.bintimer - b.timer) ∨ t = 1))) = true := by decide
  exact fun t ht => exists_some _ (h t ht)
def contrib : Contrib := { rank := 4, slot := 0, lanesIn := List.replicate 96 ([1, 2], 0xFFFFFF, 0x1F), sregs := List.replicate 16 3, fmt := fmtReset }
def firedBin (k : BinKind) : Bin :=
  { bin 2 0 5 with kind := k, fired := true, args := if k = .spawn then List.replicate 96 (9, 1) else [], contribs := if k = .spawn then [] else [contrib],
                   declared := 1, live := 2, arrivals := 1 }
theorem test_witness_bin_forms : ∀ k ∈ [BinKind.spawn, .regroup], ∃ b, ((binned [firedBin k]).core 0).bins.find? (fun b => b.bix == 2) = some b ∧
    (b.fired = true ∧ hereNow (binned [firedBin k]) 0 b.vd = true ∧
      (freeSlots (binned [firedBin k]) 0 b.vd).head? = some 1 ∧ (freeRows (binned [firedBin k]) 0 b.vd b.launch.vregs).isSome = true ∧
      launchCancelled (binned [firedBin k]) b.vd b.launch = false ∧ b.kind = k ∧ b.args.length ≤ 96 ∧ b.live ≤ 256) := by
  have h : ∀ k ∈ [BinKind.spawn, .regroup], (((binned [firedBin k]).core 0).bins.find? (fun b => b.bix == 2)).any (fun b => decide
    (b.fired = true ∧ hereNow (binned [firedBin k]) 0 b.vd = true ∧
      (freeSlots (binned [firedBin k]) 0 b.vd).head? = some 1 ∧ (freeRows (binned [firedBin k]) 0 b.vd b.launch.vregs).isSome = true ∧
      launchCancelled (binned [firedBin k]) b.vd b.launch = false ∧ b.kind = k ∧ b.args.length ≤ 96 ∧ b.live ≤ 256)) = true := by
    decide +kernel
  exact fun k hk => exists_some _ (h k hk)

/-- GroupsRetireAndTasksStart: a group that may retire, and one with an operation left; a batch to start, one to resume. -/
def opLeft : OpRec := { op := 9, gid := 0, wc := 3, left := 1, insn := 0, laneIns := false, spc := 0, lpc := 0, who := 0, low := 0 }
theorem test_witness_retire : ∀ l ∈ [[], [opLeft]], ∃ g, (ended (rich []) l).group? 0 = some g ∧ (g.status = .running ∧ g.liveSplits = [] ∧
    g.handler = none ∧ g.responder = none ∧ groupDrained (ended (rich []) l) g 4 = decide (l = [])) := by
  have h : ∀ l ∈ [[], [opLeft]], ((ended (rich []) l).group? 0).any (fun g => decide (g.status = .running ∧ g.liveSplits = [] ∧
    g.handler = none ∧ g.responder = none ∧ groupDrained (ended (rich []) l) g 4 = decide (l = []))) = true := by decide
  exact fun l hl => exists_some _ (h l hl)
def unstarted : State := batchingWith [] id fun b => { b with started := false, pipe := none }
theorem test_witness_retire_staged : ∃ g, (staging (ended (rich []))).group? 0 = some g ∧ (g.status = .running ∧ g.liveSplits = [] ∧
    g.handler = none ∧ g.responder = none ∧ groupDrained (staging (ended (rich []))) g 4 = true ∧
    (staging (ended (rich []))).stagedLines g.vd 0 = [(3, 128)]) := exists_some _ (by decide)
theorem test_witness_batch_start : ∃ p, firstBatch (readyBatches unstarted 0 (pipeSlot unstarted 0 0)) = some p ∧
    (dueBefore unstarted 0 (3 * pipeSlot unstarted 0 0) = none ∧ pipeHeld unstarted 0 0 = false ∧ (readyBatches unstarted 0 (pipeSlot unstarted 0 0)).all (fun x => x.1.vd == p.1.vd) = true ∧
      unstarted.group? p.1.gid = some p.1) := exists_some _ (by decide)
def resumable : State := batchingWith [] id fun b => { b with suspended := true, block := .engine 9 }
theorem test_witness_batch_resume : ∃ g b, resumable.group? 0 = some g ∧ g.batch? 0 = some b ∧ (b.suspended = true ∧ g.frozen = false ∧
    groupIssues resumable g = true ∧ blockClear resumable b.block = true) :=
  exists_some₂ (f := fun g : Group => g.batch? 0) _ (by decide)

/-- GroupsRetireAndTasksStart: a task record at the head of the only queue. -/
def task : Parsed :=
  { pos := 0, kind := 1, cancelled := false, launch := { loadLaunch with sprows := 4, accrows := 4 }, index := 7, arg := 0x123456789, tile := 0x40000,
    succ := 0, entry := 5, counters := [], placed := 0, tracker := none }
def tasked : State := (rich []).modVd 1 fun d => { d with queues := [{ queue with parsed := [task], head := 1 }] }
theorem test_witness_unit_place : ((allQueues tasked).map fun x => (x.1, x.2.q)).foldl (cancelHeads 16) tasked = tasked ∧
    ∃ p, pickQueue tasked = some p ∧ (p.1 = 1 ∧ p.2.2.1 = task ∧ jobFault tasked 1 = none ∧ hereNow tasked p.2.2.2 1 = true ∧ freeSlots tasked p.2.2.2 1 ≠ [] ∧
    (freeRows tasked p.2.2.2 1 64).isSome = true ∧ (freeTeamRows tasked p.2.2.2 1 task.launch).isSome = true) :=
  ⟨by decide +kernel, exists_some _ (by decide +kernel)⟩

/-- The job counter block that the context names cannot be one. -/
def badJob : State := tasked.modVd 1 fun d => { d with ctx := some { context with jobctr := 0x90000 } }
theorem test_witness_job_fault : ((allQueues badJob).map fun x => (x.1, x.2.q)).foldl (cancelHeads 16) badJob = badJob ∧
    ∃ p, pickQueue badJob = some p ∧ (jobFault badJob p.1).isSome = true := ⟨by decide +kernel, exists_some _ (by decide +kernel)⟩

/-! ### The events of queues, notify registers, harts, evidence, debug and peers -/

theorem inHbm_of {s : State} {vd va a n : Nat} (h : (List.range n).all (fun j => ((s.vd vd).maps.find? (fun m => m.va ≤ va + j &&
    va + j < m.va + m.size)).any fun m => !m.self && m.loc == 0 && hbmAt m.runs (va + j - m.va) == a + j) = true) : InHbm s vd va a n := by
  intro j hj
  have := List.all_eq_true.1 h j (List.mem_range.2 hj)
  cases hm : (s.vd vd).maps.find? (fun m => m.va ≤ va + j && va + j < m.va + m.size) with
  | none => simp [hm] at this
  | some m =>
    simp only [hm, Option.any_some, Bool.and_eq_true, Bool.not_eq_true', beq_iff_eq] at this
    exact ⟨m, rfl, this.1.1, this.1.2, this.2⟩

/-- The next state of an outcome, or another. -/
def result (o : Out) (s : State) : State :=
  match o with
  | .next t => t
  | _ => s

/-- A push of one record at the last record of the page, at a stage, RES and CONS as given. -/
def pushing (stage : Nat) (res cons : Nat) : State :=
  let s := after (.qpush 3 8 4 0 0) (rich [(4, 0x4FFC0)])
  ({ s with pushes := s.pushes.map (fun p => { p with stage := stage }) } : State).putBytes (.hbm 1 0x42000)
    (natLe 4 0 ++ natLe 4 cons ++ natLe 4 res)
/-- PushesAndTheCourierMoveRecords: the last free position, none free, the copy, the publication. -/
theorem test_witness_push : ∀ q ∈ [(0, 15, 0), (0, 16, 0), (1, 0, 0), (2, 0, 0)], ∃ p, (pushing q.1 q.2.1 q.2.2).pushes.head? = some p ∧
    ((pushing q.1 q.2.1 q.2.2).pushes.find? (fun r => r.id == p.id && r.post.isNone) = some p ∧ (pushing q.1 q.2.1 q.2.2).memOk = true ∧
      deviceWorks (pushing q.1 q.2.1 q.2.2) p.vd = true ∧ p.stage = q.1 ∧ p.vd = 1 ∧ p.ctrl = 0x42000 ∧ p.base = 0x41000 ∧ p.size = 16 ∧
      p.count = 1 ∧ p.first = 0 ∧ p.reg = 3 ∧ p.src = some (.dev 0x4FFC0) ∧
      ((pushing q.1 q.2.1 q.2.2).group? p.gid).any (fun g => (g.split? p.split).isSome) = true ∧
      storesDone (pushing q.1 q.2.1 q.2.2) p.gid p.ord.seq 4 = true ∧ loadsDone (pushing q.1 q.2.1 q.2.2) p.gid p.ord = true ∧
      wordIn (pushing q.1 q.2.1 q.2.2) 1 (0x42000 + 8) = q.2.1 ∧ wordIn (pushing q.1 q.2.1 q.2.2) 1 (0x42000 + 4) = q.2.2 ∧
      (queueOf (pushing q.1 q.2.1 q.2.2) 1 p.q).isSome = true ∧ hubBad (pushing q.1 q.2.1 q.2.2) 1 0x4FFC0 64 = none ∧
      (hubBytes (pushing q.1 q.2.1 q.2.2) 1 0x4FFC0 64).toOption.isSome = true) := by
  have h : ∀ q ∈ [(0, 15, 0), (0, 16, 0), (1, 0, 0), (2, 0, 0)], (pushing q.1 q.2.1 q.2.2).pushes.head?.any (fun p => decide
    ((pushing q.1 q.2.1 q.2.2).pushes.find? (fun r => r.id == p.id && r.post.isNone) = some p ∧ (pushing q.1 q.2.1 q.2.2).memOk = true ∧
      deviceWorks (pushing q.1 q.2.1 q.2.2) p.vd = true ∧ p.stage = q.1 ∧ p.vd = 1 ∧ p.ctrl = 0x42000 ∧ p.base = 0x41000 ∧ p.size = 16 ∧
      p.count = 1 ∧ p.first = 0 ∧ p.reg = 3 ∧ p.src = some (.dev 0x4FFC0) ∧
      ((pushing q.1 q.2.1 q.2.2).group? p.gid).any (fun g => (g.split? p.split).isSome) = true ∧
      storesDone (pushing q.1 q.2.1 q.2.2) p.gid p.ord.seq 4 = true ∧ loadsDone (pushing q.1 q.2.1 q.2.2) p.gid p.ord = true ∧
      wordIn (pushing q.1 q.2.1 q.2.2) 1 (0x42000 + 8) = q.2.1 ∧ wordIn (pushing q.1 q.2.1 q.2.2) 1 (0x42000 + 4) = q.2.2 ∧
      (queueOf (pushing q.1 q.2.1 q.2.2) 1 p.q).isSome = true ∧ hubBad (pushing q.1 q.2.1 q.2.2) 1 0x4FFC0 64 = none ∧
      (hubBytes (pushing q.1 q.2.1 q.2.2) 1 0x4FFC0 64).toOption.isSome = true)) = true := by decide +kernel
  exact fun q hq => exists_some _ (h q hq)
theorem test_witness_push_mapped : InHbm (pushing 1 0 0) 1 0x42000 0x42000 12 ∧ InHbm (pushing 1 0 0) 1 0x41000 0x41000 (64 * 16) :=
  ⟨inHbm_of (by decide +kernel), inHbm_of (by decide +kernel)⟩

/-- A post that holds 64 records, or one, and the depot that it names. -/
def post : Queue := { queue with proxy := true, depot := 0x43000, logsz := 6 }
def depot : Queue := { queue with q := 1, base := 0x44000, ctrl := 0x43000, logsz := 6 }
def posting (held : Nat) : State :=
  ((rich []).modVd 1 fun d => { d with queues := [post, depot] }).putBytes (.hbm 1 0x42000) (natLe 4 held)
/-- PushesAndTheCourierMoveRecords. -/
theorem test_witness_courier : (∀ k ∈ [64, 1], (posting k).memOk = true ∧ queueOf (posting k) 1 0 = some post ∧
      courierMay (posting k) 1 post = true ∧ post.depot.toNat < 2 ^ 63 ∧ ((posting k).vd 1).queues.find? (fun x => x.ctrl == post.depot.toNat) = some depot ∧
      (wordIn (posting k) 1 0x42000 + 2 ^ 32 - wordIn (posting k) 1 (0x42000 + 4)) % 2 ^ 32 = k ∧
      hubFails (posting k) 1 ((post.ctrl, 12) :: (List.range 64).map fun j => (post.at_ j, 64)) = none ∧
      (wordIn (posting k) 1 (0x43000 + 8) + 2 ^ 32 - wordIn (posting k) 1 (0x43000 + 4)) % 2 ^ 32 + 64 ≤ depot.size) ∧
    InHbm (posting 64) 1 0x42000 0x42000 12 ∧ InHbm (posting 64) 1 0x41000 0x41000 (64 * post.size) ∧ InHbm (posting 64) 1 0x43000 0x43000 12 ∧
    InHbm (posting 64) 1 0x44000 0x44000 (64 * depot.size) :=
  ⟨by decide +kernel, inHbm_of (by decide +kernel), inHbm_of (by decide +kernel), inHbm_of (by decide +kernel), inHbm_of (by decide +kernel)⟩
def batched : State := result (execCourierTimeout 1 0 (posting 1)) (posting 1)
theorem test_witness_depot_publish : ∃ p k, batched.pushes.head? = some p ∧ queueOf batched p.vd p.q = some k ∧ (batched.memOk = true ∧
    batched.pushes.find? (fun r => r.id == p.id && r.post.isSome) = some p ∧ deviceWorks batched p.vd = true ∧ p.ctrl = 0x43000 ∧
    k.ctrl = 0x42000 ∧ p.vd = 1 ∧ wordIn batched 1 0x43000 = p.first.toNat) :=
  exists_some₂ (f := fun p : Push => queueOf batched p.vd p.q) _ (by decide +kernel)

/-- QueuesParseAndPassFences: a fence of one counter, a word that is no record; a fence whose counter has, or has not, reached it. -/
def ringed (record : List Byte) (parsed : List Parsed) : State :=
  (((rich []).modVd 1 fun d => { d with queues := [{ queue with parsed := parsed }] }).putBytes (.hbm 1 0x41000) record).putBytes (.hbm 1 0x42000)
    (natLe 4 1)
def fenceRecord : List Byte := natLe 4 0x30000000 ++ natLe 4 1 ++ natLe 8 0x4FFF0 ++ natLe 4 7
theorem test_witness_queue_parse : ∀ p ∈ [(fenceRecord, true), ([1], false)], queueOf (ringed p.1 []) 1 0 = some queue ∧ queue.proxy = false ∧
    queueStopped (ringed p.1 []) 1 0 = false ∧ deviceWorks (ringed p.1 []) 1 = true ∧ queue.head.toNat ≠ wordIn (ringed p.1 []) 1 0x42000 ∧
    hubFails (ringed p.1 []) 1 (parseReads (ringed p.1 []) 1 queue) = none ∧ ((ringed p.1 []).vd 1).ringSize ≠ 0 ∧
    (match parseRecord (ringed p.1 []) 1 queue.head.toNat (fun off n => hubNat (ringed p.1 []) 1 (queue.at_ queue.head.toNat + off) n) with
     | .ok r => p.2 && !r.cancelled && !r.over
     | .error _ => !p.2) = true := by decide +kernel
def fence (target : Nat) : Parsed := { task with kind := 3, counters := [(0x40000, target)] }
theorem test_witness_fence_record : ∀ n ∈ [0x10000, 0x10001], (ringed [] [fence n]).memOk = true ∧
    queueOf (ringed [] [fence n]) 1 0 = some { queue with parsed := [fence n] } ∧ deviceWorks (ringed [] [fence n]) 1 = true ∧
    queueStopped (ringed [] [fence n]) 1 0 = false ∧ firstOutside (ringed [] [fence n]) 1 0x40000 4 = none ∧
    hubFails (ringed [] [fence n]) 1 [(queue.ctrl, 12), (0x40000, 4)] = none ∧ hubNat (ringed [] [fence n]) 1 0x40000 4 = 0x10000 := by decide +kernel
/-- The same queue with a record that was dropped after one of its units, or none, had been placed (R330). -/
def begunAt (record : List Byte) : State :=
  (ringed record []).modVd 1 fun d => { d with queues := [{ queue with begun := [{ pos := 0, placed := 0, tracker := none, ended := false }] }] }
theorem test_witness_queue_begun : ∃ k, queueOf (begunAt fenceRecord) 1 0 = some k ∧ (k.proxy = false ∧
    queueStopped (begunAt fenceRecord) 1 0 = false ∧ deviceWorks (begunAt fenceRecord) 1 = true ∧ k.parsed = [] ∧
    k.begun.map (·.pos) = [k.head.toNat] ∧ k.begun.map (·.ended) = [false] ∧ k.head.toNat ≠ wordIn (begunAt fenceRecord) 1 0x42000 ∧
    hubFails (begunAt fenceRecord) 1 (parseReads (begunAt fenceRecord) 1 k) = none ∧
    (match parseRecord (begunAt fenceRecord) 1 k.head.toNat (fun off n => hubNat (begunAt fenceRecord) 1 (k.at_ k.head.toNat + off) n) with
     | .ok r => !r.cancelled && !({ r with placed := 0, tracker := none } : Parsed).over
     | .error _ => false) = true) := exists_some _ (by decide +kernel)

/-- WaitersAreServed: the host's store with no waiter, and with one. -/
def hosted (l : List Waiter) : State := ((rich []).modVd 1 fun d => { d with waiters := l }).modHub fun h => { h with vfEnable := true }
def waiter : Waiter := { n := 255, gid := 0, split := 0, reg := 63, ord := { split := 0, born := 0, lane := false, seq := 1, ref := 0 } }
theorem test_witness_notify : (hosted []).hub.vfEnable = true ∧ ((hosted []).vd 1).waiters.find? (fun w => w.n == 255) = none ∧
    ((hosted [waiter]).vd 1).waiters.find? (fun w => w.n == 255) = some waiter ∧ ((hosted [waiter]).group? 0).any (fun g =>
      residentOn (hosted [waiter]) g.core 1 && (g.split? 0).isSome) = true := by decide +kernel
/-- HartsRunAndReachMemory: hart 15 parked, and running with memory that it may and may not write. -/
def oasis (st : Nat) : State := ((rich []).modVd 1 fun d => { d with part := d.part.map fun p => { p with oasis := [15] } }).modHub fun h =>
  { h with harts := listSet h.harts 15 { Hart.reset with state := st } }
theorem test_witness_harts : hartDevice (oasis 0) 15 = some 1 ∧ deviceWorks (oasis 0) 1 = true ∧ (hartOf (oasis 0) 15).state ≠ 1 ∧
    15 < (oasis 0).hub.harts.length ∧ hartRuns (oasis 1) 15 = some 1 ∧ (oasis 1).memOk = true ∧ (oasis 1).hub.staged = [] ∧
    (∀ j, j < 4 → badLine (oasis 1) (.hbm 1 (0x4FFFC + j)) = none ∧ (hartPage (oasis 1) 1 (0x4FFFC + j)).any (·.w) = true ∧
      (hartPage (oasis 1) 1 (0x10000 + j)).any (fun p => p.x && !p.w) = true) := by decide +kernel
theorem test_witness_hart_mapped : InHbm (oasis 1) 1 0x4FFFC 0x4FFFC 4 ∧ InHbm (oasis 1) 1 0x10000 0 4 :=
  ⟨inHbm_of (by decide +kernel), inHbm_of (by decide +kernel)⟩
/-- EvidenceAndDebugAccess: functions 0 and 64, a token, a device that debug sees and one that it does not. -/
theorem test_witness_functions : functionExists State.reset 0 = true ∧ functionExists (hosted []) 64 = true := by decide
def debugged (mask : Nat) : State := ((rich []).modVd 1 fun d => { d with ctx := some { context with effMask := mask } }).modHub fun h =>
  { h with token := List.replicate 160 0 }
theorem test_witness_debug : (debugged 0).hub.token.length = 160 ∧ visible (debugged 0x10) 1 4 = true ∧ visible (debugged 0x0F) 1 4 = false ∧
    (debugged 0x10).memOk = true ∧ ((debugged 0x10).groups.find? (fun g => g.vd == 1 && g.core == 0 && g.slot == 0)).any
      (fun g => (debugWord g (.scalar 0 63)).isSome && (debugWord g (.scalar 8 127)).isSome && (debugWord g (.lane 0 95)).isSome &&
        (debugWord g (.lane 0x10F 0)).isSome && (debugWord g (.pred 86)).isSome && (debugWord g (.scalar 8 48)).isNone) = true := by decide +kernel
theorem test_witness_debug_mapped : InHbm (debugged 0x10) 1 0x4FFFC 0x4FFFC 4 := inHbm_of (by decide +kernel)
/-- PeersAreAdmittedOrFail: the port is up, the page exposed or not; flits before and at the 16th retry. -/
def peered (pexp : Bool) (retries : Nat) : State := ((rich []).modVd 1 fun d => { d with maps := [{ dataMapping with pexp := pexp, port := 15, pvd := 7 }] }).modHub
  fun h => { h with ports := listSet h.ports 15 { up := true, retries := retries, seq := 0 } }
theorem test_witness_peers : (portOf (peered true 15) 15).up = true ∧ peerAdmits (peered true 0) 15 7 1 0x4FFFC 4 true = true ∧
    peerAdmits (peered false 0) 15 7 1 0x4FFFC 4 false = false ∧ walkBad (peered false 0) 1 0x4FFFC = none ∧ walkBad (peered false 0) 1 0x4FFFF = none ∧ (peered true 0).memOk = true ∧ (portOf (peered true 15) 15).retries = 15 ∧
    (portOf (peered true 16) 15).retries = 16 ∧ 15 < (peered true 16).hub.ports.length := by decide +kernel
/-- A group's store to a peer's page, at its point of storage. -/
def peerStore : State := { storing (.peer 15 7 64) .plain .point with
  ops := [{ op := 7, gid := 0, wc := 3, left := 1, insn := 0, laneIns := false, spc := 0, lpc := 0, who := 0, low := 0 }] }
theorem test_witness_peer_store : ∃ e, peerStore.stores.find? (fun e => e.id == 7) = some e ∧ (e.stage = .point ∧ e.loc = .peer 15 7 64 ∧
    e.kind = .plain ∧ e.rel = none ∧ pointBehind peerStore e = false ∧ peerStore.memOk = true ∧
    peerStore.stores.filter (fun f => f.op == e.op && f.stage == .point && f.loc.line == e.loc.line) = [e] ∧
    (peerStore.ops.find? (fun r => r.op == e.op)).map (·.gid) = some e.gid ∧ (peerStore.group? e.gid).map (·.status) = some .running) :=
  exists_some _ (by decide +kernel)
theorem test_witness_peer_mapped : InHbm (peered true 0) 1 0x4FFFC 0x4FFFC 4 := inHbm_of (by decide +kernel)

/-! ### The reconciler's steps -/

/-- A 256-byte record of device 1 with the fields (offset, bytes, value) set. -/
def record (kind id : Nat) (l : List (Nat × Nat × Nat)) : List Byte :=
  ((0, 4, 2) :: (4, 4, 2 ^ 24 * kind + 2 ^ 8) :: (8, 4, id) :: l).foldl (fun b f => b.take f.1 ++ natLe f.2.1 f.2.2 ++ b.drop (f.1 + f.2.1))
    (List.replicate 256 (0 : Byte))
/-- A slot of domain 0 with a converged copy, a wanted one, or both. -/
def slot (ix kind id : Nat) (conv want : Option (List Byte)) (tvd : Nat := 1) : RSlot :=
  { RSlot.fresh 0 ix with state := if want.isSome then .pending else .converged, kind := kind, tvd := tvd, id := id, conv := conv, want := want, claims := true }
/-- The device is up, its partition and context have converged, and `l` are its further slots. -/
def managed (l : List RSlot) (f : VDev → VDev := id) : State :=
  ((rich []).modVd 1 fun d => f { d with frames := [(16, 64)] }).modHub fun h =>
    { h with boot := 4, slots := slot 0 1 0 (some (record 1 0 [])) none :: slot 1 2 0 (some (record 2 0 [])) none :: l }
/-- What NextChange asks. -/
abbrev nextIs (s : State) (vd : Nat) (b : List Byte) : Prop :=
  (nextStep s vd).1.any (fun p => !p.1 && p.2.want == some b && p.2.tvd == vd && !p.2.deleting) = true
theorem next_change {s : State} {vd : Nat} {b : List Byte} (h : nextIs s vd b) : ∃ r s1, NextChange s vd r b s1 := by
  unfold nextIs at h
  cases hn : nextStep s vd with
  | mk o s1 =>
    cases o with
    | none => simp [hn] at h
    | some p =>
      simp only [hn, Option.any_some, Bool.and_eq_true, Bool.not_eq_true', beq_iff_eq] at h
      exact ⟨p.2, s1, by rw [hn, ← h.1.1.1], h.1.1.2, h.1.2, h.2⟩

/-- A partition of core 5 in region 0, and one in region 7 that another device holds with other cores. -/
def partRecord (region : Nat) : List Byte :=
  record 1 0 [(0x30, 4, 32), (0x48, 4, 2 ^ 16 * region + 2 ^ 5), (0x4C, 4, 2 ^ 16 * 8)]
def fresh1 (b : List Byte) (other : Option Partition) : State :=
  { State.reset with hub := { Hub.reset with boot := 4, slots := [slot 0 1 0 none (some b)] }, vds := [(2, { VDev.reset with part := other })] }
/-- RecordsTakeEffect, a partition: it converges, or its region disagrees. -/
theorem test_witness_partition : nextIs (fresh1 (partRecord 0) none) 1 (partRecord 0) ∧
    regionDisagrees (nextStep (fresh1 (partRecord 0) none) 1).2 1 (partitionOf (partRecord 0)) = false ∧
    nextIs (fresh1 (partRecord 7) (some { loadPartition with region := 7 })) 1 (partRecord 7) ∧
    regionDisagrees (nextStep (fresh1 (partRecord 7) (some { loadPartition with region := 7 })) 1).2 1 (partitionOf (partRecord 7)) = true := by
  decide +kernel
/-- The records of the other kinds: a context, an owner's window of either kind, a joiner's, a mapping that fits and one that
overlaps, a queue, the envelope and a key release. -/
def contextRecord : List Byte := record 2 0 [(0x38, 4, 13), (0x44, 4, 0x88)]
def windowRecord (kind : Nat) : List Byte := record 3 9 [(0x30, 8, 65536), (0x40, 4, 2 ^ 30 * kind), (0x48, 8, 1)]
def joinRecord : List Byte := record 3 10 [(0x40, 4, 2 ^ 31 + 2 ^ 29), (0x44, 4, 9 * 2 ^ 16 + 1)]
def mapRecord (va : Nat) : List Byte := record 4 3 [(0x30, 8, va), (0x38, 8, 65536), (0x4C, 4, 0x18)]
def queueRecord : List Byte := record 5 0 [(0x30, 8, 0x44000), (0x38, 8, 0x4FFF0), (0x40, 4, 6 + 2 ^ 8 * 7)]
def keyRecord : List Byte := record 8 0 [(0x34, 4, 9 * 2 ^ 16)]
def window (kind : Nat) : Window :=
  { uid := 6, vd := 1, id := 9, exchange := kind != 1, size := 65536, runs := [(16, 1)], members := 1, root := 0, key := none, joiners := [], leaves := [],
    inner := [], bad := [], broken := none }
def withWindow (kind : Nat) (b : List Byte) (k : Nat) : State :=
  (managed [slot 2 3 9 (some (windowRecord kind)) none, slot 3 k (manId b) none (some b)]
    (fun d => { d with ctx := some { context with prot := true } })).modHub fun h => { h with windows := [window kind] }
theorem test_witness_records : nextIs (managed [slot 1 2 0 none (some contextRecord)] (fun d => { d with ctx := none })) 1 contextRecord ∧
    ((nextStep (managed [slot 1 2 0 none (some contextRecord)] (fun d => { d with ctx := none })) 1).2.vd 1).ctx = none ∧
    (placeContext ((nextStep (managed [slot 1 2 0 none (some contextRecord)] (fun d => { d with ctx := none })) 1).2.vd 1)
      (contextOf contextRecord (manField contextRecord 0x34 4 0) false)).isSome ∧
    (∀ k ∈ [1, 2], nextIs (managed [slot 2 3 9 none (some (windowRecord k))]) 1 (windowRecord k) ∧ manField (windowRecord k) 0x40 29 29 = 0 ∧
      (allot ((nextStep (managed [slot 2 3 9 none (some (windowRecord k))]) 1).2.vd 1) (framesOf (windowBytes (windowRecord k))) 1).isSome) ∧
    nextIs (withWindow 2 joinRecord 3) 1 joinRecord ∧ window 2 ∈ (nextStep (withWindow 2 joinRecord 3) 1).2.hub.windows ∧
    (window 2).vd = manField joinRecord 0x44 6 0 ∧ (window 2).id = manField joinRecord 0x44 31 16 ∧ manField joinRecord 0x40 29 29 = 1 := by
  decide +kernel
theorem test_witness_records_more : (∀ p ∈ [(0x80000, true), (0x40000, false)], nextIs (managed [slot 2 4 3 none (some (mapRecord p.1))]) 1 (mapRecord p.1) ∧
      (mappingBreach (nextStep (managed [slot 2 4 3 none (some (mapRecord p.1))]) 1).2 1 (mappingOf (mapRecord p.1) 3)).isNone = p.2 ∧
      (p.2 = true → (placeMapping ((nextStep (managed [slot 2 4 3 none (some (mapRecord p.1))]) 1).2.vd 1) (mappingOf (mapRecord p.1) 3)).isSome) ∧
      manAt (mapRecord p.1) 0x48 4 = 0) ∧
    nextIs (managed [slot 2 5 0 none (some queueRecord)] (fun d => { d with queues := [] })) 1 queueRecord := by decide +kernel
theorem test_witness_envelope_and_key : nextIs { State.reset with hub := { Hub.reset with boot := 4, slots :=
      [slot 0 7 0 none (some (record 7 0 [(0x30, 4, 2600)])) 0] } } 0 (record 7 0 [(0x30, 4, 2600)]) ∧
    nextIs (withWindow 1 keyRecord 8) 1 keyRecord ∧ ((nextStep (withWindow 1 keyRecord 8) 1).2.vd 1).ctx.any (·.prot) = true ∧
    (nextStep (withWindow 1 keyRecord 8) 1).2.hub.windows.find? (fun w => w.vd == 1 && w.id == manField keyRecord 0x34 31 16 && !w.exchange) =
      some (window 1) ∧ manAt keyRecord 0x30 4 = (nextStep (withWindow 1 keyRecord 8) 1).2.hub.layoutGen.toNat ∧
    windowLoading (nextStep (withWindow 1 keyRecord 8) 1).2 (window 1).uid = false := by decide +kernel

/-- AreasAreWrittenAndRead: the last bytes of an area; a valid record, a torn one, one whose check fails. -/
def written (b : List Byte) : State :=
  ({ State.reset with hub := { Hub.reset with boot := 4, slots := [{ RSlot.fresh 0 1023 with dirty := true }] } } : State).putBytes
    (.area 0 (256 * 1023)) b
def withCrc (b : List Byte) : List Byte := b.take 12 ++ natLe 4 (crc32c (b.drop 0x30)) ++ b.drop 16
theorem test_witness_slot_write : areaExists State.reset 0 = true ∧ State.reset.memOk = true ∧ 0x3FFFF + [7#8].length ≤ 0x40000 := by decide
theorem test_witness_read_slot : ∀ b ∈ [withCrc (partRecord 0)], slotsToRead (written b) = [(0, 1023)] ∧ slotBad (written b) 0 1023 = none ∧
    (written b).bytesAt (.area 0 (256 * 1023)) 256 = b ∧ (manVer b).toNat % 2 = 0 ∧ manKind b ≠ 0 ∧ crc32c (b.drop 0x30) = manAt b 0x0C 4 ∧
    examine (written b) 0 1023 b = none ∧ claimant (written b) (manTvd b) (manKind b) (manId b) = none ∧ (slotAt (written b) 0 1023).claims = false := by
  decide +kernel
/-- Two slots to read, the first with a torn record or a failing check. -/
def torn (odd : Bool) : State :=
  (({ State.reset with hub := { Hub.reset with boot := 4, slots := [{ RSlot.fresh 0 0 with dirty := true }, { RSlot.fresh 0 1 with dirty := true }] } } : State).putBytes
    (.area 0 0) (partRecord 0)).putBytes (.area 0 0) (natLe 4 (if odd then 3 else 2))
theorem test_witness_torn : ∀ odd ∈ [true, false], slotsToRead (torn odd) = [(0, 0), (0, 1)] ∧ slotBad (torn odd) 0 0 = none ∧
    (manVer ((torn odd).bytesAt (.area 0 0) 256)).toNat % 2 = (if odd then 1 else 0) ∧ manKind ((torn odd).bytesAt (.area 0 0) 256) ≠ 0 ∧
    crc32c (((torn odd).bytesAt (.area 0 0) 256).drop 0x30) ≠ manAt ((torn odd).bytesAt (.area 0 0) 256) 0x0C 4 := by decide +kernel

/-- ProgramsRunAndRecordsEnd: a program's creation, a team, a restart, and the deletions. -/
def programRecord : List Byte := record 6 2 [(0x30, 8, 0x1000), (0x38, 4, 128)]
/-- The launch record of a program's image: one word of scalar code, at the image's start. -/
def programImage : List Byte := natLe 8 0 ++ natLe 8 0 ++ natLe 4 1
def creating : State := (managed [slot 2 6 2 none (some programRecord)]).putBytes (.host 0x1000) programImage
theorem test_witness_program_create : nextIs creating 1 programRecord ∧ programOf (nextStep creating 1).2 1 2 = none ∧
    (placeMapping ((nextStep creating 1).2.vd 1) (imageMapping 2 (manAt programRecord 0x38 4))).isSome ∧
    imageBreach (fun off k => (nextStep creating 1).2.natAt (.host (manAt programRecord 0x30 8 + off)) k) (manAt programRecord 0x38 4) = false := by
  decide +kernel
def created : State := result (execStepProgramCreate 1 true creating) creating
theorem test_witness_program_team : ∃ p, programOf created 1 2 = some p ∧ ((claimant created 1 6 2).any (fun r => r.want == some p.record &&
      !r.deleting && (runningSlot created 1).all (fun x => x == r)) = true ∧
    deviceWorks created 1 = true ∧ created.hub.boot = 4 ∧ launchCancelled created 1 (withJob created 1 p.launch) = false ∧ overEnergy created 1 = false ∧
    (programCore created p).isSome = true ∧ p.vd = 1 ∧ (created.vd 1).part.any (fun q => q.region == 0) = true ∧ 0 < p.launch.team ∧
    p.launch.image = none) := exists_some _ (by decide +kernel)
def restarting : State := { created.modHub (fun h => { h with slots := h.slots.map fun r =>
  if r.kind == 6 then { r with want := some (record 6 2 [(0x30, 8, 0x1000), (0x38, 4, 128), (0x3C, 4, 2 ^ 12)]) } else r }) with groups := [] }
theorem test_witness_program_restart : ∃ p, programOf restarting 1 2 = some p ∧
    (nextIs restarting 1 (record 6 2 [(0x30, 8, 0x1000), (0x38, 4, 128), (0x3C, 4, 2 ^ 12)]) ∧ p.vd = 1 ∧ p.id = 2 ∧
      p.record ≠ record 6 2 [(0x30, 8, 0x1000), (0x38, 4, 128), (0x3C, 4, 2 ^ 12)] ∧ launchGroups (nextStep restarting 1).2 1 p.launch.lid = [] ∧
      launchResponders (nextStep restarting 1).2 1 p.launch.lid = false ∧
      (nextStep restarting 1).2.cores.all (fun k => k.2.marks == []) = true) := exists_some _ (by decide +kernel)
def deleting (kind id : Nat) : State := managed [{ slot 2 kind id (some (record kind id [])) none with deleting := true }]
theorem test_witness_delete : ∀ p ∈ [(5, 0), (4, 2)], fencedDeletion (deleting p.1 p.2) 1 = none ∧ (nextStep (deleting p.1 p.2) 1).1.any (fun q => q.1 &&
    q.2.kind == p.1 && q.2.tvd == 1) = true ∧ (p.1 = 4 → mappingQuiet (nextStep (deleting p.1 p.2) 1).2 1 p.2 = true) := by decide +kernel
def deletingPart : State := (rich []).modHub fun h =>
  { h with boot := 4, slots := [{ slot 0 1 0 (some (record 1 0 [])) none with deleting := true }] }
theorem test_witness_delete_partition : fencedDeletion deletingPart 1 = none ∧ (nextStep deletingPart 1).1.any (fun q => q.1 && q.2.kind == 1 && q.2.tvd == 1) = true := by
  decide +kernel

/-! ### Parks, slices, residents, tokens and energy -/

/-- A park of split 0 on host page 2^39, with the record of its failure. -/
def park (released : Bool) : Parked :=
  { id := 5, core := 0, slot := 0, vd := 1, gen := 0, gid := 0, who := 0, copy := none, entry := true, pages := [], hosts := [2 ^ 39], why := 2,
    va := 0x40000, frec := some { who := 0, code := 0x23, addr := 0x40000, detail := 0, insn := 0, laneIns := false, lane := 127, spc := 0, lpc := 0, low := 0 },
    released := released }
def parked (released : Bool) (q : List HostReq) : State :=
  { (blocked (.park 5)).modVd 1 (fun d => { d with ringSize := 16 }) with parks := [park released], hostReqs := q }
def request (pri : Bool) : HostReq := { core := 0, vd := 1, gen := 0, page := 2 ^ 39, dev := (4, 1), pri := pri }
/-- ParksAreReleased. -/
theorem test_witness_parks : (parked true []).parks.find? (fun p => p.gid == 0 && p.who == 0 && p.released) = some (park true) ∧
    (park true).copy = none ∧ ((parked true []).group? 0).any (fun g => g.status == .running && !g.frozen && residentOn (parked true []) g.core g.vd) = true ∧
    completionOk (2 ^ 51) (2 ^ 28) = true ∧ (parked false [request false]).hostReqs.find? (fun q => q.core == 0 && q.vd == 1 && !q.pri &&
      hostRange (2 ^ 51) (2 ^ 28) q.page) = some (request false) ∧ (request false).gen = ((parked false [request false]).vd 1).gen ∧
    request true ∈ (parked false [request true]).hostReqs ∧ (request true).page = 2 ^ 51 / 4096 ∧
    (parked false [request true]).parks.filter (fun p => p.vd == 1 && p.hosts.contains (2 ^ 51 / 4096) && !p.released) = [park false] ∧
    (park false).frec.any (fun f => f.code == 0x23) = true := by decide +kernel
/-- An invalidation that dropped one translation, and an access through it that is still open, of before it or of after it. -/
def inval (n : Nat) : Inval := { lo := 0x1000, size := 0x1000, dropped := [(1, 0x1000, 0x2000)], before := n }
def invalidating (n : Nat) : State := (storing (.host 0x2FFF) .plain .queued).modHub fun h => { h with invals := [inval n] }
theorem test_witness_invalidate : (rich []).hub.invals = [] ∧ ∀ n ∈ [7, 8], (invalidating n).hub.invals.find? (fun q => q.lo == 0x1000 &&
    q.size == 0x1000) = some (inval n) ∧ (invalidating n).loads = [] ∧
    (invalidating n).stores.map (fun e => (e.id, e.vd, e.loc, e.performedAt 5)) = [(7, 1, .host 0x2FFF, false)] := by decide
theorem test_witness_over_dropped : OverDropped (inval 8) 1 (.host 0x2FFF) ∧ ¬OverDropped (inval 8) 1 (.host 0x3000) :=
  ⟨⟨0x2FFF, 0x1000, 0x2000, rfl, by decide, by decide, by decide⟩, fun ⟨a, lo, size, ha, hm, hl, hh⟩ => by
    simp only [inval, List.mem_singleton, Prod.mk.injEq] at hm; cases ha; omega⟩

/-- Devices 1 and 2 share region 7 on core 0, device 1 resident; a group of each. -/
def sharing (leaving : Bool) (a b : GroupStatus) (h : Option Handler := none) (idle : Bool := false) : State :=
  let p := { loadPartition with cores := [0, 1], region := 7, scount := 64 }
  let s := (((rich []).modVd 1 fun d => { d with part := some p }).setVd 2 { VDev.reset with part := some p, ctx := some context, ringSize := 16 }).modCore 0
    fun k => { k with cyc := 2 ^ 20, slices := [{ region := 7, resident := some 1, last := 2, since := 0, leaving := leaving, idle := idle }] }
  { s with groups := s.groups.flatMap fun g => [{ g with status := a, handler := h, batches := [] }, { g with gid := 1, slot := 1, vd := 2, status := b, batches := [] }] }
def shareSlice (leaving : Bool) (idle : Bool := false) : Slice := { region := 7, resident := some 1, last := 2, since := 0, leaving := leaving, idle := idle }
/-- SlicesEndInTraps: a slice that has run out, with another device that has work, and without. -/
def expired (n : Nat) : State :=
  let s := (sharing false .running .savedFresh).modVd 1 fun d => { d with ctx := some { context with slice := 13 } }
  { s with groups := s.groups.take n }
theorem test_witness_expiry : ∀ p ∈ [(2, some 2), (1, none)], sliceOf (expired p.1) 0 7 = some (shareSlice false) ∧
    (shareSlice false).since + sliceCycles (expired p.1) 1 < (expired p.1).now 0 ∧ hasWork (expired p.1) 0 1 = true ∧
    (groupsOn (expired p.1) 0 1).all (fun g => !retires (expired p.1) g) = true ∧
    nextDevice (expired p.1) 0 7 1 = p.2 ∧ ((mergeGroups (expired p.1) 0).groups.map (·.gid)).Nodup := by decide +kernel
theorem test_witness_handler_start : ∃ g r, (sharing true .trapped .savedFresh).group? 0 = some g ∧
    handlerRec (sharing true .trapped .savedFresh) g.vd = some r ∧ (g.status = .trapped ∧
      trapReady g ((sharing true .trapped .savedFresh).now g.core) = true) :=
  exists_some₂ (f := fun g : Group => handlerRec (sharing true .trapped .savedFresh) g.vd) _ (by decide +kernel)
/-- A slot with a fixed-latency result on its way when the trap comes. -/
def unready : State := (sharing true .trapped .savedFresh).modGroup 0 fun g => { g with
  pend := [{ reg := .s 3, split := 0, issued := 2 ^ 20, ready := 2 ^ 20 + 4, mask := fullMask, old := [0], prod := 0, scalar := true, seq := 0 }],
  batches := [loadBatch] }
theorem test_witness_handler_waits : ∃ g, unready.group? 0 = some g ∧ (g.status = .trapped ∧ (handlerRec unready g.vd).isSome = true ∧
    trapReady g (unready.now g.core) = false) := exists_some _ (by decide +kernel)
theorem test_witness_no_handler : ∃ g, (sharing true .trapped .trapped).group? 1 = some g ∧ (g.status = .trapped ∧
    handlerRec (sharing true .trapped .trapped) g.vd = none) := exists_some _ (by decide +kernel)
theorem test_witness_budget : ∃ g c, (sharing true .trapped .savedFresh).group? 0 = some g ∧
    ((sharing true .trapped .savedFresh).vd g.vd).ctx = some c ∧ (g.status = .trapped ∧
      g.trapAt + c.budget < (sharing true .trapped .savedFresh).now g.core) :=
  exists_some₂ (f := fun g : Group => ((sharing true .trapped .savedFresh).vd g.vd).ctx) _ (by decide +kernel)
theorem test_witness_budget_left : ∃ g c, ({ (rich []) with groups := (sharing true .trapped .savedFresh).groups } : State).group? 0 = some g ∧
    ((rich []).vd g.vd).ctx = some c ∧ (g.status = .trapped ∧ (rich []).now g.core ≤ g.trapAt + c.budget) :=
  exists_some₂ (f := fun g : Group => ((rich []).vd g.vd).ctx) _ (by decide +kernel)
theorem test_witness_forced_save : ∃ g, (sharing true .saving .savedFresh).group? 0 = some g ∧ (g.status = .saving ∧
    (∀ b ∈ g.batches, b.started = true → b.suspended = true) ∧ coreQuiet (sharing true .saving .savedFresh) g.core g.vd = true) :=
  exists_some _ (by decide +kernel)
/-- ResidentsChange: to the other device, to none, from none, and away from one without work. -/
theorem test_witness_region_switch : ∀ b ∈ [GroupStatus.savedForced, .savedCoop], sliceOf (sharing true .savedCoop b) 0 7 = some (shareSlice true) ∧
    (∀ g ∈ groupsOn (sharing true .savedCoop b) 0 1, g.gone = true) ∧ coreQuiet (sharing true .savedCoop b) 0 1 = true ∧
    portClear (sharing true .savedCoop b) 0 1 = true ∧ nextDevice (sharing true .savedCoop b) 0 7 1 = some 2 ∧
    ((sharing true .savedCoop b).vd 1).part.isSome ∧ ((sharing true .savedCoop b).vd 2).part.isSome := by decide +kernel
def alone (l : Bool) : State := { sharing l .running .running with groups := [] }
theorem test_witness_region_empties : sliceOf (alone true) 0 7 = some (shareSlice true) ∧ groupsOn (alone true) 0 1 = [] ∧
    nextDevice (alone true) 0 7 1 = none ∧ hasWork (alone true) 0 1 = false := by decide +kernel
/-- A leaving device that still has work, and no other device has any: it stays. -/
def staying : State := { sharing true .savedForced .running with groups := (sharing true .savedForced .running).groups.take 1 }
theorem test_witness_region_stays : sliceOf staying 0 7 = some (shareSlice true) ∧ (∀ g ∈ groupsOn staying 0 1, g.gone = true) ∧
    coreQuiet staying 0 1 = true ∧ portClear staying 0 1 = true ∧ nextDevice staying 0 7 1 = none ∧ hasWork staying 0 1 = true := by decide +kernel
/-- A region of core 0 that no device leaves: its slice entry, and its groups from one on. -/
def resting (k : Slice) (n : Nat) : State :=
  let s := (sharing false .running .savedForced).modCore 0 fun c => { c with slices := [k] }
  { s with groups := s.groups.drop n }
/-- None resident; away from a device that has just run out of work, and from one that had; work again; no work at all. -/
theorem test_witness_device_resident :
    (∃ p, ((resting (shareSlice false) 0).vd 1).part = some p ∧ (p.region = 7 ∧ p.cores = [0, 1])) ∧
    (sliceOr (resting { shareSlice false with resident := none } 0) 0 7).resident = none ∧
    lowestDevice (resting { shareSlice false with resident := none } 0) 0 7 = some 1 ∧
    hasWork (resting (shareSlice false) 1) 0 1 = false ∧ nextDevice (resting (shareSlice false) 1) 0 7 1 = some 2 ∧
    lowestDevice (resting (shareSlice false true) 1) 0 7 = some 2 ∧ lowestDevice (resting (shareSlice false true) 0) 0 7 = some 1 ∧
    (∀ n ∈ [1, 2], coreQuiet (resting (shareSlice false) n) 0 1 = true ∧ portClear (resting (shareSlice false) n) 0 1 = true) ∧
    hasWork (resting (shareSlice false) 2) 0 1 = false ∧ nextDevice (resting (shareSlice false) 2) 0 7 1 = none ∧
    coreQuiet { resting (shareSlice false) 2 with engops := [engop (.accz 63 1)] } 0 1 = false :=
  ⟨exists_some _ (by decide +kernel), by decide +kernel⟩
/-- TokensEnergyAndScrubs. -/
theorem test_witness_tokens : (∃ x ∈ [99, 106], 105 < x) ∧ State.reset.hub.lowered < (State.reset.hub.limit - 1450) * 144 / 1150 - 6 ∧
    (∀ x ∈ [99], x < 100) ∧ 0 < (State.reset.modHub fun h => { h with lowered := 8 }).hub.lowered ∧ (∀ x ∈ [100, 105], x ≤ 105) ∧
    (∃ x ∈ [100, 105], 100 ≤ x) ∧ State.reset.memOk = true := by decide

/-! ### Resets, bring-up, halts, scrubs -/

/-- ResetsBeginAndComplete. -/
def functions (f : VDev → VDev) : State := ((rich []).modVd 1 f).modHub fun h => { h with vfEnable := true }
def resetState (cleared : Bool) : Resetting :=
  { cause := 1, oldGen := 0, saves := [], groups := 0, held := false, deletePart := true, cleared := cleared }
theorem test_witness_resets : (functions id).hub.vfEnable = true ∧ ((functions fun d => { d with tdi := .run }).vd 1).tdi = .run ∧
    State.reset.hub.vfEnable = false ∧ (∀ p ∈ State.reset.vds, p.2.resetting = none) ∧
    (((functions fun d => { d with resetting := some (resetState false) }).vd 1).resetting = some (resetState false)) ∧
    (((functions fun d => { d with resetting := some (resetState true) }).vd 1).resetting = some (resetState true)) ∧
    ((functions id).vd 1).part.isSome := by decide
/-- ThePackageComesUp: stages 0 to 3. -/
theorem test_witness_bring_up : State.reset.hub.boot < 3 ∧ (State.reset.modHub fun h => { h with boot := 3 }).hub.boot < 4 := by decide
/-- GroupsHaltAndTheHostReachesThem: a group that may halt and one with a load in flight; a halted group selected, none. -/
def faulting (s : State) : State := s.modGroup 0 fun g => { g with status := .faulting }
theorem test_witness_halt : (∀ p ∈ [(rich [], []), (staging (rich []), [(3, 128)])], ∃ g, (faulting p.1).group? 0 = some g ∧ (g.status = .faulting ∧
      haltDrained (withdraw (faulting p.1) g) g = true ∧ (withdraw (faulting p.1) g).stagedLines g.vd 0 = p.2)) ∧
    ∃ g, (faulting (loading true)).group? 0 = some g ∧ (g.status = .faulting ∧ haltDrained (withdraw (faulting (loading true)) g) g = false) :=
  ⟨fun p hp => exists_some _ ((by decide +kernel : ∀ p ∈ [(rich [], []), (staging (rich []), [(3, 128)])], ((faulting p.1).group? 0).any
    (fun g => decide (g.status = .faulting ∧ haltDrained (withdraw (faulting p.1) g) g = true ∧
      (withdraw (faulting p.1) g).stagedLines g.vd 0 = p.2)) = true) p hp), exists_some _ (by decide +kernel)⟩
/-- Two groups that may halt: the one in slot 0 before the one in slot 1. -/
def twoFaulting : State := { faulting (rich []) with groups := (faulting (rich [])).groups.flatMap fun g => [g, { g with gid := 900, slot := g.slot + 1 }] }
theorem test_witness_halt_order : (twoFaulting.group? 900).any (fun g => g.status == .faulting && haltBefore twoFaulting g &&
      ((withdraw twoFaulting g).stagedLines g.vd 900).isEmpty) = true ∧
    (twoFaulting.group? 0).any (fun g => !haltBefore twoFaulting g) = true := by decide +kernel
def halted (st : GroupStatus) : State := ((rich []).modGroup 0 fun g => { g with status := st }).modHub fun h => { h with vfEnable := true }
theorem test_witness_inspect : functionExists (halted .halted) 1 = true ∧ (inspected (halted .halted) 1).isSome ∧ inspected (halted .running) 1 = none := by
  decide +kernel
/-- TokensEnergyAndScrubs: row 0 has an owner, group 0 a register. -/
theorem test_witness_scrub : sramOwner (rich []) 0 (.spad 0 0) = some 1 ∧ ((rich []).group? 0).isSome ∧ ((rich []).vd 1).fenced = false := by decide

/-! ### Steps, traps, the whole machine -/

/-- Split 0 is about to issue a word, with the group changed. -/
def turn (w : Word) (f : Group → Group := id) : State := (State.reset.withFetchWord 32 w.toNat).modGroup 0 f
/-- The cycle of a split's opportunity. -/
def turnAt (s : State) (c : Cand) : Nat := max (max (s.now 0) ((s.core 0).units.getD 0 0)) c.sp.earliest
/-- What the unit's opportunity finds. -/
abbrev scalarTurn (s : State) (c : Cand) : Prop :=
  s.agenda = [.unit 0 0] ∧ (dueTurn s).isNone = true ∧ unitCands (turnStart s [] 0) 0 0 = [c] ∧ c.sp.passOver = false ∧
  dueBefore (turnStart s [] 0) 0 (turnAt s c) = none ∧ (turnStart s [] 0).group? c.g.gid = some c.g ∧ c.g.status = .running
/-- What a split fetches at its opportunity. -/
def fetched (s : State) (c : Cand) : Fetch := (fetchBytes (turnState s [] 0 (turnAt s c)) c.g (scalarCodeAt c.g c.ix c.sp.pc) 4).1
/-- The outcome of an issue holds its unit, or not. -/
def holds (o : Out) (b : Bool) : Bool :=
  match o with
  | .next t => t.held == b
  | _ => false
/-- AStepRunsTheDecodedInstruction: SADD issues, and is held by a lock; a lane instruction; an event. -/
theorem test_witness_step : ∀ p ∈ [(turn 0x04308101, false), (turn 0x04308101 (fun g => { g with locks := [(0, 4)] }), true)],
    ∃ c, (unitCands (turnStart p.1 [] 0) 0 0).head? = some c ∧ (scalarTurn p.1 c ∧ c.sp.pc < codeLen c.g c.ix ∧
      fetched p.1 c = .word 0x04308101 ∧ (decodeScalar (BitVec.ofNat 32 0x04308101)).toOption = some (.sadd 3 4 4 1) ∧
      holds (exec (.sadd 3 4 4 1) { turnState p.1 [] 0 (turnAt p.1 c) with cur := some (.split c.g.gid c.ix) }) p.2 = true) := by
  have h : ∀ p ∈ [(turn 0x04308101, false), (turn 0x04308101 (fun g => { g with locks := [(0, 4)] }), true)],
      (unitCands (turnStart p.1 [] 0) 0 0).head?.any (fun c => decide (scalarTurn p.1 c ∧ c.sp.pc < codeLen c.g c.ix ∧
      fetched p.1 c = .word 0x04308101 ∧ (decodeScalar (BitVec.ofNat 32 0x04308101)).toOption = some (.sadd 3 4 4 1) ∧
      holds (exec (.sadd 3 4 4 1) { turnState p.1 [] 0 (turnAt p.1 c) with cur := some (.split c.g.gid c.ix) }) p.2 = true)) = true := by
    decide +kernel
  exact fun p hp => exists_some _ (h p hp)
/-- VADD v5, v6, v7 as its word. -/
def addWord : Nat := 2 ^ 86 * 0x001 + 2 ^ 77 * 31 + 2 ^ 66 * 5 + 2 ^ 56 * 6 + 2 ^ 46 * 7 + 2 ^ 36 * 0x3FE + 2 ^ 20 * 0x13
def pipeTurn (w : Nat) : State := State.reset.withFetchWord 96 w
/-- What a pipeline's opportunity finds: a batch, and what it fetches. -/
abbrev laneTurn (s : State) (q : Group × Batch) (w : Option Nat) : Prop :=
  s.agenda = [.pipe 0 0] ∧ (dueTurn s).isNone = true ∧ q.1.status = .running ∧ (turnStart s [] 0).group? q.1.gid = some q.1 ∧
  dueBefore (turnStart s [] 0) 0 (3 * max (pipeSlot s 0 0) q.2.nextSlot) = none ∧
  (match (fetchBytes (turnState s [] 0 (max (s.now 0) (3 * max (pipeSlot s 0 0) q.2.nextSlot))) q.1 (laneCodeAt q.1 (q.2.first + q.2.next)) 12).1 with
   | .word n => decide (w = some n)
   | .park _ _ _ _ _ => w.isNone
   | .fault _ _ _ => false) = true
theorem test_witness_pipe_step : ∀ p ∈ [(addWord, true), (0, false)], ∃ q, pipeBatch (turnStart (pipeTurn p.1) [] 0) 0 0 = some q ∧
    (laneTurn (pipeTurn p.1) q (some p.1) ∧ (decodeLane p.1).isOk = p.2) := by
  have h : ∀ p ∈ [(addWord, true), (0, false)], (pipeBatch (turnStart (pipeTurn p.1) [] 0) 0 0).any (fun q =>
    decide (laneTurn (pipeTurn p.1) q (some p.1) ∧ (decodeLane p.1).isOk = p.2)) = true := by decide +kernel
  exact fun p hp => exists_some _ (h p hp)
/-- FetchesPark: the code lies in a self-managed page without a valid entry. -/
def unpaged (s : State) : State := s.modVd 1 fun d => { d with maps := d.maps.map fun m => { m with self := true, runs := [], tableRuns := [(8, 1)] } }
theorem test_witness_fetch_parks : (∃ c, (unitCands (turnStart (unpaged (turn 0x04308101)) [] 0) 0 0).head? = some c ∧
      (scalarTurn (unpaged (turn 0x04308101)) c ∧ c.sp.pc < codeLen c.g c.ix ∧ (match fetched (unpaged (turn 0x04308101)) c with
        | .park _ _ _ _ _ => true
        | _ => false) = true)) ∧
    ∃ q, pipeBatch (turnStart (unpaged (pipeTurn addWord)) [] 0) 0 0 = some q ∧ laneTurn (unpaged (pipeTurn addWord)) q none :=
  ⟨exists_some _ (by decide +kernel), exists_some _ (by decide +kernel)⟩
theorem codeBytes_of {s : State} {vd va : Nat} {bs : List Byte} (h : (List.range bs.length).all (fun k => ((s.vd vd).maps.find? (fun m =>
    m.va ≤ va + k && va + k < m.va + m.size)).any fun m => !m.self && m.loc == 0 && m.x && m.va % 2 ^ 16 == 0 && m.size % 2 ^ 16 == 0 &&
      s.mem.read (Loc.hbm vd (hbmAt m.runs (va + k - m.va))).key == bs.getD k 0) = true) : CodeBytes s vd va bs := by
  intro k hk
  have := List.all_eq_true.1 h k (List.mem_range.2 hk)
  cases hm : (s.vd vd).maps.find? (fun m => m.va ≤ va + k && va + k < m.va + m.size) with
  | none => simp [hm] at this
  | some m =>
    simp only [hm, Option.any_some, Bool.and_eq_true, Bool.not_eq_true', beq_iff_eq] at this
    obtain ⟨⟨⟨⟨⟨h1, h2⟩, h3⟩, h4⟩, h5⟩, h6⟩ := this
    exact ⟨m, rfl, h1, h2, h3, h4, h5, h6⟩
theorem test_witness_code : CodeBytes (turn 0) 1 0x10000 (natLe 4 0) ∧ CodeBytes (pipeTurn 1) 1 0x20000 (natLe 12 1) :=
  ⟨codeBytes_of (by decide +kernel), codeBytes_of (by decide +kernel)⟩
/-- WhatIsDueComesFirst: an access, a barrier, a bin, a change of residents, a slice and a budget that are due, each before the next. -/
def order : List State :=
  [waitingLoad, (blocked (.bar 3 5)).modGroup 0 fun g => { g with team := none }, timed 2000, resting { shareSlice false with resident := none } 0, expired 2,
   (sharing true .trapped .savedFresh)]
def firstDue (s : State) : Nat :=
  if s.teams.any (teamOver s) then 0 else if (s.feqs.find? (feDue s)).isSome then 1 else if (dueBar s).isSome then 2
  else if (dueBin s).isSome then 3 else if (dueResident s).isSome then 4 else if (dueSlice s).isSome then 5
  else if (s.groups.find? (budgetOver s)).isSome then 6 else 7
theorem test_witness_due : order.map firstDue = [1, 2, 3, 4, 5, 6] ∧ (∀ s ∈ order, s.hub.fences = []) := by decide +kernel
/-- A fence that the walker, or a ring, has asked for. -/
theorem test_witness_fence : (askFence ready 1 0x17 0xFF 0).hub.fences = [{ vd := 1, code := 0x17, core := 0xFF, detail := 0 }] ∧
    ((askFence ready 1 0x17 0xFF 0).vd 1).fenced = false := by decide
/-- A failing line of a ring of errors is one of device 0. -/
theorem test_ring_line : (fenceBad (markBad ready (.sys 1 ringCtl) 0x19 8) 1 0xFF (.sys 1 ringCtl)).hub.fences.map (·.vd) = [0] := by decide
/-- A core that lets cycles pass, with a bin whose timer runs out in them, and with none. -/
theorem test_witness_tick : dueBefore { rich [] with agenda := [], held := false } 0 ((rich []).now 0 + 9) = none ∧ (dueTurn (rich [])).isNone = true ∧
    (dueTurn (timed 0)).isNone = true ∧ dueBefore { timed 0 with agenda := [], held := false } 0 ((timed 0).now 0 + 9) = some 1 := by
  decide +kernel
/-- LinesAreStoredEncrypted: a line that is written under the device's key, and one that is not. -/
theorem test_witness_lines : (lineCounters (ready.vd 1).leaves 0).2.2 = false ∧
    (lineCounters ((ready.bumpLine (.hbm 1 0)).vd 1).leaves 0).2.2 = true ∧ (List.replicate 128 (7 : Byte)).length = 128 := by decide +kernel
theorem test_witness_event_step : encode (.tokenGrant 0) = [] ∧ ({ asking with agenda := [.event (.tokenGrant 0)] } : State).agenda =
    [.event (.tokenGrant 0)] := by decide
/-- A step of the furnished word: s3 becomes the sum, and the split stands at the next word. -/
theorem test_step_sadd : (match step (turn 0x04308101 fun g => g.sset 0 4 21) with
    | .next t => t.reg 0 0 3 == 42 && (t.group? 0).any fun g => (g.split? 0).any fun sp => sp.pc == 1
    | _ => false) = true := by decide +kernel
/-- A lane word fetched and run: v5 holds v6 + v7. -/
theorem test_step_vadd : (match step ((pipeTurn addWord).modGroup 0 fun g =>
      { g with vregs := (List.range 64).map fun k => if k = 6 ∨ k = 7 then List.replicate 96 3#32 else List.replicate 96 0#32 }) with
    | .next t => (t.group? 0).any fun g => g.lane 5 95 == 6
    | _ => false) = true := by decide +kernel
theorem test_decode_table_word : decodeTableWord 32 0x04308101 = some (.sadd 3 4 4 1) ∧ (decodeTableWord 96 addWord).isSome ∧
    decodeTableWord 32 0 = none := by decide
/-- TrapsAndIllegalWordsFault: the all-zero word, and a pc past the end. -/
theorem test_witness_illegal : (∃ c, (unitCands (turnStart (turn 0) [] 0) 0 0).head? = some c ∧ (scalarTurn (turn 0) c ∧ c.sp.pc < codeLen c.g c.ix ∧
      scalarCodeAt c.g c.ix c.sp.pc = 0x10000 ∧ c.g.vd = 1 ∧ (decodeScalar (BitVec.ofNat 32 0)).isOk = false)) ∧
    ∃ c, (unitCands (turnStart (turn 0 fun g => { g with splits := g.splits.map fun sp => { sp with pc := 16384 } }) [] 0) 0 0).head? =
      some c ∧ (scalarTurn (turn 0 fun g => { g with splits := g.splits.map fun sp => { sp with pc := 16384 } }) c ∧ codeLen c.g c.ix ≤ c.sp.pc) :=
  ⟨exists_some _ (by decide +kernel), exists_some _ (by decide +kernel)⟩
/-- TrapsAndIllegalWordsFault: an ill-formed word, an early read with STALLCHK, and a handler that writes s47. -/
def early : Pend := { reg := .s 4, split := 0, issued := 0, mask := fullMask, ready := 3, old := [0], prod := 0, scalar := true, seq := 0 }
theorem test_witness_issue_checks : (worstViol (violations (.loop 64 0 0))).isSome ∧ (encode (.loop 64 0 0)).length = 1 ∧
    (∃ q, issuingSplit (readyWith [] fun g => { g with stallchk := true, pend := [early] }) = some q ∧ (q.1.status = .running ∧
      q.1.stallchk = true ∧ pendHits q.1 q.2.1 (.s 4) = [early] ∧ early.split = q.2.1 ∧ early.mask &&& fullMask ≠ 0 ∧
      (readyWith [] fun g => { g with stallchk := true, pend := [early] }).now q.1.core < early.ready ∧
      handlerBreach (issueOf (.sadd 3 4 5 0) (readyWith [] fun g => { g with stallchk := true, pend := [early] }) q.1 q.2.1 q.2.2) (uses [4, 5] [3]) = none)) ∧
    wellFormed (.sadd 47 4 5 0) = true ∧ ∃ q, issuingSplit (handling false) = some q ∧ (q.2.1 = 8 ∧ q.1.status = .running ∧ q.1.handler.isSome = true) :=
  ⟨by decide, by decide, exists_some _ (by decide), by decide, exists_some _ (by decide)⟩
/-- AFaultStopsItsGroup: a group that runs, one that has faulted in the same cycle and in another, one that has halted. -/
def faulted (st : GroupStatus) : State := ready.modGroup 0 fun g => { g with status := st, trapAt := 5 }
theorem test_witness_raise : ∀ st ∈ [GroupStatus.running, .faulting, .halted], ∃ g, (faulted st).group? 0 = some g ∧ (g.status = st ∧ g.trapAt = 5) := by
  have h : ∀ st ∈ [GroupStatus.running, .faulting, .halted], ((faulted st).group? 0).any (fun g => decide (g.status = st ∧ g.trapAt = 5)) = true := by
    decide
  exact fun st hst => exists_some _ (h st hst)
/-- EveryInstructionGoesOn, DecodingUndoesEncoding and MemoryReadsWhatWasWritten. -/
theorem test_witness_general : (encode (.sadd 3 4 5 0)).length = 1 ∧ (issuingSplit ready).isSome ∧ (encode (.vadd add)).length = 3 ∧
    (issuingBatch batching).isSome ∧ encode (.unitPlace) = [] ∧ wellFormed (.vadd add) = true ∧ encode (.vadd add) ≠ [] ∧
    Memory.wf [(5, 1), (7, 2)] = true ∧ (ready.memOk = true) ∧ ((turn 0x04308101).memOk = true) := by decide +kernel
/-- EveryStepKeepsMemoryCanonical. -/
theorem test_witness_step_memory : (turn 0x04308101).memOk = true ∧ (match step (turn 0x04308101) with
    | .next _ => true
    | _ => false) = true := by decide +kernel
/-- FormatCodesAreExact: the largest code of .f16 that is finite. -/
theorem test_witness_formats : 0x7BFF < 2 ^ fmtF16.width ∧ fmtF16.isNan 0x7BFF = false ∧ fmtF16.mag 0x7BFF ≠ fmtF16.infMag := by decide
/-- LoopCountsDownAndBranches and GetfmtReadsTheFormatRegister and HintWordsAndInvertedGuards. -/
theorem test_witness_stated : (∃ g ix sp, ScalarReady (.loop 63 0x3FFF 3) { reads := [63], writes := [(0x03, 63)] } (readyWith [(63, 2)]) g ix sp ∧
      (g.sval ix 63 - 1 ≠ 0 ∧ 0 ≤ branchTarget sp 0x3FFF)) ∧
    (∃ g ix sp, ScalarReady (.loop 63 0 0) { reads := [63], writes := [(0x03, 63)] } (readyWith [(63, 1)]) g ix sp ∧ g.sval ix 63 - 1 = 0) ∧
    (∃ g ix sp, ScalarReady (.getfmt 63 0) (uses [] [63]) ready g ix sp) ∧ ∃ g ix sp, ScalarReady (.nop 0xFFFFFF 3) {} ready g ix sp :=
  ⟨exists_ready _ (by decide), exists_ready _ (by decide), all_ready (l := [(.getfmt 63 0, uses [] [63], ready)]) (by decide) (.getfmt 63 0, uses [] [63], ready) (by simp),
   all_ready (l := [(.nop 0xFFFFFF 3, {}, ready)]) (by decide) (.nop 0xFFFFFF 3, {}, ready) (by simp)⟩

/-- RFC 5639: the base point stands on the curve, and not with another second coordinate. -/
theorem test_curve : onCurve curveG.1 curveG.2 = true ∧ onCurve curveG.1 (curveG.2 + 1) = false := by decide +kernel
/-- RFC 5639: an inverse modulo the order of the base point. -/
theorem test_inverse : 5 * invMod curveN 5 % curveN = 1 := by decide +kernel

end Sys2Proof.Tests
end

section
/-! O55: `exec` answers a next state for every instruction that has an issuer, and for every step of the device. A scalar
instruction is one `scalarIssue` and a lane instruction one `laneIssue` (the hint space apart): these stop only where no split
or batch issues. A step of the device names no issuer, and every branch of it is a next state. -/

namespace Sys2Proof.Proofs
open Sys2Proof Sys2Proof.Machine

/-! ### The shared ends of an issue -/

/-- A scalar instruction that a split issues goes on: what it does, a group fault among it, is a next state. -/
theorem scalarIssue_next {s : State} (h : (issuingSplit s).isSome) (i : Instr) (u : ScUse)
    (body : State → ScIss → List Word → ScRes) : ∃ t, scalarIssue i u body s = .next t := by
  obtain ⟨⟨g, ix, sp⟩, hi⟩ := Option.isSome_iff_exists.mp h
  unfold scalarIssue
  rw [hi]
  exact ⟨_, rfl⟩

section
variable {s : State} (h : (issuingBatch s).isSome) (op : Nat) (l : LaneF)
include h

/-- A lane instruction that a batch issues goes on: a word with a broken field rule faults its group, and the others run. -/
theorem laneIssue_next (body : State → LnIss → LaneVals → LnRes) : ∃ t, laneIssue op l body s = .next t := by
  obtain ⟨⟨g, b⟩, hi⟩ := Option.isSome_iff_exists.mp h
  unfold laneIssue
  rw [hi]
  dsimp only
  split
  · exact ⟨_, rfl⟩
  · exact ⟨_, rfl⟩

/-! The shared operations of lane instructions each end in one `laneIssue`. -/

theorem laneMap_next (f : Nat → Nat → Nat → Nat) : ∃ t, laneMap op l f s = .next t := laneIssue_next h op l _

theorem laneArith_next (f : Int → Int → Int → Int) : ∃ t, laneArith op l f s = .next t := by
  dsimp only [laneArith]
  exact laneMap_next h op l _

theorem laneLogic_next (f : Nat → Nat → Nat) : ∃ t, laneLogic op l f s = .next t := laneMap_next h op l _

theorem laneShift_next (f : Nat → Nat → Nat → Nat) : ∃ t, laneShift op l f s = .next t := by
  dsimp only [laneShift]
  exact laneMap_next h op l _

theorem lanePred_next (f : LaneVals → LaneMask) : ∃ t, lanePred op l f s = .next t := laneIssue_next h op l _

theorem laneFloat_next (f : Word → Nat → Nat → Nat → Nat → Nat × Flags) : ∃ t, laneFloat op l f s = .next t :=
  laneIssue_next h op l _

theorem laneFp2_next (f : Fmt → Nat → Nat → Rnd → Bool → Bool → Bool → Nat × Flags) : ∃ t, laneFp2 op l f s = .next t := by
  dsimp only [laneFp2]
  exact laneFloat_next h op l _

theorem laneSpecial_next (f : Special) : ∃ t, laneSpecial op f l s = .next t := laneFloat_next h op l _

theorem laneLoad_next (space : Nat) : ∃ t, laneLoad op space l s = .next t := laneIssue_next h op l _

theorem laneStore_next (space : Nat) : ∃ t, laneStore op space l s = .next t := laneIssue_next h op l _

theorem execMatrixLanes_next (diag : Bool) : ∃ t, execMatrixLanes op diag l s = .next t := laneIssue_next h op l _

/-- A lane word of the hint space goes on to the next one (R77). -/
theorem execLaneHint_next (hint : BitVec 4) : ∃ t, execLaneHint hint l s = .next t := by
  obtain ⟨⟨g, b⟩, hi⟩ := Option.isSome_iff_exists.mp h
  unfold execLaneHint
  rw [hi]
  exact ⟨_, rfl⟩

end

/-! ### Events that share their end -/

/-- A reconciler step goes on, with the record's end where it is the step's turn and as it was elsewhere. -/
theorem stepOf_next (s : State) (vd kind : Nat) (f : State → RSlot → List Byte → StepEnd) :
    ∃ t, stepOf s vd kind f = .next t := by
  fun_cases stepOf <;> exact ⟨_, rfl⟩

/-- A group that retires, or whose stores are written back before it does, leaves a next state (R93, R279). -/
theorem execGroupRetire_next (gid : Nat) (s : State) : ∃ t, execGroupRetire gid s = .next t := by
  fun_cases execGroupRetire <;> exact ⟨_, rfl⟩

/-- The end of a slice goes on; a retirement that is due in its cycle comes first (R390, R443). -/
theorem execSliceExpiry_next (core region : Nat) (s : State) : ∃ t, execSliceExpiry core region s = .next t := by
  fun_cases execSliceExpiry
  case case4 => exact execGroupRetire_next _ _
  all_goals exact ⟨_, rfl⟩

/-! ### Scalar instructions, lane instructions and events -/

/-- Every one-word instruction is a `scalarIssue`. -/
theorem exec_scalar_next {i : Instr} {s : State} (hi : (encode i).length = 1) (h : (issuingSplit s).isSome) :
    ∃ t, exec i s = .next t := by
  cases i with
  | sadd | saddI64 | saddSat | saddUsat | ssub | ssubI64 | ssubSat | ssubUsat | smul | smulh | smulhZ32 | sdiv |
  sdivZ32 | sdivRem | sdivRemZ32 | sand | sandNot | sor | sorNot | sxor | sxorNot | sshl | sshlI64 | sshr | sshrI64 |
  ssar | ssarI64 | smin | sminZ32 | smax | smaxZ32 | ssel | scmpEq | scmpNe | scmpLt | scmpLe | scmpUlt | scmpUle |
  smov | smovI64 | spopc | sclz | smovi | smoviZ | smoviSh8 | saddi | saddiI64 | sshli | sshliLsr | sshliAsr | brZ |
  brNz | brLt | brGe | brGt | brLe | brMz | brMnz | jmp | jmpInd | call | callInd | loop | split | splitNot | join |
  joinAll | vrun | maskpMov | maskpAnd | maskpAndn | maskpOr | waitc | sld | sst | satom | fence | fenceLd | fenceSt |
  bar | bcopy | bcopyIl4 | panarm | panrel | panrelWait | mloadb | mmas | accz | accst | solicit | census | respond |
  markput | markdrop | markmove | qpush | cancelUnit | cancelLaunch | cancelGraph | cancelPhase | cancelJob | ctrrd |
  regroup | setfmt | setfmtRnd | setfmtFtz | setfmtAtype | setfmtBtype | setfmtSmode | getfmt | rdsr | wrsr | trap |
  trapVal | waitn | savegS | savegV | savegO | savegP | loadgS | loadgV | loadgO | loadgP | tlbinv | tlbinvAll | ret |
  exit | yield | ydone | vsync | nop => exact scalarIssue_next h _ _ _
  | _ => cases hi

/-- Every three-word instruction is a `laneIssue`, most of them through the shared operation of their kind, but for the words of the
hint space. -/
theorem exec_lane_next {i : Instr} {s : State} (hi : (encode i).length = 3) (h : (issuingBatch s).isSome) :
    ∃ t, exec i s = .next t := by
  cases i with
  | vaddc | vbfi | vsel | vshfl | vbcast | vred | vscan | vvote | vcmpx | vlaneid | vflagsRd | vflagsClr | vflagsRdclr
  | vflagsWr | vatom | lcopy | vspawn | accrd | accwr => dsimp only [exec]; exact laneIssue_next h _ _ _
  | vnot | vclz | vpopc | vbrev | vmov => dsimp only [exec]; exact laneMap_next h _ _ _
  | vadd | vsub | vmul | vmulh | vmad | vmin | vmax | vabs | vneg => dsimp only [exec]; exact laneArith_next h _ _ _
  | vand | vor | vxor => dsimp only [exec]; exact laneLogic_next h _ _ _
  | vshl | vshr | vsar => dsimp only [exec]; exact laneShift_next h _ _ _
  | pand | por | pxor | pnot | pmov | pset | psetMask => dsimp only [exec]; exact lanePred_next h _ _ _
  | vunpk | vbxdec | vbxenc => dsimp only [exec]; exact laneFloat_next h _ _ _
  | vfadd | vfsub | vfmul => dsimp only [exec]; exact laneFp2_next h _ _ _
  | vrcp | vrsq | vsqrt | vexp2 | vlog2 => dsimp only [exec]; exact laneSpecial_next h _ _ _
  | vld | vlds => dsimp only [exec]; exact laneLoad_next h _ _ _
  | vst | vsts => dsimp only [exec]; exact laneStore_next h _ _ _
  | mma | mmab => dsimp only [exec]; exact execMatrixLanes_next h _ _ _
  | vcmp | vfcmp =>
    dsimp only [exec, execVcmp, execVfcmp]
    exact laneIssue_next h _ _ _
  | vbfe | vperm | vfabs | vfneg | vfclass =>
    dsimp only [exec, execVbfe, execVperm, execVfabs, execVfneg, execVfclass]
    exact laneMap_next h _ _ _
  | vfma | vfmin | vfmax | vfrnd | vcvt | vpack =>
    dsimp only [exec, execVfma, execVfmin, execVfmax, execVfrnd, execVcvt, execVpack]
    exact laneFloat_next h _ _ _
  | laneHint => exact execLaneHint_next h _ _
  | _ => cases hi

/-- Every branch of a step of the device is a next state, the one in which its conditions do not hold among them (log entry 52). -/
theorem exec_event_next {i : Instr} (hi : encode i = []) (s : State) : ∃ t, exec i s = .next t := by
  cases i with
  | slotWrite | debugTokenSubmit | getVersion | getCapabilities | negotiateAlgorithms | getDigests | getCertificate |
  challenge | coldReset => exact ⟨_, rfl⟩
  | stepPartition | stepContext | stepMapping | stepQueue | stepProgramCreate | stepEnvelope | stepWindow |
  stepKeyRelease => exact stepOf_next _ _ _ _
  | sdivResult => rw [exec_sdivResult]; fun_cases execSdivResult <;> exact ⟨_, rfl⟩
  | joinMerge => rw [exec_joinMerge]; fun_cases execJoinMerge <;> exact ⟨_, rfl⟩
  | fenceComplete => rw [exec_fenceComplete]; fun_cases execFenceComplete <;> exact ⟨_, rfl⟩
  | barRelease => rw [exec_barRelease]; fun_cases execBarRelease <;> exact ⟨_, rfl⟩
  | copyAdmit => rw [exec_copyAdmit]; fun_cases execCopyAdmit <;> exact ⟨_, rfl⟩
  | copyPortionTake => rw [exec_copyPortionTake]; fun_cases execCopyPortionTake <;> exact ⟨_, rfl⟩
  | porterDelivery => rw [exec_porterDelivery]; fun_cases execPorterDelivery <;> exact ⟨_, rfl⟩
  | pannierReadEnd => rw [exec_pannierReadEnd]; fun_cases execPannierReadEnd <;> exact ⟨_, rfl⟩
  | slotLoad => rw [exec_slotLoad]; fun_cases execSlotLoad <;> exact ⟨_, rfl⟩
  | engineAdmit => rw [exec_engineAdmit]; fun_cases execEngineAdmit <;> exact ⟨_, rfl⟩
  | tokenGrant => rw [exec_tokenGrant]; fun_cases execTokenGrant <;> exact ⟨_, rfl⟩
  | passStreamStart => rw [exec_passStreamStart]; fun_cases execPassStreamStart <;> exact ⟨_, rfl⟩
  | accRowUpdate => rw [exec_accRowUpdate]; fun_cases execAccRowUpdate <;> exact ⟨_, rfl⟩
  | engineComplete => rw [exec_engineComplete]; fun_cases execEngineComplete <;> exact ⟨_, rfl⟩
  | moveInstall => rw [exec_moveInstall]; fun_cases execMoveInstall <;> exact ⟨_, rfl⟩
  | moveAck => rw [exec_moveAck]; fun_cases execMoveAck <;> exact ⟨_, rfl⟩
  | moveForward => rw [exec_moveForward]; fun_cases execMoveForward <;> exact ⟨_, rfl⟩
  | moveRelease => rw [exec_moveRelease]; fun_cases execMoveRelease <;> exact ⟨_, rfl⟩
  | solicitResolve => rw [exec_solicitResolve]; fun_cases execSolicitResolve <;> exact ⟨_, rfl⟩
  | censusReport => rw [exec_censusReport]; fun_cases execCensusReport <;> exact ⟨_, rfl⟩
  | responderStart => rw [exec_responderStart]; fun_cases execResponderStart <;> exact ⟨_, rfl⟩
  | responderComplete => rw [exec_responderComplete]; fun_cases execResponderComplete <;> exact ⟨_, rfl⟩
  | qpushPublish => rw [exec_qpushPublish]; fun_cases execQpushPublish <;> exact ⟨_, rfl⟩
  | batchStart => rw [exec_batchStart]; fun_cases execBatchStart <;> exact ⟨_, rfl⟩
  | batchResume => rw [exec_batchResume]; fun_cases execBatchResume <;> exact ⟨_, rfl⟩
  | feAccessServe => rw [exec_feAccessServe]; fun_cases execFeAccessServe <;> exact ⟨_, rfl⟩
  | loadComplete => rw [exec_loadComplete]; fun_cases execLoadComplete <;> exact ⟨_, rfl⟩
  | storeAccept => rw [exec_storeAccept]; fun_cases execStoreAccept <;> exact ⟨_, rfl⟩
  | spadArrayWrite => rw [exec_spadArrayWrite]; fun_cases execSpadArrayWrite <;> exact ⟨_, rfl⟩
  | atomicPerform => rw [exec_atomicPerform]; fun_cases execAtomicPerform <;> exact ⟨_, rfl⟩
  | groupRetire => exact execGroupRetire_next _ _
  | spawnBinTimer => rw [exec_spawnBinTimer]; fun_cases execSpawnBinTimer <;> exact ⟨_, rfl⟩
  | binGroupResident => rw [exec_binGroupResident]; fun_cases execBinGroupResident <;> exact ⟨_, rfl⟩
  | queueParse => rw [exec_queueParse]; fun_cases execQueueParse <;> exact ⟨_, rfl⟩
  | unitPlace => rw [exec_unitPlace]; fun_cases execUnitPlace <;> exact ⟨_, rfl⟩
  | fenceRecordRead => rw [exec_fenceRecordRead]; fun_cases execFenceRecordRead <;> exact ⟨_, rfl⟩
  | courierBatch => rw [exec_courierBatch]; fun_cases execCourierBatch <;> exact ⟨_, rfl⟩
  | courierTimeout => rw [exec_courierTimeout]; fun_cases execCourierTimeout <;> exact ⟨_, rfl⟩
  | depotPublish => rw [exec_depotPublish]; fun_cases execDepotPublish <;> exact ⟨_, rfl⟩
  | readSlot => rw [exec_readSlot]; fun_cases execReadSlot <;> exact ⟨_, rfl⟩
  | stepProgramRestart => rw [exec_stepProgramRestart]; fun_cases execStepProgramRestart <;> exact ⟨_, rfl⟩
  | programTeamPlace => rw [exec_programTeamPlace]; fun_cases execProgramTeamPlace <;> exact ⟨_, rfl⟩
  | stepDelete => rw [exec_stepDelete]; fun_cases execStepDelete <;> exact ⟨_, rfl⟩
  | parkReplay => rw [exec_parkReplay]; fun_cases execParkReplay <;> exact ⟨_, rfl⟩
  | atsCompletion => rw [exec_atsCompletion]; fun_cases execAtsCompletion <;> exact ⟨_, rfl⟩
  | priResponse => rw [exec_priResponse]; fun_cases execPriResponse <;> exact ⟨_, rfl⟩
  | atsInvalidate => rw [exec_atsInvalidate]; fun_cases execAtsInvalidate <;> exact ⟨_, rfl⟩
  | sliceExpiry => exact execSliceExpiry_next _ _ _
  | handlerStart => rw [exec_handlerStart]; fun_cases execHandlerStart <;> exact ⟨_, rfl⟩
  | handlerBudgetExpiry => rw [exec_handlerBudgetExpiry]; fun_cases execHandlerBudgetExpiry <;> exact ⟨_, rfl⟩
  | forcedSave => rw [exec_forcedSave]; fun_cases execForcedSave <;> exact ⟨_, rfl⟩
  | regionSwitch => rw [exec_regionSwitch]; fun_cases execRegionSwitch <;> exact ⟨_, rfl⟩
  | deviceResident => rw [exec_deviceResident]; fun_cases execDeviceResident <;> exact ⟨_, rfl⟩
  | thermalPoolStep => rw [exec_thermalPoolStep]; fun_cases execThermalPoolStep <;> exact ⟨_, rfl⟩
  | energyUpdate => rw [exec_energyUpdate]; fun_cases execEnergyUpdate <;> exact ⟨_, rfl⟩
  | oasisGo => rw [exec_oasisGo]; fun_cases execOasisGo <;> exact ⟨_, rfl⟩
  | notifyStore => rw [exec_notifyStore]; fun_cases execNotifyStore <;> exact ⟨_, rfl⟩
  | getMeasurements => rw [exec_getMeasurements]; fun_cases execGetMeasurements <;> exact ⟨_, rfl⟩
  | keyExchange => rw [exec_keyExchange]; fun_cases execKeyExchange <;> exact ⟨_, rfl⟩
  | tdiLeaveRun => rw [exec_tdiLeaveRun]; fun_cases execTdiLeaveRun <;> exact ⟨_, rfl⟩
  | functionLevelReset => rw [exec_functionLevelReset]; fun_cases execFunctionLevelReset <;> exact ⟨_, rfl⟩
  | vfEnableSet => rw [exec_vfEnableSet]; fun_cases execVfEnableSet <;> exact ⟨_, rfl⟩
  | vfEnableClear => rw [exec_vfEnableClear]; fun_cases execVfEnableClear <;> exact ⟨_, rfl⟩
  | deviceReset => rw [exec_deviceReset]; fun_cases execDeviceReset <;> exact ⟨_, rfl⟩
  | resetComplete => rw [exec_resetComplete]; fun_cases execResetComplete <;> exact ⟨_, rfl⟩
  | bootstateAdvance => rw [exec_bootstateAdvance]; fun_cases execBootstateAdvance <;> exact ⟨_, rfl⟩
  | peerFlitRetry => rw [exec_peerFlitRetry]; fun_cases execPeerFlitRetry <;> exact ⟨_, rfl⟩
  | peerPortDown => rw [exec_peerPortDown]; fun_cases execPeerPortDown <;> exact ⟨_, rfl⟩
  | peerAccessArrive => rw [exec_peerAccessArrive]; fun_cases execPeerAccessArrive <;> exact ⟨_, rfl⟩
  | lineReadReturn => rw [exec_lineReadReturn]; fun_cases execLineReadReturn <;> exact ⟨_, rfl⟩
  | sramScrub => rw [exec_sramScrub]; fun_cases execSramScrub <;> exact ⟨_, rfl⟩
  | hbmPatrolScrub => rw [exec_hbmPatrolScrub]; fun_cases execHbmPatrolScrub <;> exact ⟨_, rfl⟩
  | groupHalt => rw [exec_groupHalt]; fun_cases execGroupHalt <;> exact ⟨_, rfl⟩
  | inspectDiscard => rw [exec_inspectDiscard]; fun_cases execInspectDiscard <;> exact ⟨_, rfl⟩
  | registerWrite => rw [exec_registerWrite]; fun_cases execRegisterWrite <;> exact ⟨_, rfl⟩
  | tdiEntersRun => rw [exec_tdiEntersRun]; fun_cases execTdiEntersRun <;> exact ⟨_, rfl⟩
  | oasisHartAccess => rw [exec_oasisHartAccess]; fun_cases execOasisHartAccess <;> exact ⟨_, rfl⟩
  | oasisHartFence => rw [exec_oasisHartFence]; fun_cases execOasisHartFence <;> exact ⟨_, rfl⟩
  | debugAccess => rw [exec_debugAccess]; fun_cases execDebugAccess <;> exact ⟨_, rfl⟩
  | _ => cases hi

/-- Settles O55: an event needs no issuer, and one word and three words are a scalar and a lane instruction. -/
theorem everyInstructionGoesOn : Obligations.EveryInstructionGoesOn := by
  rintro i s (he | ⟨h1, hs⟩ | ⟨h3, hb⟩)
  · exact exec_event_next he s
  · exact exec_scalar_next h1 hs
  · exact exec_lane_next h3 hb

end Sys2Proof.Proofs
end

section
/-! O59: the value of a code that is no NaN lies on the grid of its format, and rounding to that grid counts it back to the
code's magnitude; consecutive counts have consecutive codes, the subnormal ones and the first normal ones among them. -/

namespace Sys2Proof.Proofs
open Sys2Proof Sys2Proof.Machine

/-! ### Sign and magnitude -/

theorem mag_lt (F : Fmt) (c : Nat) : F.mag c < 2 ^ (F.eb + F.fb) := Nat.mod_lt _ (Nat.two_pow_pos _)

/-- A code is its sign bit before its magnitude (R134). -/
theorem sign_neg_mag {F : Fmt} {c : Nat} (hc : c < 2 ^ F.width) : F.sign (F.neg c) (F.mag c) = c := by
  have hq : c / 2 ^ (F.eb + F.fb) < 2 := by
    rw [Nat.div_lt_iff_lt_mul (Nat.two_pow_pos _), ← Nat.pow_succ']
    exact Nat.lt_of_lt_of_eq hc (by rw [Fmt.width, Nat.add_assoc, Nat.add_comm])
  have hdm := Nat.div_add_mod c (2 ^ (F.eb + F.fb))
  simp only [Fmt.sign, Fmt.neg, Fmt.mag, Nat.testBit_eq_decide_div_mod_eq, decide_eq_true_eq]
  obtain h | h := Nat.le_one_iff_eq_zero_or_eq_one.mp (Nat.le_of_lt_succ hq) <;>
    simpa [h] using hdm

/-- The magnitude after the largest finite one: infinity's, or the NaN's of a format without infinities (R135). -/
def firstNonFinite (F : Fmt) : Nat := if F.ieee then F.infMag else 2 ^ (F.eb + F.fb) - 1

theorem mag_lt_firstNonFinite {F : Fmt} {c : Nat} (hn : F.isNan c = false) (hi : F.ieee = true → F.mag c ≠ F.infMag) :
    F.mag c < firstNonFinite F := by
  have hm := mag_lt F c
  unfold Fmt.isNan at hn
  unfold firstNonFinite
  split at hn
  case isTrue h =>
    have := hi h
    rw [decide_eq_false_iff_not, ← Fmt.infMag] at hn
    rw [if_pos h]
    omega
  case isFalse h =>
    rw [decide_eq_false_iff_not] at hn
    rw [if_neg h]
    omega

/-! ### Rounding what lies on the grid -/

/-- A value at the step of its own binade is exact, and its code counts the steps below it (R142). -/
theorem roundMag_of_onGrid {F : Fmt} {n : Nat} {e : Int} (hn : n ≠ 0)
    (hq : max ((n.log2 : Int) + e - F.fb) (F.emin - F.fb) = e) (neg : Bool) (m : Rnd) :
    roundMag F neg n e false m = (n + (e - (F.emin - F.fb)).toNat * 2 ^ F.fb, false) := by
  cases m <;> simp [roundMag, hn, hq]

theorem roundMag_subnormal {F : Fmt} {n : Nat} (h : n < 2 ^ F.fb) (neg : Bool) (m : Rnd) :
    roundMag F neg n (F.emin - F.fb) false m = (n, false) := by
  by_cases hn : n = 0
  · simp [roundMag, hn]
  · have hlog := (Nat.log2_lt hn).mpr h
    rw [roundMag_of_onGrid hn (by omega)]
    simp

theorem roundMag_normal {F : Fmt} {q r : Nat} (hq : 1 ≤ q) (hr : r < 2 ^ F.fb) (neg : Bool) (m : Rnd) :
    roundMag F neg (2 ^ F.fb + r) (q - F.bias - F.fb) false m = (2 ^ F.fb * q + r, false) := by
  have hlog : (2 ^ F.fb + r).log2 = F.fb := by
    rw [Nat.log2_eq_iff (by omega), Nat.pow_succ]
    omega
  have hsteps : ((q : Int) - F.bias - F.fb - (F.emin - F.fb)).toNat = q - 1 := by
    rw [Fmt.emin]
    omega
  rw [roundMag_of_onGrid (by omega) (by rw [hlog, Fmt.emin]; omega), hsteps]
  obtain ⟨p, rfl⟩ := Nat.exists_eq_add_of_le' hq
  rw [Nat.add_sub_cancel, Nat.mul_succ, Nat.mul_comm]
  congr 1
  omega

/-- The value of a finite code rounds to the magnitude of the code, exactly (R141, R142). -/
theorem dec_finite {F : Fmt} {c : Nat} (hn : F.isNan c = false) (hi : F.ieee = true → F.mag c ≠ F.infMag) :
    ∃ n e, dec F c false = .fin (F.neg c) n e false ∧ ∀ m, roundMag F (F.neg c) n e false m = (F.mag c, false) := by
  have hinf : (F.ieee && F.mag c == F.infMag) = false := by simpa using hi
  have hpos := Nat.two_pow_pos F.fb
  by_cases hs : F.mag c / 2 ^ F.fb = 0
  case pos =>
    have hlt := (Nat.div_eq_zero_iff.mp hs).resolve_left (Nat.ne_of_gt hpos)
    exact ⟨_, _, by simp only [dec, hn, hinf, hs]; rfl, roundMag_subnormal hlt _⟩
  case neg =>
    refine ⟨_, _, by simp only [dec, hn, hinf, hs]; rfl, fun m => ?_⟩
    rw [roundMag_normal (Nat.one_le_iff_ne_zero.mpr hs) (Nat.mod_lt _ hpos), Nat.div_add_mod]

/-! ### Encoding -/

/-- A finite value that rounds exactly to a magnitude in range has that code, without a flag (R142). -/
theorem enc_of_exact {F : Fmt} {neg : Bool} {n c : Nat} {e : Int} {m : Rnd} (h : roundMag F neg n e false m = (c, false))
    (hc : c ≤ F.maxCode) (sat : Bool) : enc F (.fin neg n e false) m sat false = (F.sign neg c, 0) := by
  simp [enc, h, Nat.not_lt.mpr hc]

/-- The code of a finite code's value is the code, with saturation off and on. -/
theorem enc_dec_of_finite {F : Fmt} {c : Nat} (hF : F.maxCode + 1 = firstNonFinite F) (hc : c < 2 ^ F.width)
    (hn : F.isNan c = false) (hi : F.ieee = true → F.mag c ≠ F.infMag) (m : Rnd) (sat : Bool) :
    enc F (dec F c false) m sat false = (c, 0) := by
  obtain ⟨n, e, hd, hr⟩ := dec_finite hn hi
  have hmax := mag_lt_firstNonFinite hn hi
  rw [hd, enc_of_exact (hr m) (by omega), sign_neg_mag hc]

/-- The code of an infinity is the code, with saturation off. -/
theorem enc_dec_of_infinite {F : Fmt} {c : Nat} (hc : c < 2 ^ F.width) (hn : F.isNan c = false) (hi : F.ieee = true)
    (hm : F.mag c = F.infMag) (m : Rnd) : enc F (dec F c false) m false false = (c, 0) := by
  have hd : dec F c false = .inf (F.neg c) := by simp [dec, hn, hi, hm]
  simp [hd, enc, hi, ← hm, sign_neg_mag hc]

/-- R135: the largest finite code of each format stands before infinity, or before the NaN of .e4m3. -/
theorem maxCode_succ : ∀ F ∈ [fmtF32, fmtF16, fmtBf16, fmtE4m3, fmtE5m2], F.maxCode + 1 = firstNonFinite F := by decide

/-- Settles O59: a finite value rounds to its own code, and an infinity without saturation has its own code. -/
theorem formatCodesAreExact : Obligations.FormatCodesAreExact := by
  intro F hF c m hc hn
  have hmax := maxCode_succ F hF
  refine ⟨?_, fun hi => enc_dec_of_finite hmax hc hn hi m true⟩
  by_cases hi : F.ieee = true ∧ F.mag c = F.infMag
  · obtain ⟨hieee, hm⟩ := hi
    exact enc_dec_of_infinite hc hn hieee hm m
  · exact enc_dec_of_finite hmax hc hn (not_and.mp hi) m false

end Sys2Proof.Proofs
end

section
/-! O34: the engine's events. Each is a chain of the model's operations on one core and one group; the laws of those operations
come first, then the events. -/

namespace Sys2Proof.Proofs
open Sys2Proof Sys2Proof.Machine

/-! ### Elements of type .i8 (R149) -/

theorem sInt_toNat {w : Nat} (x : BitVec w) : sInt w x.toNat = x.toInt := by
  have := x.isLt
  unfold sInt
  rw [BitVec.toInt_eq_toNat_cond, Nat.mod_eq_of_lt this]
  cases w with
  | zero => simp at this; simp [this]
  | succ w => simp only [Nat.add_sub_cancel, Nat.pow_succ]; congr 1; rw [eq_iff_iff]; omega

theorem ofNat_wrapN (w : Nat) (x : Int) : BitVec.ofNat w (wrapN x w) = BitVec.ofInt w x :=
  (BitVec.ofNatLT_eq_ofNat _).symm

theorem ofNat_intColumn (acc : Word) (a b : List Byte) :
    BitVec.ofNat 32 (intColumn acc.toNat a b) = acc + BitVec.ofInt 32 (byteProducts a b) := by
  rw [intColumn, ofNat_wrapN, sInt_toNat, BitVec.ofInt_add, BitVec.ofInt_toInt, byteProducts, List.sum_eq_foldl]
  simp only [sInt_toNat]

theorem length_updateRow (s : State) (core n : Nat) (z diag : Bool) (fmt : Word) (acc : List Word) (row side : List Byte) :
    (updateRow s core n z diag fmt acc row side).1.length = 128 := by
  simp [updateRow, upto]

theorem foldl_or_eq_self {α : Type} (l : List α) (g : α → Flags) (h : ∀ a ∈ l, g a = 0) (f : Flags) :
    l.foldl (fun f a => f ||| g a) f = f := by
  induction l with
  | nil => rfl
  | cons a l ih => simp [h a, ih fun b hb => h b (List.mem_cons_of_mem a hb)]

/-- The part of a row that a column's block of the block diagonal takes, or the whole row (R252). -/
def blockOf (diag : Bool) (c : Nat) (l : List Byte) : List Byte := if diag then (l.drop (24 * (c / 8))).take 24 else l

section
variable {fmt : Word} (h : fmtA fmt = 0x11) (s : State) (core n : Nat) (z diag : Bool) (acc : List Word) (row side : List Byte)
include h

theorem columnUpdate_i8 (c a : Nat) (col colSide : List Byte) : columnUpdate fmt diag c a row side col colSide =
    (intColumn a (blockOf diag c row) (blockOf diag c col), 0) := if_pos h

/-- Integer sums raise no flag. -/
theorem updateRow_i8_flags : (updateRow s core n z diag fmt acc row side).2 = 0 :=
  foldl_or_eq_self _ _ (by simp [columnUpdate_i8 h]) 0

theorem updateRow_i8_getD {c : Nat} (hc : c < 128) : (updateRow s core n z diag fmt acc row side).1.getD c 0 =
    (if z then 0 else acc.getD c 0) +
      BitVec.ofInt 32 (byteProducts (blockOf diag c row) (blockOf diag c (s.bytesAt (.slot core n (384 * c)) 384))) := by
  rw [← ofNat_intColumn]
  simp only [updateRow, columnUpdate_i8 h]
  cases z <;> simp [upto, hc, slotColumn]

end

/-! ### Accumulator rows (R255) -/

theorem accRow_eq_keyGet (s : State) (core r : Nat) :
    accRow s core r = keyGet (List.replicate 128 0, 0) (s.core core).accs r := by
  unfold accRow
  induction (s.core core).accs with
  | nil => rfl
  | cons p l ih => by_cases h : p.1 = r <;> simp_all [keyGet]

theorem keyGet_filter_ne {α : Type} (d : α) (l : List (Nat × α)) (a b : Nat) :
    keyGet d (l.filter fun p => p.1 != a) b = if a = b then d else keyGet d l b := by
  induction l with
  | nil => simp [keyGet]
  | cons p l ih =>
    by_cases ha : p.1 = a
    · rw [List.filter_cons_of_neg (by simpa using ha), ih, keyGet, ha]
      split <;> rfl
    · rw [List.filter_cons_of_pos (by simpa using ha), keyGet, keyGet, ih]
      split <;> rename_i hb
      · rw [if_neg (hb ▸ Ne.symm ha)]
      · rfl

/-- A row reads as it was set, though a row of zeros is not listed. -/
theorem accRow_setAccRow (s : State) (core r : Nat) {xs : List Word} (hx : xs.length = 128) (f : Flags) (k : Nat) :
    accRow (setAccRow s core r xs f) core k = if r = k then (xs, f) else accRow s core k := by
  simp only [accRow_eq_keyGet, setAccRow, State.core_modCore, if_true]
  split
  case isTrue h =>
    obtain ⟨hf, hz⟩ := h
    have hxs : xs = List.replicate 128 0 := by
      rw [List.eq_replicate_iff]
      exact ⟨hx, fun w hw => by simpa using List.all_eq_true.mp hz w hw⟩
    rw [keyGet_filter_ne, hxs, hf]
  case isFalse => exact keyGet_keySet ..

/-! ### What the shared operations of the engine leave -/

/-- A fold of steps that keep a part of the state keeps it. -/
theorem foldl_keeps {α β : Type} {p : State → β} {f : State → α → State} (h : ∀ s a, p (f s a) = p s) (l : List α) (s : State) :
    p (l.foldl f s) = p s := by
  induction l generalizing s with
  | nil => rfl
  | cons a l ih => rw [List.foldl_cons, ih, h]

/-- `t` differs from `s` in the tokens of engines and in the hub only. -/
structure TokensOnly (s t : State) : Prop where
  frame : t = { s with cores := t.cores, hub := t.hub }
  core : ∀ d, t.core d = { s.core d with engine := { (s.core d).engine with token := (t.core d).engine.token } }

namespace TokensOnly

variable {s t : State}

theorem refl (s : State) : TokensOnly s s := ⟨rfl, fun _ => rfl⟩

theorem modHub (h : TokensOnly s t) (f : Hub → Hub) : TokensOnly s (t.modHub f) :=
  ⟨by rw [h.frame]; rfl, fun d => h.core d⟩

theorem setToken (h : TokensOnly s t) (core : Nat) (tok : Option Nat) :
    TokensOnly s (t.modCore core fun k => { k with engine := { k.engine with token := tok } }) := by
  refine ⟨by rw [h.frame]; rfl, fun d => ?_⟩
  rw [State.core_modCore]
  split
  · rw [h.core d]
  · exact h.core d

end TokensOnly

@[simp] theorem core_modHub (s : State) (f : Hub → Hub) (c : Nat) : (s.modHub f).core c = s.core c := rfl

/-- The engine keeps, returns or asks for a token (R246). -/
theorem tokenStep_tokensOnly (s : State) (core : Nat) : TokensOnly s (tokenStep s core) := by
  have hs := TokensOnly.refl s
  unfold tokenStep
  dsimp only
  split
  case h_1 =>
    have hr := hs.modHub fun h => { h with tokenReqs := h.tokenReqs.filter fun r => r.1 != core }
    split
    · exact hr
    · split
      · exact hr
      · exact hr.setToken core none
  case h_2 =>
    split
    · exact hs
    · have hd := hs.setToken core none
      split
      · split
        · exact hs
        · exact hs.modHub _
      · split
        · exact hd
        · exact hd.modHub _

@[simp] theorem tokenStep_mem (s : State) (core : Nat) : (tokenStep s core).mem = s.mem := by
  rw [(tokenStep_tokensOnly s core).frame]
@[simp] theorem tokenStep_engops (s : State) (core : Nat) : (tokenStep s core).engops = s.engops := by
  rw [(tokenStep_tokensOnly s core).frame]
@[simp] theorem group?_tokenStep (s : State) (core gid : Nat) : (tokenStep s core).group? gid = s.group? gid := by
  rw [(tokenStep_tokensOnly s core).frame]
  rfl
@[simp] theorem now_tokenStep (s : State) (core d : Nat) : (tokenStep s core).now d = s.now d := by
  rw [State.now, (tokenStep_tokensOnly s core).core, State.now]
@[simp] theorem portAt_tokenStep (s : State) (core d : Nat) :
    ((tokenStep s core).core d).engine.portAt = (s.core d).engine.portAt := by
  rw [(tokenStep_tokensOnly s core).core]
@[simp] theorem panAt_tokenStep (s : State) (core d e : Nat) : panAt (tokenStep s core) d e = panAt s d e := by
  rw [panAt, now_tokenStep, (tokenStep_tokensOnly s core).core, panAt]
@[simp] theorem accRow_tokenStep (s : State) (core d r : Nat) : accRow (tokenStep s core) d r = accRow s d r := by
  rw [accRow, (tokenStep_tokensOnly s core).core, accRow]

/-! ### Splits that go on (R245, R246) -/

/-- Changes of splits leave the rest of their group. -/
theorem foldl_modSplit_eq (f : Split → Split) (l : List Nat) (g : Group) :
    l.foldl (fun h i => h.modSplit i f) g =
      { g with splits := (l.foldl (fun h i => h.modSplit i f) g).splits,
               handler := (l.foldl (fun h i => h.modSplit i f) g).handler } := by
  induction l generalizing g with
  | nil => rfl
  | cons i l ih =>
    rw [List.foldl_cons, ih, Group.modSplit_eq]

@[simp] theorem wakeSplit_mem (s : State) (gid : Nat) (blk : Block) : (wakeSplit s gid blk).mem = s.mem := rfl
@[simp] theorem wakeSplit_engops (s : State) (gid : Nat) (blk : Block) : (wakeSplit s gid blk).engops = s.engops := rfl
@[simp] theorem core_wakeSplit (s : State) (gid : Nat) (blk : Block) (c : Nat) : (wakeSplit s gid blk).core c = s.core c := rfl
@[simp] theorem now_wakeSplit (s : State) (gid : Nat) (blk : Block) (c : Nat) : (wakeSplit s gid blk).now c = s.now c := rfl
@[simp] theorem panAt_wakeSplit (s : State) (gid : Nat) (blk : Block) (c e : Nat) :
    panAt (wakeSplit s gid blk) c e = panAt s c e := rfl

/-- A split that goes on leaves the counters of its group. -/
theorem wakeSplit_wc {s : State} {gid h : Nat} {g : Group} (hg : s.group? h = some g) (blk : Block) :
    ∃ k, (wakeSplit s gid blk).group? h = some k ∧ k.wc = g.wc := by
  rw [wakeSplit, State.group?_modGroup _ _ _ _ fun g => by rw [foldl_modSplit_eq], hg]
  split
  · refine ⟨_, rfl, ?_⟩
    dsimp only
    rw [foldl_modSplit_eq]
  · exact ⟨g, rfl, rfl⟩

/-! ### Admission (R244) -/

@[simp] theorem now_enginePort (s : State) (core : Nat) :
    (enginePort s core).now core = max (s.now core) (s.core core).engine.portAt := by
  simp [enginePort, State.now]

@[simp] theorem portAt_enginePort (s : State) (core : Nat) :
    ((enginePort s core).core core).engine.portAt = (enginePort s core).now core + 1 := by
  simp [enginePort, State.now]

theorem pans_enginePort (s : State) (core d : Nat) : ((enginePort s core).core d).pans = (s.core d).pans := by
  rw [enginePort, State.core_modCore]
  split <;> rfl

@[simp] theorem now_beginRead (s : State) (core e d : Nat) : (beginRead s core e).now d = s.now d := by
  rw [State.now, beginRead, modPan, State.core_modCore]
  split <;> rfl

@[simp] theorem portAt_beginRead (s : State) (core e d : Nat) :
    ((beginRead s core e).core d).engine.portAt = (s.core d).engine.portAt := by
  rw [beginRead, modPan, State.core_modCore]
  split <;> rfl

theorem Pannier.asOf_of_ne_draining {p : Pannier} (h : p.state ≠ .draining) (now : Nat) : p.asOf now = p := if_neg fun h' => h h'.1

/-- An entry that shows full stands so in the table; time does not change it (R221). -/
theorem keyGet_pans_of_full {s : State} {core e : Nat} (h : (panAt s core e).state = .full) :
    keyGet Pannier.empty (s.core core).pans e = panAt s core e := by
  unfold panAt Pannier.asOf at h ⊢
  split
  case isTrue hd =>
    rw [if_pos hd] at h
    cases h
  case isFalse => rfl

/-- A full entry with its reads counted, in whatever cycle it is read (R224). -/
theorem panAt_beginRead_of_full {s t : State} {core e : Nat} (hp : (t.core core).pans = (s.core core).pans)
    (h : (panAt s core e).state = .full) :
    panAt (beginRead t core e) core e = { panAt s core e with inflight := (panAt s core e).inflight + 1 } := by
  have ht : panAt t core e = panAt s core e := by
    rw [panAt, hp, keyGet_pans_of_full h, Pannier.asOf_of_ne_draining (by simp [h])]
  rw [panAt, beginRead, modPan, State.core_modCore, if_pos rfl, keyGet_keySet, if_pos rfl, ht]
  exact Pannier.asOf_of_ne_draining (by simp [h]) _

@[simp] theorem core_modGroup (s : State) (gid : Nat) (f : Group → Group) (c : Nat) : (s.modGroup gid f).core c = s.core c := rfl
@[simp] theorem now_modGroup (s : State) (gid : Nat) (f : Group → Group) (c : Nat) : (s.modGroup gid f).now c = s.now c := rfl
@[simp] theorem panAt_modGroup (s : State) (gid : Nat) (f : Group → Group) (c e : Nat) :
    panAt (s.modGroup gid f) c e = panAt s c e := rfl

@[simp] theorem wcInc_getD (g : Group) (n k : Nat) : (g.wcInc n).wc.getD k 0 = g.wc.getD k 0 + if k = n then 1 else 0 := by
  simp only [Group.wcInc, Group.wcGet, List.getD_eq_getElem?_getD, getElem?_padSet]
  split
  · rw [‹k = n›]
  · rfl

/-- The port of the core taken, and the operation at the end of the admission order. -/
def entered (s : State) (o : EngOp) : State :=
  { enginePort s o.core with
    engops := (enginePort s o.core).engops.filter (fun k => k.id != o.id) ++
      [{ o with admitted := true, admittedAt := (enginePort s o.core).now o.core }] }

/-- The end of an admission: its counter, and the token of a pass or the split of another operation. -/
def admitEnd (s : State) (o : EngOp) : State :=
  let t := if o.counted then s.modGroup o.gid fun h => h.wcInc 3 else s
  if o.isPass then tokenStep t o.core else wakeSplit t o.gid (.engine o.id)

theorem admitEng_of_none {o : EngOp} (h : o.pan = none) (s : State) : admitEng s o = admitEnd (entered s o) o := by
  simp only [admitEng, admitEnd, entered, h]

theorem admitEng_of_some {o : EngOp} {e : Nat} (h : o.pan = some e) (s : State) :
    admitEng s o = admitEnd (beginRead (entered s o) (panCoreOf o) e) o := by
  simp only [admitEng, admitEnd, entered, h]

section
variable (s : State) (o : EngOp)

@[simp] theorem admitEnd_mem : (admitEnd s o).mem = s.mem := by
  unfold admitEnd
  split <;> split <;> simp

@[simp] theorem admitEnd_engops : (admitEnd s o).engops = s.engops := by
  unfold admitEnd
  split <;> split <;> simp

@[simp] theorem now_admitEnd (c : Nat) : (admitEnd s o).now c = s.now c := by
  unfold admitEnd
  split <;> split <;> simp

@[simp] theorem portAt_admitEnd (c : Nat) : ((admitEnd s o).core c).engine.portAt = (s.core c).engine.portAt := by
  unfold admitEnd
  split <;> split <;> simp

@[simp] theorem panAt_admitEnd (c e : Nat) : panAt (admitEnd s o) c e = panAt s c e := by
  unfold admitEnd
  split <;> split <;> simp

theorem admitEng_mem : (admitEng s o).mem = s.mem := by
  cases h : o.pan with
  | none => rw [admitEng_of_none h, admitEnd_mem]; rfl
  | some e => rw [admitEng_of_some h, admitEnd_mem]; rfl

theorem now_admitEng : (admitEng s o).now o.core = max (s.now o.core) (s.core o.core).engine.portAt := by
  rw [← now_enginePort]
  cases h : o.pan with
  | none => rw [admitEng_of_none h, now_admitEnd]; rfl
  | some e => rw [admitEng_of_some h, now_admitEnd, now_beginRead]; rfl

theorem portAt_admitEng : ((admitEng s o).core o.core).engine.portAt = (admitEng s o).now o.core + 1 := by
  rw [now_admitEng, ← now_enginePort, ← portAt_enginePort]
  cases h : o.pan with
  | none => rw [admitEng_of_none h, portAt_admitEnd]; rfl
  | some e => rw [admitEng_of_some h, portAt_admitEnd, portAt_beginRead]; rfl

theorem admitEng_engops : (admitEng s o).engops = s.engops.filter (fun k => k.id != o.id) ++
    [{ o with admitted := true, admittedAt := (admitEng s o).now o.core }] := by
  rw [now_admitEng, ← now_enginePort]
  obtain h | ⟨e, h⟩ := Option.eq_none_or_eq_some o.pan
  · rw [admitEng_of_none h, admitEnd_engops]
    rfl
  · rw [admitEng_of_some h, admitEnd_engops]
    rfl

end

/-- A counted operation is on its group's counter 3 from its admission on. -/
theorem admitEnd_counted {s : State} {o : EngOp} {g : Group} (hc : o.counted = true) (hg : s.group? o.gid = some g) :
    ∃ k, (admitEnd s o).group? g.gid = some k ∧ k.wc = (g.wcInc 3).wc := by
  have hi : (s.modGroup o.gid fun h => h.wcInc 3).group? g.gid = some (g.wcInc 3) := by
    rw [State.group?_gid hg, State.group?_modGroup _ _ _ (·.wcInc 3) fun _ => rfl, if_pos rfl, hg]
    rfl
  simp only [admitEnd, hc, if_true]
  split
  · exact ⟨_, (group?_tokenStep ..).trans hi, rfl⟩
  · exact wakeSplit_wc hi _

theorem admitEng_counted {s : State} {o : EngOp} {g : Group} (hc : o.counted = true) (hg : s.group? o.gid = some g) :
    CountedOn s (admitEng s o) g 3 := by
  have hk : ∃ k, (admitEng s o).group? g.gid = some k ∧ k.wc = (g.wcInc 3).wc := by
    cases h : o.pan with
    | none => rw [admitEng_of_none h]; exact admitEnd_counted hc hg
    | some e => rw [admitEng_of_some h]; exact admitEnd_counted hc hg
  obtain ⟨k, hk, hw⟩ := hk
  exact ⟨k, hk, fun n => by rw [hw, wcInc_getD]⟩

theorem panAt_admitEng {s : State} {o : EngOp} {e : Nat} (h : o.pan = some e) (hf : (panAt s (panCoreOf o) e).state = .full) :
    panAt (admitEng s o) (panCoreOf o) e =
      { panAt s (panCoreOf o) e with inflight := (panAt s (panCoreOf o) e).inflight + 1 } := by
  rw [admitEng_of_some h, panAt_admitEnd]
  exact panAt_beginRead_of_full (pans_enginePort ..) hf

theorem panIs_state {s : State} {vd core e : Nat} {st : PanState} (h : panIs s vd core e st = true) :
    (panAt s core e).state = st := by
  simp only [panIs, Bool.and_eq_true, beq_iff_eq] at h
  obtain ⟨⟨hst, -⟩, -⟩ := h
  exact hst

/-- When the waits of an operation before its admission have ended (R244, R245, R274). -/
theorem engMay_iff {s : State} {o : EngOp} {g : Group} (hg : s.group? o.gid = some g) : engMay s o = true ↔
    o.admitted = false ∧ g.status = .running ∧ (g.frozen = true → o.who = 8) ∧ residentOn s o.core o.vd = true ∧
      (∀ e, o.pan = some e → panIs s o.vd (panCoreOf o) e .full = true ∧ residentOn s (panCoreOf o) o.vd = true) ∧
      queueRoom s o.core o.slot = true ∧ spadAccepted s o.gid o.ord.seq = true ∧
      acqPending s o.gid o.vd o.ord false = false := by
  have hz : (g.frozen = true → o.who = 8) ↔ (g.frozen = false ∨ o.who = 8) := by
    rw [← Bool.not_eq_true, Decidable.imp_iff_not_or]
  rw [hz, engMay, hg]
  cases o.pan with
  | none => simp [and_assoc]
  | some e => simp [and_assoc]

theorem engineAdmit_admits {s : State} {id : Nat} {o : EngOp} (hf : s.engops.find? (fun o => o.id == id) = some o)
    (hmay : engMay s o = true) (hb : portBehind s o = false) (hm : slotMissing s o = none) (hl : loadOut s o = none) :
    exec (.engineAdmit id) s = .next (admitEng s o) := by
  rw [exec_engineAdmit, execEngineAdmit, hf]
  simp [hmay, hb, hm, hl]

/-- The first asking engine takes a token of its device, if one is free for it (R246). -/
theorem tokenGrant_grants {s : State} {core vd : Nat} (hr : s.hub.tokenReqs.find? (fun r => r.1 == core) = some (core, vd))
    (hv : s.hub.tokenReqs.find? (fun r => r.2 == vd) = some (core, vd)) (hs : tokensHeld s (some vd) < max 1 (tokShare s vd))
    (hp : tokensHeld s none < tokenPool s) : exec (.tokenGrant core) s =
      .next ((s.modCore core fun k => { k with engine := { k.engine with token := some vd } }).modHub fun h =>
        { h with tokenReqs := h.tokenReqs.filter fun q => q.1 != core }) := by
  rw [exec_tokenGrant, execTokenGrant, hr]
  simp only [hv, beq_self_eq_true, hs, hp, and_self, if_true]

/-- The operations of the stream that a pass of slot `n` starts: itself and those that fuse with it (R247). -/
def fusedIds (s : State) (core n : Nat) (o : EngOp) : List Nat :=
  (o :: fuseWith o n (((admittedOn s core).dropWhile fun k => k.id != o.id).drop 1)).map (·.id)

/-- A stream starts for the oldest pass and those fused with it, and wakes their splits (R246, R247). -/
theorem passStreamStart_streams {s : State} {core n : Nat} {o : EngOp} (ho : oldestPass s core = some o)
    (hn : o.slotNo = some n) (hst : o.streaming = false) (ht : (s.core core).engine.token = some o.vd)
    (hl : loadBefore (engBefore s o) o.vd n = false) (hr : slotOf s core o.vd n = .ready) :
    ∃ t, exec (.passStreamStart core) s = .next t ∧ t.mem = s.mem ∧ t.engops =
      s.engops.map fun k => if (fusedIds s core n o).contains k.id then { k with streaming := true } else k := by
  rw [exec_passStreamStart, execPassStreamStart, ho]
  simp only [hn, hst, ht, hl, hr, bne_self_eq_false, Bool.or_self, Bool.false_eq_true, if_false, ne_eq, not_true_eq_false]
  refine ⟨_, rfl, ?_, ?_⟩
  · exact foldl_keeps (p := State.mem) (fun st i => by split <;> rfl) _ _
  · exact foldl_keeps (p := State.engops) (fun st i => by split <;> rfl) _ _

theorem oldestPass_mem {s : State} {core : Nat} {o : EngOp} (h : oldestPass s core = some o) : o ∈ s.engops :=
  (List.mem_filter.mp (List.mem_of_find?_eq_some h)).left

theorem engineAdmitsGrantsAndStreams : EngineAdmitsGrantsAndStreams := by
  refine ⟨?_, ?_, ?_⟩
  case refine_1 =>
    intro s id o g hf hg ha hr hz hres hpan hroom hsp hacq hb hm hl
    have hid : o.id = id := by simpa using List.find?_some hf
    have hmay := (engMay_iff hg).mpr ⟨ha, hr, hz, hres, hpan, hroom, hsp, hacq⟩
    exact ⟨_, engineAdmit_admits hf hmay hb hm hl, admitEng_mem s o,
      hid ▸ admitEng_engops s o, now_admitEng s o, portAt_admitEng s o, fun hc => admitEng_counted hc hg,
      fun e he => panAt_admitEng he (panIs_state (hpan e he).1)⟩
  case refine_2 =>
    intro s core vd hr hv hs hp
    refine ⟨_, tokenGrant_grants hr hv hs hp, ?_, fun c hc => ?_, rfl, rfl⟩
    · rw [core_modHub, State.core_modCore, if_pos rfl]
    · rw [core_modHub, State.core_modCore, if_neg (Ne.symm hc)]
  case refine_3 =>
    intro s core n o ho hn hst ht hl hr
    obtain ⟨t, he, hmem, hops⟩ := passStreamStart_streams ho hn hst ht hl hr
    have hc : (fusedIds s core n o).contains o.id = true := List.contains_iff_mem.mpr List.mem_cons_self
    refine ⟨t, he, fun k hk hid => ?_, ?_, hmem, ?_⟩
    · rw [hops] at hk
      obtain ⟨q, -, rfl⟩ := List.mem_map.mp hk
      by_cases hq : (fusedIds s core n o).contains q.id = true
      · rw [if_pos hq]
      · rw [if_neg hq] at hid
        exact absurd (hid ▸ hc) hq
    · rw [hops]
      exact ⟨_, List.mem_map_of_mem (oldestPass_mem ho), by split <;> rfl⟩
    · rw [hops, List.map_map]
      exact List.map_congr_left fun k _ => by simp only [Function.comp]; split <;> rfl

/-! ### A row of a pass (R250, R251) -/

theorem accRow_setEng (s : State) (o : EngOp) (core r : Nat) : accRow (setEng s o) core r = accRow s core r := rfl
theorem accRow_unlockEng (s : State) (o : EngOp) (core r : Nat) : accRow (unlockEng s o) core r = accRow s core r := rfl

/-- The next row of the streaming pass takes its update; no other row changes. -/
theorem accRowUpdate_updates {s : State} {core n : Nat} {z diag : Bool} {fmt : Word} {r : PassRow} {rest : List PassRow}
    {lanes : Option LaneMask} {o : EngOp} (ho : oldestPass s core = some o)
    (hk : o.kind = .pass n z diag fmt (r :: rest) lanes) (hs : o.streaming = true)
    (hb : accBlocked s o [r.acc] [r.acc] = false) (hp : rowPoison s o r z = none) :
    let u := updateRow s core n z diag fmt (accRow s core r.acc).1 (rowBytes s o r).1 (rowBytes s o r).2
    ∃ t, exec (.accRowUpdate core) s = .next t ∧ t.mem = s.mem ∧
      ∀ k, accRow t core k = if r.acc = k then (u.1, (if z then 0 else (accRow s core r.acc).2) ||| u.2) else accRow s core k := by
  rw [exec_accRowUpdate, execAccRowUpdate, ho]
  simp only [hk, hs, hb, hp, Bool.not_true, Bool.or_self, Bool.false_eq_true, if_false]
  refine ⟨_, rfl, ?_, fun k => ?_⟩
  · split
    · rw [tokenStep_mem]; rfl
    · rfl
  · rw [← accRow_setAccRow _ _ _ (length_updateRow ..)]
    split
    · rw [accRow_tokenStep]; rfl
    · rfl

theorem accRowUpdateAccumulates : AccRowUpdateAccumulates := by
  intro s core n z diag fmt r rest lanes o ho hk hs hb hp
  obtain ⟨t, he, hmem, hrow⟩ := accRowUpdate_updates ho hk hs hb hp
  have hself := (hrow r.acc).trans (if_pos rfl)
  refine ⟨t, he, hmem, fun k hk => (hrow k).trans (if_neg (Ne.symm hk)), hself, fun h => ?_⟩
  rw [hself, updateRow_i8_flags h]
  exact ⟨BitVec.or_zero, fun c hc => updateRow_i8_getD h _ _ _ _ _ _ _ _ hc⟩

/-- Settles O34: an admission is the port, the queue entry, the read and the counter; a grant and a stream start set one field; and
a row update sets the row to the exact sums of its columns. -/
theorem engineStreamsAndAccumulates : Obligations.EngineStreamsAndAccumulates :=
  ⟨engineAdmitsGrantsAndStreams, accRowUpdateAccumulates⟩

end Sys2Proof.Proofs
end

section
/-! O45: what may not wait is the first that `dueTurn` finds; the events at the end of a slice each change groups of one device
by their numbers. -/

namespace Sys2Proof.Proofs
open Sys2Proof Sys2Proof.Machine

/-! ### Whose turn it is (R186, R210, R277, R389, R390, R396) -/

/-- What may not wait happens before anything that the agenda names. -/
theorem step_of_due {s : State} {t : Turn} (h : dueTurn s = some t) : step s = t { s with held := false, cur := none } := by
  simp only [step, takeTurn, h]

/-- With nothing that may not wait, what the agenda names first happens. -/
theorem step_of_agenda {s : State} {a : Act} {l : List Act} (hd : dueTurn s = none) (ha : s.agenda = a :: l) :
    step s = perform { s with agenda := l, held := false } a := by
  simp only [step, takeTurn, hd, ha]

/-- Of what is due together, accesses come before barriers, these before bins, then residents, slices and budgets. -/
theorem step_due_order {s : State} (hf : s.hub.fences = []) (ht : s.teams.any (teamOver s) = false) :
    (∀ q, s.feqs.find? (feDue s) = some q → step s = exec (.feAccessServe q.id) { s with held := false, cur := none }) ∧
    (s.feqs.find? (feDue s) = none →
      (∀ b, dueBar s = some b → step s = exec (.barRelease b.1 b.2) { s with held := false, cur := none }) ∧
      (dueBar s = none →
        (∀ b, dueBin s = some b → step s = exec (.spawnBinTimer b.1 b.2) { s with held := false, cur := none }) ∧
        (dueBin s = none →
          (∀ r, dueResident s = some r → step s = exec (.deviceResident r.1 r.2) { s with held := false, cur := none }) ∧
          (dueResident s = none →
            (∀ r, dueSlice s = some r → step s = exec (.sliceExpiry r.1 r.2) { s with held := false, cur := none }) ∧
            (dueSlice s = none → ∀ g, s.groups.find? (budgetOver s) = some g →
              step s = exec (.handlerBudgetExpiry g.gid) { s with held := false, cur := none }))))) := by
  refine ⟨fun q hq => ?_, fun hq => ⟨fun b hb => ?_, fun hb => ⟨fun n hn => ?_, fun hn => ⟨fun r hr => ?_, fun hr =>
    ⟨fun k hk => ?_, fun hk g hg => ?_⟩⟩⟩⟩⟩
  · exact step_of_due (t := execFeAccessServe q.id) (by simp [dueTurn, hf, ht, hq])
  · exact step_of_due (t := execBarRelease b.1 b.2) (by simp [dueTurn, hf, ht, hq, hb])
  · exact step_of_due (t := execSpawnBinTimer n.1 n.2) (by simp [dueTurn, hf, ht, hq, hb, hn])
  · exact step_of_due (t := execDeviceResident r.1 r.2) (by simp [dueTurn, hf, ht, hq, hb, hn, hr])
  · exact step_of_due (t := execSliceExpiry k.1 k.2) (by simp [dueTurn, hf, ht, hq, hb, hn, hr, hk])
  · exact step_of_due (t := execHandlerBudgetExpiry g.gid) (by simp [dueTurn, hf, ht, hq, hb, hn, hr, hk, hg])

/-! ### A core that stops for what is due -/

@[simp] theorem now_reachCycle (s : State) (core t : Nat) : (reachCycle s core t).now core = t := by
  simp [reachCycle, State.now]

/-- A tick stops at the cycle after one at whose end something is due, with the rest of its cycles still to come. -/
theorem tick_stops {s : State} {core n h : Nat} {rest : List Act} (ha : s.agenda = .tick core n :: rest) (hd : dueTurn s = none)
    (hb : dueBefore { s with agenda := rest, held := false } core (s.now core + n) = some h) (hl : h < s.now core + n) :
    step s = .next (stopFor { s with agenda := rest, held := false } core h (.tick core (s.now core + n - h))) := by
  have hnow : ({ s with agenda := rest, held := false } : State).now core = s.now core := rfl
  rw [step_of_agenda hd ha]
  simp only [perform, passCycles, hnow, hb, hl, if_true]

/-- A tick with nothing due on the way takes its cycles. -/
theorem tick_passes {s : State} {core n : Nat} {rest : List Act} (ha : s.agenda = .tick core n :: rest) (hd : dueTurn s = none)
    (hb : dueBefore { s with agenda := rest, held := false } core (s.now core + n) = none) :
    step s = .next (reachCycle { s with agenda := rest, held := false } core (s.now core + n)) := by
  have hnow : ({ s with agenda := rest, held := false } : State).now core = s.now core := rfl
  rw [step_of_agenda hd ha]
  simp only [perform, passCycles, hnow, hb]

/-! ### Fences (R454) -/

@[simp] theorem fenceBad_groups (s : State) (vd core : Nat) (l : Loc) : (fenceBad s vd core l).groups = s.groups := by
  obtain ⟨fs, h⟩ := fenceBad_eq s vd core l
  rw [h]

@[simp] theorem vd_fenceBad (s : State) (vd core : Nat) (l : Loc) (v : Nat) : (fenceBad s vd core l).vd v = s.vd v := by
  obtain ⟨fs, h⟩ := fenceBad_eq s vd core l
  rw [h]
  rfl

@[simp] theorem vd_putBytes (s : State) (l : Loc) (bs : List Byte) (v : Nat) : (s.putBytes l bs).vd v = s.vd v := rfl

@[simp] theorem fenced_setStatus (s : State) (f bits v : Nat) : ((setStatus s f bits).vd v).fenced = (s.vd v).fenced := by
  rw [setStatus, State.vd_modVd]
  split <;> rfl

/-- An entry of a ring changes no group. -/
@[simp] theorem ringPost_groups (s : State) (f bits : Nat) (r : RingRec) : (ringPost s f bits r).groups = s.groups := by
  unfold ringPost
  dsimp only
  split
  · rfl
  · split
    · rfl
    · simp [setSysWord, setStatus]

/-- An entry of a ring fences no device. -/
@[simp] theorem fenced_ringPost (s : State) (f bits : Nat) (r : RingRec) (v : Nat) :
    ((ringPost s f bits r).vd v).fenced = (s.vd v).fenced := by
  unfold ringPost
  dsimp only
  split
  · rfl
  · split <;> simp only [setSysWord, vd_fenceBad, vd_putBytes, State.vd_modVd] <;> split <;> simp

@[simp] theorem postEvent_groups (s : State) (code vd gen detail : Nat) : (postEvent s code vd gen detail).groups = s.groups := by
  unfold postEvent
  dsimp only
  split <;> simp

@[simp] theorem fenced_postEvent (s : State) (code vd gen detail v : Nat) :
    ((postEvent s code vd gen detail).vd v).fenced = (s.vd v).fenced := by
  unfold postEvent
  dsimp only
  split <;> simp

/-- The group issues no more: it has taken a fault, or it is halted (R440). -/
def Stopped (g : Group) : Prop := g.status = .faulting ∨ g.status = .halted

/-- A fault stops the groups of its number, and sets none going. -/
theorem mem_raiseFault {s : State} {gid t : Nat} {f : FaultRec} {h : Group} (hh : h ∈ (raiseFault s gid t f).groups) :
    ∃ g ∈ s.groups, h.gid = g.gid ∧ h.vd = g.vd ∧ (Stopped g ∨ g.gid = gid → Stopped h) := by
  obtain ⟨g, hg, rfl⟩ := List.mem_map.mp hh
  refine ⟨g, hg, ?_⟩
  by_cases e : g.gid = gid
  · rw [if_pos (by simpa using e)]
    dsimp only
    split
    case h_1 hst => exact ⟨rfl, rfl, fun _ => .inr hst⟩
    case h_2 hst => split <;> exact ⟨rfl, rfl, fun _ => .inl hst⟩
    case h_3 => exact ⟨rfl, rfl, fun _ => .inl rfl⟩
  · rw [if_neg (by simpa using e)]
    exact ⟨rfl, rfl, fun h => h.resolve_right e⟩

/-- Faults of several groups, one after another, stop every group of their numbers. -/
theorem mem_foldl_raiseFault (now : State → Group → Nat) (f : Group → FaultRec) (l : List Group) (s : State) {h : Group}
    (hh : h ∈ (l.foldl (fun st g => raiseFault st g.gid (now st g) (f g)) s).groups) :
    ∃ g ∈ s.groups, h.gid = g.gid ∧ h.vd = g.vd ∧ (Stopped g ∨ (∃ k ∈ l, k.gid = g.gid) → Stopped h) := by
  induction l generalizing s with
  | nil => exact ⟨h, hh, rfl, rfl, fun h => h.resolve_right (by simp)⟩
  | cons k l ih =>
    obtain ⟨g1, hg1, hgid, hvd, hst⟩ := ih _ hh
    obtain ⟨g, hg, hgid', hvd', hst'⟩ := mem_raiseFault hg1
    refine ⟨g, hg, hgid.trans hgid', hvd.trans hvd', ?_⟩
    rintro (h | ⟨j, hj, e⟩)
    · exact hst (.inl (hst' (.inl h)))
    · rcases List.mem_cons.mp hj with rfl | hj
      · exact hst (.inl (hst' (.inr e.symm)))
      · exact hst (.inr ⟨j, hj, e.trans hgid'.symm⟩)

/-- A fence leaves its device fenced, and no group of it running. -/
theorem fenceDevice_stops {s : State} {vd : Nat} (h : (s.vd vd).fenced = false) (code core detail : Nat) :
    ((fenceDevice s vd code core detail).vd vd).fenced = true ∧
      ∀ g ∈ (fenceDevice s vd code core detail).groups, g.vd = vd → Stopped g := by
  rw [fenceDevice, if_neg (by simp [h])]
  refine ⟨by simp, fun k hk hv => ?_⟩
  simp only [setStatus, State.modVd_groups, postEvent_groups] at hk
  obtain ⟨g, hg, hgid, hvd, hst⟩ := mem_foldl_raiseFault (fun st g => st.now g.core) (fenceRec · code detail) _ s hk
  exact hst (.inr ⟨g, List.mem_filter.mpr ⟨hg, by simp [← hvd, hv]⟩, rfl⟩)

/-- A fence that a failing line has asked for takes place at once. -/
theorem step_of_fences {s : State} {f : FenceReq} {l : List FenceReq} (hf : s.hub.fences = f :: l) (hv : 0 < f.vd) :
    step s = .next (fenceDevice (({ s with held := false, cur := none } : State).modHub fun h => { h with fences := l })
      f.vd f.code f.core f.detail) := by
  rw [step_of_due (t := fun st => .next (fenceOwner (st.modHub fun h => { h with fences := l }) f.vd f.code f.core f.detail))
    (by simp only [dueTurn, hf])]
  simp only [fenceOwner, if_neg (Nat.ne_of_gt hv)]

theorem whatIsDueComesFirst : WhatIsDueComesFirst := by
  refine ⟨fun s => step_due_order, fun s f l hf hv hn => ?_, fun s core n h rest ha hd => ⟨fun hb hl => ?_, fun hb => ?_⟩⟩
  · obtain ⟨hfenced, hstop⟩ := fenceDevice_stops (vd := f.vd)
      (s := ({ s with held := false, cur := none } : State).modHub fun h => { h with fences := l }) hn f.code f.core f.detail
    exact ⟨_, step_of_fences hf hv, hfenced, hstop⟩
  · exact ⟨_, tick_stops ha hd hb hl, now_reachCycle .., rfl, rfl, rfl⟩
  · exact ⟨_, tick_passes ha hd hb, now_reachCycle .., rfl, rfl, rfl⟩

/-! ### Merges before the end of a slice (R182, R390) -/

/-- `h` is `g` but for its splits and what is on its way to them: a group that merges stays where it is. -/
structure SamePlace (g h : Group) : Prop where
  gid : h.gid = g.gid
  core : h.core = g.core
  vd : h.vd = g.vd
  status : h.status = g.status
  handler : h.handler.isSome = g.handler.isSome

namespace SamePlace

variable {g h k : Group}

theorem refl (g : Group) : SamePlace g g := ⟨rfl, rfl, rfl, rfl, rfl⟩

theorem trans (a : SamePlace g h) (b : SamePlace h k) : SamePlace g k :=
  ⟨b.gid.trans a.gid, b.core.trans a.core, b.vd.trans a.vd, b.status.trans a.status, b.handler.trans a.handler⟩

theorem setSplit (g : Group) (ix : Nat) (sp : Split) : SamePlace g (g.setSplit ix sp) := by
  unfold Group.setSplit
  split
  · exact ⟨rfl, rfl, rfl, rfl, by simp⟩
  · exact ⟨rfl, rfl, rfl, rfl, rfl⟩

theorem modSplit (g : Group) (ix : Nat) (f : Split → Split) : SamePlace g (g.modSplit ix f) := by
  unfold Group.modSplit
  split
  · exact refl g
  · exact setSplit ..

theorem endSplit (g : Group) (ix : Nat) : SamePlace g (g.endSplit ix) := by
  obtain ⟨hgid, hcore, hvd, hstatus, hhandler⟩ := setSplit g ix freeSplit
  exact ⟨hgid, hcore, hvd, hstatus, hhandler⟩

theorem foldl {α : Type} {f : Group → α → Group} (hf : ∀ g a, SamePlace g (f g a)) (l : List α) (g : Group) :
    SamePlace g (l.foldl f g) := by
  induction l generalizing g with
  | nil => exact refl g
  | cons a l ih => exact (hf g a).trans (ih _)

theorem mergeSet (t : Nat) (g : Group) (j : LaneMask) : SamePlace g (mergeSet t g j) := by
  unfold Machine.mergeSet
  split
  · exact refl g
  · exact (modSplit ..).trans (foldl endSplit ..)

theorem mergeReady (t : Nat) (g : Group) : SamePlace g (mergeReady t g) := by
  unfold Machine.mergeReady
  split
  · exact foldl (mergeSet t) ..
  · exact refl g

end SamePlace

/-- Every group after the merges of a core is one from before them. -/
theorem mem_mergeGroups {s : State} {core : Nat} {h : Group} (hh : h ∈ (mergeGroups s core).groups) :
    ∃ g ∈ s.groups, SamePlace g h := by
  obtain ⟨g, hg, rfl⟩ := List.mem_map.mp hh
  refine ⟨g, hg, ?_⟩
  split
  · exact .mergeReady ..
  · exact .refl g

/-- Every group has its merged form. -/
theorem exists_merged {s : State} (core : Nat) {g : Group} (hg : g ∈ s.groups) :
    ∃ h ∈ (mergeGroups s core).groups, SamePlace g h := by
  refine ⟨_, List.mem_map_of_mem hg, ?_⟩
  split
  · exact .mergeReady ..
  · exact .refl g

/-! ### Groups that leave (R391) -/

theorem mem_modGroup {s : State} {g : Group} (hg : g ∈ s.groups) (gid : Nat) (f : Group → Group) :
    (if g.gid = gid then f g else g) ∈ (s.modGroup gid f).groups := by
  simp only [State.modGroup, beq_iff_eq]
  exact List.mem_map_of_mem (f := fun h : Group => if h.gid = gid then f h else h) hg

/-- The group of a number after a change that keeps its number. -/
theorem group?_modGroup_same {s : State} {gid : Nat} {g : Group} (hg : s.group? gid = some g) {f : Group → Group}
    (hf : ∀ g, (f g).gid = g.gid) : (s.modGroup gid f).group? gid = some (f g) := by
  rw [State.group?_modGroup _ _ _ _ hf, if_pos rfl, hg]
  rfl

/-- A running group of an outgoing device: trapped, or saved by the hardware at once in its resume phase. -/
def expelled (t : Nat) (g : Group) : Group :=
  { g with status := if g.handler.isSome then .saving else .trapped, trapAt := t }

/-- The groups of other numbers stay as they are. -/
theorem expelGroup_other {s : State} {g k : Group} (hg : g ∈ s.groups) (t : Nat) (hk : k.gid ≠ g.gid) :
    g ∈ (expelGroup t s k).groups := by
  unfold expelGroup trapGroup
  split
  · simpa only [if_neg hk.symm] using mem_modGroup hg k.gid _
  · simpa only [if_neg hk.symm] using mem_modGroup hg k.gid _

section
variable {s : State} {g k : Group} (hgid : k.gid = g.gid) (hrun : k.status = .running) (hh : k.handler.isSome = g.handler.isSome)
include hgid hrun hh

theorem expelGroup_same (hg : g ∈ s.groups) (hr : g.status = .running) (t : Nat) : expelled t g ∈ (expelGroup t s k).groups := by
  unfold expelGroup trapGroup expelled
  rw [hh]
  cases hs : g.handler.isSome with
  | true => simpa [hrun, hgid] using mem_modGroup hg k.gid fun h => { h with status := .saving, trapAt := t }
  | false =>
    simpa [hgid, hr] using mem_modGroup hg k.gid fun h => if h.status = .running then { h with status := .trapped, trapAt := t } else h

/-- A group that has been expelled stays so when it is expelled again. -/
theorem expelGroup_again {t : Nat} (hg : expelled t g ∈ s.groups) : expelled t g ∈ (expelGroup t s k).groups := by
  unfold expelGroup trapGroup
  rw [hh]
  cases hs : g.handler.isSome with
  | true =>
    simpa [hrun, hgid, expelled, hs] using mem_modGroup hg k.gid fun h => { h with status := .saving, trapAt := t }
  | false =>
    simpa [hgid, expelled, hs] using
      mem_modGroup hg k.gid fun h => if h.status = .running then { h with status := .trapped, trapAt := t } else h

end

/-- Expelling groups of other numbers leaves a group. -/
theorem foldl_expelGroup_other {l : List Group} {s : State} {g : Group} (hg : g ∈ s.groups) (t : Nat) (hl : ∀ k ∈ l, k.gid ≠ g.gid) :
    g ∈ (l.foldl (expelGroup t) s).groups := by
  induction l generalizing s with
  | nil => exact hg
  | cons k l ih =>
    obtain ⟨hk, hl⟩ := List.forall_mem_cons.mp hl
    exact ih (expelGroup_other hg t hk) hl

/-- A running group is expelled when a group of its number is among those that leave, where each of these is in its state. -/
theorem foldl_expelGroup_same {l : List Group} {s : State} {g : Group} {t : Nat}
    (hl : ∀ k ∈ l, k.gid = g.gid → k.status = .running ∧ k.handler.isSome = g.handler.isSome)
    (hg : expelled t g ∈ s.groups ∨ (g ∈ s.groups ∧ g.status = .running ∧ ∃ k ∈ l, k.gid = g.gid)) :
    expelled t g ∈ (l.foldl (expelGroup t) s).groups := by
  induction l generalizing s with
  | nil => simpa using hg
  | cons k l ih =>
    obtain ⟨hk, hl⟩ := List.forall_mem_cons.mp hl
    refine ih hl ?_
    by_cases e : k.gid = g.gid
    · obtain ⟨hrun, hh⟩ := hk e
      rcases hg with hg | ⟨hg, hr, -⟩
      · exact .inl (expelGroup_again e hrun hh hg)
      · exact .inl (expelGroup_same e hrun hh hg hr t)
    · rcases hg with hg | ⟨hg, hr, j, hj, ej⟩
      · exact .inl (expelGroup_other (g := expelled t g) hg t e)
      · rcases List.mem_cons.mp hj with rfl | hj
        · exact absurd ej e
        · exact .inr ⟨expelGroup_other hg t e, hr, j, hj, ej⟩

/-- What expelling groups leaves: all but the groups. -/
theorem expelGroup_rest (t : Nat) (s : State) (g : Group) : expelGroup t s g = { s with groups := (expelGroup t s g).groups } := by
  unfold expelGroup
  split <;> rfl

/-! ### The end of a slice (R390) -/

theorem sliceOf_setSlice (s : State) (core : Nat) (k : Slice) : sliceOf (setSlice s core k) core k.region = some k := by
  simp [sliceOf, setSlice]

section
variable {s : State} {core v : Nat} {k : Slice} (hk : sliceOf s core k.region = some k) (hv : k.resident = some v)
  (hl : k.leaving = false) (ht : k.since + sliceCycles s v < s.now core) (hw : hasWork s core v = true)
  (hr : ∀ g ∈ groupsOn s core v, retires s g = false)
include hk hv hl ht hw hr

/-- With no other device that has work, the slice begins anew. -/
theorem sliceExpiry_renews (hn : nextDevice s core k.region v = none) : exec (.sliceExpiry core k.region) s =
    .next (setSlice s core { k with since := k.since + sliceCycles s v }) := by
  have hdue : sliceDue s core k = true := by simp [sliceDue, sliceEnd, hv, hl, ht, hw]
  have hret : (groupsOn s core v).find? (retires s) = none := by simpa using hr
  simp [execSliceExpiry, hk, hv, hdue, hret, hn]

/-- With another device that has work, the groups of the resident one leave after the merges of their last cycle. -/
theorem sliceExpiry_expels {u : Nat} (hn : nextDevice s core k.region v = some u) : exec (.sliceExpiry core k.region) s =
    .next ((groupsOn s core v).foldl (expelGroup (s.now core)) (setSlice (mergeGroups s core) core { k with leaving := true })) := by
  have hdue : sliceDue s core k = true := by simp [sliceDue, sliceEnd, hv, hl, ht, hw]
  have hret : (groupsOn s core v).find? (retires s) = none := by simpa using hr
  simp [execSliceExpiry, hk, hv, hdue, hret, hn]

end

theorem mem_groupsOn {s : State} {core vd : Nat} {g : Group} :
    g ∈ groupsOn s core vd ↔ g ∈ s.groups ∧ g.core = core ∧ g.vd = vd := by
  simp [groupsOn]

section
variable {s : State} {core v t : Nat} {k : Slice} {g : Group} (hu : ∀ h ∈ (mergeGroups s core).groups, h.gid = g.gid → h = g)
include hu

/-- The groups that a group's number names before the merges stand where it stands. -/
theorem samePlace_of_gid {j : Group} (hj : j ∈ s.groups) (e : j.gid = g.gid) : SamePlace j g := by
  obtain ⟨h, hh, p⟩ := exists_merged core hj
  exact hu h hh (p.gid.trans e) ▸ p

variable (hg : g ∈ (mergeGroups s core).groups)
include hg

/-- A running group of the outgoing device is trapped, or saved at once. -/
theorem leaving_expelled (hc : g.core = core) (hv : g.vd = v) (hr : g.status = .running) :
    expelled t g ∈ ((groupsOn s core v).foldl (expelGroup t) (setSlice (mergeGroups s core) core k)).groups := by
  obtain ⟨j, hj, p⟩ := mem_mergeGroups hg
  refine foldl_expelGroup_same (fun i hi e => ?_) (.inr ⟨hg, hr, j, ?_, p.gid.symm⟩)
  · have q := samePlace_of_gid hu (mem_groupsOn.mp hi).1 e
    exact ⟨q.status.symm.trans hr, q.handler.symm⟩
  · exact mem_groupsOn.mpr ⟨hj, p.core.symm.trans hc, p.vd.symm.trans hv⟩

/-- A group of another core or device stays. -/
theorem leaving_other (ho : g.core ≠ core ∨ g.vd ≠ v) :
    g ∈ ((groupsOn s core v).foldl (expelGroup t) (setSlice (mergeGroups s core) core k)).groups := by
  refine foldl_expelGroup_other (s := setSlice (mergeGroups s core) core k) hg t fun i hi e => ?_
  obtain ⟨hi, hic, hiv⟩ := mem_groupsOn.mp hi
  have q := samePlace_of_gid hu hi e
  exact ho.elim (fun h => h (q.core.trans hic)) fun h => h (q.vd.trans hiv)

end

/-! ### A trapped group (R391 to R393, R262) -/

/-- The group lets go of the registers that an operation held. -/
def letGo (o : EngOp) (g : Group) : Group := { g with vlocks := g.vlocks.filter fun k => k.2.2 != o.id }

theorem group?_dropEng (s : State) (o : EngOp) (gid : Nat) :
    (dropEng s o).group? gid = if o.gid = gid then (s.group? gid).map (letGo o) else s.group? gid :=
  State.group?_modGroup _ _ _ (letGo o) fun _ => rfl

/-- Operations taken back leave the groups but for the registers that they held. -/
theorem group?_foldl_dropEng {s : State} {gid : Nat} {g : Group} (hg : s.group? gid = some g) (l : List EngOp) :
    ∃ vl, (l.foldl dropEng s).group? gid = some { g with vlocks := vl } := by
  induction l generalizing s g with
  | nil => exact ⟨g.vlocks, hg⟩
  | cons o l ih =>
    have h1 : ∃ vl, (dropEng s o).group? gid = some { g with vlocks := vl } := by
      rw [group?_dropEng, hg]
      split
      · exact ⟨_, rfl⟩
      · exact ⟨g.vlocks, rfl⟩
    obtain ⟨vl, h1⟩ := h1
    obtain ⟨vl, h2⟩ := ih h1
    exact ⟨vl, h2⟩

/-- An operation that is left after others are taken back is none of them. -/
theorem mem_foldl_dropEng {s : State} {l : List EngOp} {o : EngOp} (ho : o ∈ (l.foldl dropEng s).engops) :
    o ∈ s.engops ∧ ∀ k ∈ l, o.id ≠ k.id := by
  induction l generalizing s with
  | nil => exact ⟨ho, by simp⟩
  | cons k l ih =>
    obtain ⟨h1, h2⟩ := ih ho
    have h1 : o ∈ s.engops.filter fun p => p.id != k.id := h1
    obtain ⟨h1, hk⟩ := List.mem_filter.mp h1
    exact ⟨h1, List.forall_mem_cons.mpr ⟨by simpa using hk, h2⟩⟩

/-- An operation that is not taken back as its group's handler starts or it is saved (R262). -/
def KeptEng (o : EngOp) : Prop := o.admitted = true ∨ o.isPoint = true ∨ o.who = 8

/-- The operations of a group that are taken back. -/
def takenBack (s : State) (gid : Nat) : List EngOp :=
  s.engops.filter fun o => o.gid == gid && !o.admitted && !o.isPoint && o.who != 8

theorem mem_takenBack {s : State} {gid : Nat} {o : EngOp} : o ∈ takenBack s gid ↔ o ∈ s.engops ∧ o.gid = gid ∧ ¬ KeptEng o := by
  simp [takenBack, KeptEng, and_assoc]

/-- A block whose operation is taken back ends. -/
def unblock (ops : List EngOp) (b : Block) : Block := match b with
  | .engine id => if ops.any fun o => o.id == id then .none else b
  | _ => b

theorem unblock_nil (b : Block) : unblock [] b = b := by cases b <;> rfl

theorem reissueEng_eq (s : State) (gid : Nat) : reissueEng s gid = ((takenBack s gid).foldl dropEng s).modGroup gid fun g =>
    { g with splits := g.splits.map fun sp => { sp with block := unblock (takenBack s gid) sp.block },
             batches := g.batches.map fun b => { b with block := unblock (takenBack s gid) b.block } } := rfl

/-- What taking operations back leaves of their group. -/
theorem group?_reissueEng {s : State} {gid : Nat} {g : Group} (hg : s.group? gid = some g) : ∃ h,
    (reissueEng s gid).group? gid = some h ∧ h = { g with vlocks := h.vlocks, splits := h.splits, batches := h.batches } ∧
      ((∀ o ∈ s.engops, o.gid = gid → KeptEng o) → h.splits = g.splits ∧ h.batches = g.batches) := by
  obtain ⟨vl, h1⟩ := group?_foldl_dropEng hg (takenBack s gid)
  rw [reissueEng_eq]
  refine ⟨_, group?_modGroup_same h1 fun _ => rfl, rfl, fun hk => ?_⟩
  have hnone : takenBack s gid = [] :=
    List.eq_nil_iff_forall_not_mem.mpr fun o ho => by
      obtain ⟨ho, hgid, hnot⟩ := mem_takenBack.mp ho
      exact hnot (hk o ho hgid)
  simp only [hnone, unblock_nil, List.map_id', and_self]

/-- What is left of a group's operations is what is kept. -/
theorem keptEng_of_mem_reissueEng {s : State} {gid : Nat} {o : EngOp} (ho : o ∈ (reissueEng s gid).engops) (hgid : o.gid = gid) :
    KeptEng o := by
  obtain ⟨ho, hid⟩ := mem_foldl_dropEng (l := takenBack s gid) ho
  exact Classical.byContradiction fun hk => hid o (mem_takenBack.mpr ⟨ho, hgid, hk⟩) rfl

@[simp] theorem now_reissueEng (s : State) (gid c : Nat) : (reissueEng s gid).now c = s.now c := by
  have h : (reissueEng s gid).cores = s.cores := by
    rw [reissueEng_eq, State.modGroup_cores]
    exact foldl_keeps (p := State.cores) (f := dropEng) (fun _ _ => rfl) (takenBack s gid) s
  rw [State.now, State.now, State.core, h, State.core]

section
variable {s : State} {gid : Nat} {g : Group} (hg : s.group? gid = some g) (hs : g.status = .trapped)
include hg hs

/-- The handler of a group whose lane work has drained starts in its save phase. -/
theorem handlerStart_starts {r : HandlerRec} (hr : handlerRec s g.vd = some r) (ht : trapReady g (s.now g.core) = true) :
    exec (.handlerStart gid) s = .next ((reissueEng s gid).modGroup gid fun h =>
      { enterHandler h false r.save r.scode r.slen (s.now g.core) s.fresh with resumeAt := (r.scode, r.slen, r.resume) }) := by
  simp [execHandlerStart, hg, hs, hr, ht]

/-- A trapped group waits while its lane work drains. -/
theorem handlerStart_waits {r : HandlerRec} (hr : handlerRec s g.vd = some r) (ht : trapReady g (s.now g.core) = false) :
    exec (.handlerStart gid) s = .next s := by
  simp [execHandlerStart, hg, hs, hr, ht]

/-- Without a valid record the hardware saves the group. -/
theorem handlerStart_saves (hr : handlerRec s g.vd = none) :
    ∃ t, exec (.handlerStart gid) s = .next t ∧ t.group? gid = some { g with status := .saving } := by
  refine ⟨_, by simp only [exec_handlerStart, execHandlerStart, hg, hs, hr]; rfl, ?_⟩
  rw [State.group?, postEvent_groups, ← State.group?, State.group?_setGroup, if_pos (State.group?_gid hg), hg]
  rfl

end

/-! ### Budgets and forced saves (R396) -/

section
variable {s : State} {gid : Nat} {g : Group} {c : Context} (hg : s.group? gid = some g) (hc : (s.vd g.vd).ctx = some c)
  (hs : g.status = .trapped ∨ ∃ h, g.status = .running ∧ g.handler = some h ∧ h.resume = false)
include hc hs

/-- The budget of a save phase is counted from the trap. -/
theorem budgetOver_iff : budgetOver s g = true ↔ g.trapAt + c.budget < s.now g.core := by
  have h : budgetEnd s g = some (g.trapAt + c.budget) := by
    rcases hs with hs | ⟨h, hs, hh, hp⟩
    · simp [budgetEnd, hs, hc]
    · simp [budgetEnd, hs, hh, hp, hc]
  simp [budgetOver, h]

include hg

theorem handlerBudgetExpiry_saves (ho : g.trapAt + c.budget < s.now g.core) : ∃ t, exec (.handlerBudgetExpiry gid) s = .next t ∧
    t.group? gid = some { g with status := .saving, handler := none } := by
  have hover := (budgetOver_iff hc hs).mpr ho
  have he : exec (.handlerBudgetExpiry gid) s = .next ((dropParks s fun p => p.gid == gid && p.who == 8).modGroup gid fun h =>
      { h with status := .saving, handler := none }) := by
    simp [execHandlerBudgetExpiry, hg, hover]
  exact ⟨_, he, group?_modGroup_same (s := dropParks s _) hg fun _ => rfl⟩

theorem handlerBudgetExpiry_waits (ho : s.now g.core ≤ g.trapAt + c.budget) : exec (.handlerBudgetExpiry gid) s = .next s := by
  have hover : budgetOver s g = false := Bool.eq_false_iff.mpr fun h => Nat.not_lt.mpr ho ((budgetOver_iff hc hs).mp h)
  simp [execHandlerBudgetExpiry, hg, hover]

end

/-- The hardware saves a group once its batches, the engine and the copies are at rest. -/
theorem forcedSave_saves {s : State} {gid : Nat} {g : Group} (hg : s.group? gid = some g) (hs : g.status = .saving)
    (hb : ∀ b ∈ g.batches, b.started = true → b.suspended = true) (hq : coreQuiet s g.core g.vd = true) :
    exec (.forcedSave gid) s = .next ((markForced (reissueEng s gid) g.team).modGroup gid fun h =>
      { h with status := .savedForced, cycBefore := cyclesOf h (s.now h.core), cycSince := s.now h.core }) := by
  have hall : (g.batches.all fun b => !b.started || b.suspended) = true :=
    List.all_eq_true.mpr fun b h => by
      rw [Bool.or_eq_true, Bool.not_eq_true', ← Bool.not_eq_true, ← Decidable.imp_iff_not_or]
      exact hb b h
  simp [execForcedSave, hg, hs, hall, hq]

theorem slicesEndInTraps : SlicesEndInTraps := by
  refine ⟨?_, ?_, ?_, ?_⟩
  case refine_1 =>
    intro s core region v k hk hv he hl ht hw hr
    subst he
    refine ⟨fun hn => ⟨_, sliceExpiry_renews hk hv hl ht hw hr hn, sliceOf_setSlice .., rfl⟩, fun u hn =>
      ⟨_, sliceExpiry_expels hk hv hl ht hw hr hn, ?_, ?_, fun g hg hu =>
        ⟨leaving_expelled hu hg, leaving_other hu hg⟩⟩⟩
    · exact foldl_keeps (p := State.mem) (fun s g => by rw [expelGroup_rest]) _ _
    · have hs := sliceOf_setSlice (mergeGroups s core) core { k with leaving := true }
      exact (foldl_keeps (p := fun t => sliceOf t core k.region) (fun s g => by rw [expelGroup_rest]; rfl) _ _).trans hs
  case refine_2 =>
    intro s gid g hg hs
    refine ⟨fun r hr ht => ?_, fun r hr ht => handlerStart_waits hg hs hr ht, fun hr => handlerStart_saves hg hs hr⟩
    obtain ⟨h, hh, he, hsame⟩ := group?_reissueEng hg
    refine ⟨_, _, handlerStart_starts hg hs hr ht, group?_modGroup_same hh fun _ => rfl, rfl, rfl, rfl, ?_, ?_, ?_, ?_,
      fun o ho hgid => keptEng_of_mem_reissueEng ho hgid, hsame⟩
    all_goals rw [he]; rfl
  case refine_3 =>
    intro s gid g c hg hc hs
    exact ⟨handlerBudgetExpiry_saves hg hc hs, handlerBudgetExpiry_waits hg hc hs⟩
  case refine_4 =>
    intro s gid g hg hs hb hq
    obtain ⟨h, hh, he, -⟩ := group?_reissueEng hg
    have hm : (markForced (reissueEng s gid) g.team).group? gid = some h := hh
    refine ⟨_, _, forcedSave_saves hg hs hb hq, group?_modGroup_same hm fun _ => rfl, rfl, ?_, ?_, ?_, ?_⟩
    · rw [he]
    · rw [he]
    · rw [he]; rfl
    · intro m hm ht
      obtain ⟨n, hn, rfl⟩ := List.mem_map.mp hm
      by_cases e : some n.tid = g.team
      · rw [if_pos e]
      · rw [if_neg e] at ht
        exact absurd ht.symm e

/-- Settles O45: the turns that may not wait in their order, and the events of a slice's end by what each changes of its groups. -/
theorem slicesAndTimersComeDue : Obligations.SlicesAndTimersComeDue := ⟨whatIsDueComesFirst, slicesEndInTraps⟩

end Sys2Proof.Proofs
end

section
/-! O26 fails at a state in which a group holds two batches of one number. VSPAWN that must wait sets what it has served in every
batch that has its batch's number (R187), and `LaneSuspends` leaves what these have served as it was. VRUN numbers its batches
apart; no hypothesis of the statement does. -/

namespace Sys2Proof.Proofs
open Sys2Proof Sys2Proof.Machine

/-! ### VSPAWN with no bin to open, in a group that holds two batches of one number -/

/-- VSPAWN of argument v8 at entry index 100 + v7. -/
def spawnFields : LaneF :=
  { stall := 0, guard := 31, inv := 0, dst := 0x3FE, a := 7, b := 8, c := 0x3FE, imm := 0, ty := 0, mode := 0, ext := 100 }

/-- A batch of number 0 with lane 0 active, in which a suspended instruction has served some lanes. -/
def twinBatch (served : LaneMask) : Batch := { loadBatch with mask := 1, served := served }

/-- A group of device 1 about to issue from the first of two batches of one number; all 8 bins of the device are open, for entry
indices 0 to 7. -/
def twins : State :=
  let s := State.reset.withFetchWord 96 0
  let t := s.modGroup 0 fun g => { g with batches := [twinBatch 0, twinBatch 1] }
  { t.modCore 0 fun k => { k with bins := (upto 8).map fun n => emptyBin s 0 n .spawn 1 loadLaunch n none } with
    cur := some (.batch 0 0) }

/-- The group of the two batches. -/
def twinGroup : Group :=
  { startGroup State.reset 0 1 0 loadLaunch 0 0 [] (~~~(0 : LaneMask)) fmtReset 0 with
    batches := [twinBatch 0, twinBatch 1] }

theorem twins_issuer : issuingBatch twins = some (twinGroup, twinBatch 0) := by decide +kernel

/-- The lanes served in each batch of group 0 after a step. -/
def servedAfter : Out → Option (List LaneMask)
  | .next t => (t.group? 0).map fun g => g.batches.map (·.served)
  | _ => none

/-- The lanes served in the second batch are lost as the first one waits. -/
theorem served_vspawn_twins : servedAfter (exec (.vspawn spawnFields) twins) = some [0, 0] := by decide +kernel

theorem twins_ready : LaneReady (.vspawn spawnFields) 0x0E0 spawnFields twins twinGroup (twinBatch 0) where
  issuer := twins_issuer
  owner := by decide
  parts := rfl
  formed := by unfold WellFormed; decide
  formatted := by decide
  fresh := rfl
  allotted := by decide
  results := by decide
  readable := by decide
  latest := by unfold Latest; decide
  recent := fun _ _ _ _ _ _ h => by simp [twinBatch, loadBatch] at h
  unlocked := by decide
  sound := fun _ => by
    have h : (twins.core twinGroup.core).poison = [] := by decide
    simp [poisonRead, h]

/-- Refutes O26: in `twins` VSPAWN waits for a bin, and the second batch of the number, which had served lane 0, has served none
afterwards, where the statement has it keep what it has served. -/
theorem not_binsCollectFireAndFormGroups : ¬ Obligations.BinsCollectFireAndFormGroups := by
  rintro ⟨hspawn, -, -⟩
  obtain ⟨-, -, -, -, hwait⟩ := hspawn twins twinGroup (twinBatch 0) spawnFields twins_ready rfl (by decide) (by decide)
  obtain ⟨t, ht, ⟨⟨h, hfound, -, -, -, hb⟩, -⟩, -⟩ := hwait 0 (by decide) (by decide) (by decide)
  have hg : t.group? 0 = some h := hfound
  have hserved := served_vspawn_twins
  simp only [ht, servedAfter, hg, hb, Option.map_some] at hserved
  exact absurd hserved (by decide)

end Sys2Proof.Proofs
end
